-- ==== Sys2Proof/Word.lean ====
section
/-! DEFINITION. The word type of the station (a character of eight bits) and its fixed-size tables: six hoses,
four pumps, probe channels and spill inputs, eight book positions (R88, R104, R200). -/

namespace Sys2Proof

/-- The eight data bits of a character of the bay line or of the configuration memory (R152, R200). -/
abbrev Byte := BitVec 8

/-- A hose of the station, 1 to 6. -/
inductive HoseIx where
  | h1 | h2 | h3 | h4 | h5 | h6
  deriving DecidableEq, Repr

/-- All of them, in ascending order. -/
def HoseIx.all : List HoseIx := [.h1, .h2, .h3, .h4, .h5, .h6]

/-- The number the manual gives it, from 1. -/
def HoseIx.number : HoseIx → Nat
  | .h1 => 1
  | .h2 => 2
  | .h3 => 3
  | .h4 => 4
  | .h5 => 5
  | .h6 => 6

/-- Its position from 0, as the configuration image counts positions (R200). -/
def HoseIx.index (i : HoseIx) : Nat := i.number - 1

/-- One item for each of the station's six hoses. -/
structure PerHose (α : Type) where
  h1 : α
  h2 : α
  h3 : α
  h4 : α
  h5 : α
  h6 : α
  deriving DecidableEq, Repr

/-- The item of one position. -/
def PerHose.get {α : Type} (t : PerHose α) : HoseIx → α
  | .h1 => t.h1
  | .h2 => t.h2
  | .h3 => t.h3
  | .h4 => t.h4
  | .h5 => t.h5
  | .h6 => t.h6

/-- The table with one position's item replaced. -/
def PerHose.set {α : Type} (t : PerHose α) (i : HoseIx) (a : α) : PerHose α :=
  match i with
  | .h1 => { t with h1 := a }
  | .h2 => { t with h2 := a }
  | .h3 => { t with h3 := a }
  | .h4 => { t with h4 := a }
  | .h5 => { t with h5 := a }
  | .h6 => { t with h6 := a }

/-- Every position's item through one function. -/
def PerHose.map {α β : Type} (f : α → β) (t : PerHose α) : PerHose β := ⟨f t.h1, f t.h2, f t.h3, f t.h4, f t.h5, f t.h6⟩

/-- The table whose item at each position is a function of the position. -/
def PerHose.ofIx {α : Type} (f : HoseIx → α) : PerHose α := ⟨f .h1, f .h2, f .h3, f .h4, f .h5, f .h6⟩

/-- The same item at every position. -/
def PerHose.fill {α : Type} (a : α) : PerHose α := ⟨a, a, a, a, a, a⟩

/-- A pump of the station, 1 to 4. -/
inductive PumpIx where
  | p1 | p2 | p3 | p4
  deriving DecidableEq, Repr

/-- All of them, in ascending order. -/
def PumpIx.all : List PumpIx := [.p1, .p2, .p3, .p4]

/-- The number the manual gives it, from 1. -/
def PumpIx.number : PumpIx → Nat
  | .p1 => 1
  | .p2 => 2
  | .p3 => 3
  | .p4 => 4

/-- Its position from 0, as the configuration image counts positions (R200). -/
def PumpIx.index (i : PumpIx) : Nat := i.number - 1

/-- One item for each of the station's four pumps (1.3). -/
structure PerPump (α : Type) where
  p1 : α
  p2 : α
  p3 : α
  p4 : α
  deriving DecidableEq, Repr

/-- The item of one position. -/
def PerPump.get {α : Type} (t : PerPump α) : PumpIx → α
  | .p1 => t.p1
  | .p2 => t.p2
  | .p3 => t.p3
  | .p4 => t.p4

/-- The table with one position's item replaced. -/
def PerPump.set {α : Type} (t : PerPump α) (i : PumpIx) (a : α) : PerPump α :=
  match i with
  | .p1 => { t with p1 := a }
  | .p2 => { t with p2 := a }
  | .p3 => { t with p3 := a }
  | .p4 => { t with p4 := a }

/-- Every position's item through one function. -/
def PerPump.map {α β : Type} (f : α → β) (t : PerPump α) : PerPump β := ⟨f t.p1, f t.p2, f t.p3, f t.p4⟩

/-- The table whose item at each position is a function of the position. -/
def PerPump.ofIx {α : Type} (f : PumpIx → α) : PerPump α := ⟨f .p1, f .p2, f .p3, f .p4⟩

/-- The same item at every position. -/
def PerPump.fill {α : Type} (a : α) : PerPump α := ⟨a, a, a, a⟩

/-- A probe channel of the station, 1 to 4. -/
inductive ProbeIx where
  | c1 | c2 | c3 | c4
  deriving DecidableEq, Repr

/-- All of them, in ascending order. -/
def ProbeIx.all : List ProbeIx := [.c1, .c2, .c3, .c4]

/-- The number the manual gives it, from 1. -/
def ProbeIx.number : ProbeIx → Nat
  | .c1 => 1
  | .c2 => 2
  | .c3 => 3
  | .c4 => 4

/-- Its position from 0, as the configuration image counts positions (R200). -/
def ProbeIx.index (i : ProbeIx) : Nat := i.number - 1

/-- One item for each of the station's four probe channels (4.5). -/
structure PerProbe (α : Type) where
  c1 : α
  c2 : α
  c3 : α
  c4 : α
  deriving DecidableEq, Repr

/-- The item of one position. -/
def PerProbe.get {α : Type} (t : PerProbe α) : ProbeIx → α
  | .c1 => t.c1
  | .c2 => t.c2
  | .c3 => t.c3
  | .c4 => t.c4

/-- The table with one position's item replaced. -/
def PerProbe.set {α : Type} (t : PerProbe α) (i : ProbeIx) (a : α) : PerProbe α :=
  match i with
  | .c1 => { t with c1 := a }
  | .c2 => { t with c2 := a }
  | .c3 => { t with c3 := a }
  | .c4 => { t with c4 := a }

/-- Every position's item through one function. -/
def PerProbe.map {α β : Type} (f : α → β) (t : PerProbe α) : PerProbe β := ⟨f t.c1, f t.c2, f t.c3, f t.c4⟩

/-- The table whose item at each position is a function of the position. -/
def PerProbe.ofIx {α : Type} (f : ProbeIx → α) : PerProbe α := ⟨f .c1, f .c2, f .c3, f .c4⟩

/-- The same item at every position. -/
def PerProbe.fill {α : Type} (a : α) : PerProbe α := ⟨a, a, a, a⟩

/-- A spill input of the station, 1 to 4. -/
inductive InputIx where
  | i1 | i2 | i3 | i4
  deriving DecidableEq, Repr

/-- All of them, in ascending order. -/
def InputIx.all : List InputIx := [.i1, .i2, .i3, .i4]

/-- The number the manual gives it, from 1. -/
def InputIx.number : InputIx → Nat
  | .i1 => 1
  | .i2 => 2
  | .i3 => 3
  | .i4 => 4

/-- Its position from 0, as the configuration image counts positions (R200). -/
def InputIx.index (i : InputIx) : Nat := i.number - 1

/-- One item for each of the station's four spill contact inputs (5.1). -/
structure PerInput (α : Type) where
  i1 : α
  i2 : α
  i3 : α
  i4 : α
  deriving DecidableEq, Repr

/-- The item of one position. -/
def PerInput.get {α : Type} (t : PerInput α) : InputIx → α
  | .i1 => t.i1
  | .i2 => t.i2
  | .i3 => t.i3
  | .i4 => t.i4

/-- The table with one position's item replaced. -/
def PerInput.set {α : Type} (t : PerInput α) (i : InputIx) (a : α) : PerInput α :=
  match i with
  | .i1 => { t with i1 := a }
  | .i2 => { t with i2 := a }
  | .i3 => { t with i3 := a }
  | .i4 => { t with i4 := a }

/-- Every position's item through one function. -/
def PerInput.map {α β : Type} (f : α → β) (t : PerInput α) : PerInput β := ⟨f t.i1, f t.i2, f t.i3, f t.i4⟩

/-- The table whose item at each position is a function of the position. -/
def PerInput.ofIx {α : Type} (f : InputIx → α) : PerInput α := ⟨f .i1, f .i2, f .i3, f .i4⟩

/-- The same item at every position. -/
def PerInput.fill {α : Type} (a : α) : PerInput α := ⟨a, a, a, a⟩

/-- A book position of the configuration image, 1 to 8. -/
inductive BookIx where
  | b1 | b2 | b3 | b4 | b5 | b6 | b7 | b8
  deriving DecidableEq, Repr

/-- All of them, in ascending order. -/
def BookIx.all : List BookIx := [.b1, .b2, .b3, .b4, .b5, .b6, .b7, .b8]

/-- The number the manual gives it, from 1. -/
def BookIx.number : BookIx → Nat
  | .b1 => 1
  | .b2 => 2
  | .b3 => 3
  | .b4 => 4
  | .b5 => 5
  | .b6 => 6
  | .b7 => 7
  | .b8 => 8

/-- Its position from 0, as the configuration image counts positions (R200). -/
def BookIx.index (i : BookIx) : Nat := i.number - 1

/-- One item for each of the image's eight book positions (R88, R200). -/
structure PerBook (α : Type) where
  b1 : α
  b2 : α
  b3 : α
  b4 : α
  b5 : α
  b6 : α
  b7 : α
  b8 : α
  deriving DecidableEq, Repr

/-- The item of one position. -/
def PerBook.get {α : Type} (t : PerBook α) : BookIx → α
  | .b1 => t.b1
  | .b2 => t.b2
  | .b3 => t.b3
  | .b4 => t.b4
  | .b5 => t.b5
  | .b6 => t.b6
  | .b7 => t.b7
  | .b8 => t.b8

/-- The table with one position's item replaced. -/
def PerBook.set {α : Type} (t : PerBook α) (i : BookIx) (a : α) : PerBook α :=
  match i with
  | .b1 => { t with b1 := a }
  | .b2 => { t with b2 := a }
  | .b3 => { t with b3 := a }
  | .b4 => { t with b4 := a }
  | .b5 => { t with b5 := a }
  | .b6 => { t with b6 := a }
  | .b7 => { t with b7 := a }
  | .b8 => { t with b8 := a }

/-- Every position's item through one function. -/
def PerBook.map {α β : Type} (f : α → β) (t : PerBook α) : PerBook β := ⟨f t.b1, f t.b2, f t.b3, f t.b4, f t.b5, f t.b6, f t.b7, f t.b8⟩

/-- The table whose item at each position is a function of the position. -/
def PerBook.ofIx {α : Type} (f : BookIx → α) : PerBook α := ⟨f .b1, f .b2, f .b3, f .b4, f .b5, f .b6, f .b7, f .b8⟩

/-- The same item at every position. -/
def PerBook.fill {α : Type} (a : α) : PerBook α := ⟨a, a, a, a, a, a, a, a⟩

/-- The hose of a number 1 to 6 (R54). -/
def HoseIx.ofNumber (n : Nat) : Option HoseIx := HoseIx.all.find? fun h => h.number == n

end Sys2Proof
end

