-- ==== Sys2Proof/Syntax.lean ====
section
/-! DEFINITION. The commands of the station: one constructor for each row of the table of operations and events
(spec/opcode_table.json, spec/95_what_each_step_holds.md). The table gives the rows no operands; the operands here
are what the rule of each row says the event is about (log 3, log 4, log 17, log 26). -/

namespace Sys2Proof

/-- The six products ("Products", 00_scope.md). DIESEL is the fuel product, the others are lube products. -/
inductive Product where
  | diesel | engineOil | hydraulicOil | drivetrainOil | coolant | grease
  deriving DecidableEq, Repr

/-- The instant of an expiry, an operand of one value: it carries no time, since the one time base of the state alone
says when it is (R206, log 1). -/
abbrev Instant := Unit

/-- The commands, in the table's order. `heldMs` and `heldUs` say how long the new level of an input has been held
without interruption when the command is taken. An expiry carries no time: it is taken when the one time base has brought
its timer to its setting (R206, log 1). -/
inductive Instr where
  /-- R1, R2: the levels the two phase inputs of a hose present and how long each has been held, in µs. -/
  | qualifiedPhaseChange (h : HoseIx) (levelA : Bool) (heldA : Nat) (levelB : Bool) (heldB : Nat)
  /-- R6. -/
  | creepWindowExpiry (now : Instant := ())
  /-- R7, R8. -/
  | rateWindowExpiry (h : HoseIx) (now : Instant := ())
  /-- R45, R16. -/
  | meterSettled (h : HoseIx) (now : Instant := ())
  /-- R12. -/
  | drivePeriodStart (h : HoseIx) (now : Instant := ())
  /-- R12. -/
  | dutyOnTimeEnd (h : HoseIx) (now : Instant := ())
  /-- R14, R15: the valve proof input shows the valve fully shut, or not. -/
  | valveProofChange (h : HoseIx) (closed : Bool) (heldMs : Nat)
  /-- R15. -/
  | zeroDutySettle (h : HoseIx) (now : Instant := ())
  /-- R16. -/
  | flowPastExpiry (h : HoseIx) (now : Instant := ())
  /-- R21. -/
  | pumpSettleExpiry (p : PumpIx) (now : Instant := ())
  /-- R21. -/
  | pumpProofChange (p : PumpIx) (present : Bool) (heldMs : Nat)
  /-- R22. -/
  | minimumOffExpiry (p : PumpIx) (now : Instant := ())
  /-- R28, R57. -/
  | nozzleHookChange (h : HoseIx) (offHook : Bool) (heldMs : Nat)
  /-- R29: whether the tag frame's own check is good, its machine id and its hours in tenths, where present. -/
  | tagFrame (h : HoseIx) (checkGood : Bool) (machine : Nat) (hours : Option Nat)
  /-- R30. -/
  | claimTimerExpiry (h : HoseIx) (now : Instant := ())
  /-- R42. -/
  | tagGraceExpiry (h : HoseIx) (now : Instant := ())
  /-- R41. -/
  | noFlowTimeout (h : HoseIx) (now : Instant := ())
  /-- R26. -/
  | lampFlashToggle (h : HoseIx) (now : Instant := ())
  /-- R85: the permit is named by its machine and product (R83). -/
  | permitExpiry (machine : Nat) (product : Product) (now : Instant := ())
  /-- R95: the tank book unit takes the DRAW at the head of the receive buffer. -/
  | drawBook
  /-- R75: the account table takes the DRAW at the head of the receive buffer. -/
  | drawAccount
  /-- R96. -/
  | receipt
  /-- R97. -/
  | level
  /-- R101. -/
  | gaugeAgeExpiry (k : BookIx) (now : Instant := ())
  /-- R103. -/
  | conflictTimerExpiry (now : Instant := ())
  /-- R104. -/
  | scanTimerExpiry (now : Instant := ())
  /-- R104 to R108: the pulses counted while the channel's gate was open. -/
  | probeGateClose (c : ProbeIx) (count : Nat)
  /-- R115: the spill contact is closed, or open. -/
  | spillInputConfirm (i : InputIx) (contactClosed : Bool) (heldMs : Nat)
  /-- R117. -/
  | emergencyStop (pressed : Bool) (heldMs : Nat)
  /-- R129: the keyswitch stands at RESET. -/
  | tripResetKey (heldMs : Nat)
  /-- R129: the keyswitch stands at its rest position. -/
  | keyRelease (heldMs : Nat)
  /-- R133. -/
  | overrideHoldExpiry (now : Instant := ())
  /-- R125: the trip unit takes the TRIP at the head of the receive buffer. -/
  | trip
  /-- R126. -/
  | clear
  /-- R127: the trip unit takes the BEACON at the head of the receive buffer. -/
  | beacon
  /-- R193: the peer table is told of the frame at the head of the receive buffer. -/
  | peerTableUpdate
  /-- R194. -/
  | peerQuietExpiry (address : Nat) (now : Instant := ())
  /-- R194, R196. -/
  | peerLostExpiry (address : Nat) (now : Instant := ())
  /-- R188. -/
  | beaconTimerExpiry (now : Instant := ())
  /-- R79 to R81. -/
  | rosterSet
  /-- R82. -/
  | rosterRemove
  /-- R84. -/
  | permit
  /-- R86. -/
  | accountRead
  /-- R148, R149. -/
  | journalRead
  /-- R146. -/
  | collect
  /-- R54. -/
  | stopHose
  /-- R180, R181. -/
  | statusReq
  /-- R182. -/
  | identReq
  /-- R183, R205. -/
  | restart
  /-- R184. -/
  | time
  /-- R175: a frame whose kind has no owner. -/
  | unknownKindFrame
  /-- R152, R154 to R157: a character heard on the line, its mark bit and whether its stop bit reads mark. -/
  | characterReceived (data : Byte) (marked : Bool) (stopGood : Bool)
  /-- R155, R158: how many character times the line has been silent beyond what the state shows (log 17). -/
  | characterTimeout (waited : Nat := 0)
  /-- R159: the silence of the line, in character times. -/
  | accessGapReached (silence : Nat)
  /-- R161. -/
  | leadTimeEnd
  /-- R162, R163. -/
  | echoMismatch
  /-- R169. -/
  | frameSent
  /-- R171. -/
  | joinTimerExpiry (now : Instant := ())
  /-- R172. -/
  | isolationHoldExpiry (now : Instant := ())
  /-- R199 to R204: the strap pins' value, the characters the configuration memory gave, whether the retention
  domain's integrity test shows it held, and, where power is lost again during the third step (R204), after how
  many closes. -/
  | powerOn (strap : Nat) (image : List Byte) (domainHeld : Bool) (lostAfter : Option Nat)
  /-- R203. -/
  | mainPowerLoss
  deriving DecidableEq, Repr

end Sys2Proof
end

