-- ==== Sys2Proof/Config.lean ====
section
/-! DEFINITION. What the part fixes (R182, R129, R7 and the capacities the rules state) and the free values: what
the manual leaves open, as constants without a body, of which no proof can know a value. -/

namespace Sys2Proof.Config

/-- The vendor code of IDENT_REP (R182). -/
def vendorCode : Nat := 2817

/-- The part code of IDENT_REP (R182). -/
def partCode : Nat := 7310

/-- The revision number of the parts the manual describes (R182). -/
def revision : Nat := 1

/-- Characters in a configuration image (10.2). -/
def imageLength : Nat := 798

/-- The qualification time of proofs, hooks, button and keyswitch, in ms (R14, R21, R28, R117, R129). -/
def qualifyMs : Nat := 100

/-- The override hold, in ms (R129). -/
def overrideHoldMs : Nat := 5000

/-- The rate window, in ms (R7). -/
def rateWindowMs : Nat := 1000

/-- Half a period of the flashing refusal lamp, in ms (R26). -/
def flashMs : Nat := 500

/-- Records of the roster at most (R59). -/
def rosterCapacity : Nat := 256

/-- Permits of the permit list at most (R83). -/
def permitCapacity : Nat := 8

/-- Keys of a recent-entry list at most (R93). -/
def recentCapacity : Nat := 16

/-- Heights of a probe channel's history at most (R106). -/
def historyCapacity : Nat := 4

/-- Entries of the origin list at most (R124). -/
def originCapacity : Nat := 16

/-- Places of the journal (R137, R139). -/
def journalCapacity : Nat := 128

/-- Frames of the receive buffer at most (R157). -/
def receiveCapacity : Nat := 4

/-- Ordinary entries of the transmit queue (R164). -/
def ordinaryCapacity : Nat := 6

/-- Reserved entries of the transmit queue (R164). -/
def reservedCapacity : Nat := 2

/-- Entries of the peer table at most (R192). -/
def peerCapacity : Nat := 32

/-- FREE VALUE (log 10, DESIGN CHOICE: R202 finds no default for some settings): the value a replaced setting
takes where the manual gives it no default, by the offset of its field in the image. -/
opaque unstatedSetting : Nat → Nat

/-- FREE VALUE (log 11, DESIGN CHOICE: R180 gives an unused position the tank 0 and says nothing of its other
characters but the absent values of R187; no rule gives the zone character when no zone can be taken): a character of
STATUS_REP, by part and offset. -/
opaque unstatedStatusByte : Nat → Nat → Byte

/-- FREE VALUE (log 13, DESIGN CHOICE: R40 and R92 both act after the same step): whether, at the n-th step that
brings both, the dead-level watch is taken before the threshold comparison. -/
opaque stockWatchFirst : Nat → Bool

/-- The places that carry a volume in four characters or in the range 0 to 4,294,967,295 (R60, R187). -/
inductive VolumePlace where
  | lastFill | draw | journalRec | liveVolume
  deriving DecidableEq, Repr

/-- The least volume of a place: a DRAW carries 1 or more and a JOURNAL_REC one above 0 (R187). -/
def VolumePlace.least : VolumePlace → Nat
  | .lastFill => 0
  | .draw => 1
  | .journalRec => 1
  | .liveVolume => 0

/-- FREE VALUE (log 34, DESIGN CHOICE: V of a great count can pass 4,294,967,295 (R3, R9), the end of the range of every
volume, and no rule says what its place then carries): what a place carries of such a volume, before it is brought into the
place's range. -/
opaque unstatedVolume : VolumePlace → Nat → Nat

end Sys2Proof.Config
end

