-- ==== Sys2Proof/Machine/State.lean ====
section
/-! DEFINITION. The state of the station as plain data: every piece of state the manual names, block by block
(the table of blocks in 00_scope.md), the settings its configuration image gives, and the station before its first
power-on. Times are in milliseconds of the one time base (R206) unless a docstring says otherwise. -/

namespace Sys2Proof.Machine

/-- A timer: stopped, or running for so many milliseconds. -/
abbrev Timer := Option Nat

/-! ## Settings (R200) -/

/-- The function of a spill input (5.1). -/
inductive SpillFunction where
  | none | sump | vapour
  deriving DecidableEq, Repr

/-- A spill input's function and active sense; `senseOpen` is the sense OPEN (5.1). -/
structure SpillSetting where
  function : SpillFunction
  senseOpen : Bool
  deriving DecidableEq, Repr

/-- A hose's settings (R200). `meterUsable` is false when R202 holds the hose's meter channel unused. -/
structure HoseSetting where
  product : Product
  tank : Nat
  meterK : Nat
  phaseWidthUs : Nat
  phaseErrorLimit : Nat
  maxFlow : Nat
  fullDuty : Nat
  trimDuty : Nat
  drivePeriodMs : Nat
  maxDelivery : Nat
  trimAllowance : Nat
  initialOverrun : Nat
  topUpLimit : Nat
  meterUsable : Bool
  deriving DecidableEq, Repr

/-- A book position's settings (R88, R200); tank 0 is an unused position. -/
structure BookSetting where
  tank : Nat
  product : Product
  capacity : Nat
  reserve : Nat
  dead : Nat
  highHigh : Nat
  tolerance : Nat
  blindCap : Nat
  deriving DecidableEq, Repr

/-- A probe channel's settings (4.5, R200); tank 0 is an unused position. The points are (height, volume). -/
structure ProbeSetting where
  tank : Nat
  gateMs : Nat
  lower : Nat
  upper : Nat
  countEmpty : Nat
  countFull : Nat
  span : Nat
  settleBand : Nat
  points : List (Nat × Nat)
  deriving DecidableEq, Repr

/-- The settings in use (R200, R202). `zone` is absent when no zone can be taken; `creepUsable` is false when the
creep limit or creep window was replaced. Times of whole seconds are held in seconds, spill confirmation in tenths,
lead and tail in sample units. -/
structure Settings where
  lineRate : Nat
  lead : Nat
  tail : Nat
  zone : Option Nat
  beaconInterval : Nat
  joinTime : Nat
  lostTimeout : Nat
  isolationHold : Nat
  claimTime : Nat
  tagGrace : Nat
  noFlowTime : Nat
  endSettle : Nat
  endingLimit : Nat
  pumpSettle : Nat
  pumpMinimumOff : Nat
  scanInterval : Nat
  gaugeAgeLimit : Nat
  spillConfirm : Nat
  creepWindow : Nat
  creepLimit : Nat
  creepUsable : Bool
  maxHourStep : Nat
  backTolerance : Nat
  spill : PerInput SpillSetting
  hoses : PerHose HoseSetting
  pumpTanks : PerPump Nat
  books : PerBook BookSetting
  probes : PerProbe ProbeSetting
  deriving DecidableEq, Repr

/-! ## Meter unit (1.1) -/

/-- A meter channel. The phase position is the pair of qualified levels (R2), each absent until first taken after a
start (R10). `rateTimer` is the channel's rate window of R7. -/
structure Meter where
  levelA : Option Bool
  levelB : Option Bool
  net : Int
  phaseErrors : Nat
  creep : Nat
  quiet : Nat
  window : Int
  rate : Nat
  rateTimer : Nat
  deriving DecidableEq, Repr

/-! ## Valve and pump drive (1.2, 1.3) -/

/-- The stages of the valve drive (R11). -/
inductive Stage where
  | shut | trim | full
  deriving DecidableEq, Repr

/-- A hose's valve: commanded stage (R11), applied duty (R13), the duty of the current drive period (0: none) and
the time into it, the drive output (R12), zero-duty time, qualified proof, whether valve stuck has been given for
the condition now holding (R15), flow-past timer (R16). -/
structure Valve where
  commanded : Stage
  duty : Nat
  periodDuty : Nat
  periodTime : Nat
  output : Bool
  zeroTime : Nat
  closed : Bool
  stuckGiven : Bool
  flowPast : Timer
  deriving DecidableEq, Repr

/-- The pump states (1.3). -/
inductive PumpState where
  | off | starting | running | cooldown | faulted
  deriving DecidableEq, Repr

/-- A pump: its state, the timer of that state (settle in STARTING, minimum off in COOLDOWN) and its qualified
proof. The contactor is on in STARTING and RUNNING. -/
structure Pump where
  state : PumpState
  timer : Timer
  proof : Bool
  deriving DecidableEq, Repr

/-! ## Delivery controller (chapter 2) -/

/-- The ending reasons (R43). -/
inductive EndReason where
  | preset | noFlow | tagLost | hung | stock | trip | pump | meter | valve | officeStop | restart | powerLoss
  deriving DecidableEq, Repr

/-- The refusal reasons a hose may hold (R36). -/
inductive RefusalReason where
  | notJoined | tripped | journalFull | unknownMachine | suspended | hoursJump | stockReserve | stockDead
  | pumpFault | limitTooSmall | noTag | notHung | config
  deriving DecidableEq, Repr

/-- The faults of a hose OUT_OF_SERVICE (R26). -/
inductive HoseFault where
  | valveStuck | meter
  deriving DecidableEq, Repr

/-- The hose states with the reason that DONE, REFUSED and OUT_OF_SERVICE hold (R26); the reason of ENDING is the
live record's ending reason. -/
inductive HoseState where
  | idle | waiting | priming | flowing | trimming | ending
  | done (reason : EndReason) | refused (reason : RefusalReason) | outOfService (fault : HoseFault)
  deriving DecidableEq, Repr

/-- The nine flags of a journal record (R145); the first five are the claim flags of a live record (R27). -/
structure RecordFlags where
  noHistory : Bool
  hoursBack : Bool
  hoursJump : Bool
  permit : Bool
  blind : Bool
  highBurn : Bool
  scheduled : Bool
  early : Bool
  overdue : Bool
  deriving DecidableEq, Repr

/-- A live delivery record (R27). -/
structure Live where
  machine : Nat
  hours : Option Nat
  product : Product
  tank : Nat
  flags : RecordFlags
  limit : Nat
  overrunUsed : Nat
  stopVolume : Nat
  trimVolume : Nat
  stopCount : Nat
  trimCount : Nat
  closeCount : Option Int
  endReason : Option EndReason
  startTime : Nat
  deriving DecidableEq, Repr

/-- The qualified state of a nozzle-hook switch (R28). -/
inductive Hook where
  | onHook | offHook
  deriving DecidableEq, Repr

/-- A hose: its state, learned overrun (R49), live record (R27), the mark of R46, the hook (absent until first
qualified, R57), claim timer (R30), tag timer (R29), no-flow timer (R41), refusal lamp and flash timer (R26). -/
structure Hose where
  state : HoseState
  overrun : Nat
  live : Option Live
  meterMark : Bool
  hook : Option Hook
  claimTimer : Timer
  tagTimer : Timer
  noFlow : Timer
  lamp : Bool
  flash : Timer
  deriving DecidableEq, Repr

/-- A delivery held in the retention domain outside the hoses: its record and its net count (R10, R203). -/
structure Retained where
  live : Live
  net : Int
  deriving DecidableEq, Repr

/-! ## Account table (chapter 3) -/

/-- The classes of machines (R60). -/
inductive MachineClass where
  | haul | support | light | priority
  deriving DecidableEq, Repr

/-- The key of a reported delivery or receipt: origin address and entry number (R60, R93). -/
structure Key where
  origin : Nat
  number : Nat
  deriving DecidableEq, Repr

/-- A service window (R61). -/
structure ServiceWindow where
  product : Product
  interval : Nat
  tolerance : Nat
  dueFrom : Nat
  dueUntil : Nat
  quantity : Nat
  deriving DecidableEq, Repr

/-- The last fuel fill taken into a record; its hours and quantity are present together (R60). -/
structure Fill where
  hours : Nat
  quantity : Nat
  deriving DecidableEq, Repr

/-- The five anomaly counts of a record (R62). -/
structure Anomalies where
  highBurn : Nat
  hourJump : Nat
  hoursBack : Nat
  early : Nat
  overdue : Nat
  deriving DecidableEq, Repr

/-- A machine record (R60). -/
structure MachineRecord where
  id : Nat
  cls : MachineClass
  suspended : Bool
  lastHours : Option Nat
  lastFill : Option Fill
  burnCeiling : Nat
  perFillMax : Nat
  slack : Nat
  windows : List ServiceWindow
  anomalies : Anomalies
  lastDraw : Option Key
  deriving DecidableEq, Repr

/-- A permit (R83); the expiry is in local seconds. -/
structure Permit where
  machine : Nat
  product : Product
  limit : Nat
  expiry : Nat
  deriving DecidableEq, Repr

/-- The account table: roster in ascending id order (R59), permits in order of arrival (R83), roster-full flag (R81). -/
structure Accounts where
  roster : List MachineRecord
  permits : List Permit
  rosterFull : Bool
  deriving DecidableEq, Repr

/-! ## Tank book unit (chapter 4) -/

/-- The book states (R89). -/
inductive BookState where
  | unknown | current | aged
  deriving DecidableEq, Repr

/-- The state of a tank book (R88); its settings stand in `Settings.books`. -/
structure Book where
  value : Option Nat
  state : BookState
  variance : Int
  varianceCount : Nat
  recent : List Key
  ageTimer : Timer
  deriving DecidableEq, Repr

/-- The probe states (R107). -/
inductive ProbeState where
  | acquiring | tracking | fault
  deriving DecidableEq, Repr

/-- A probe channel: state, height history oldest first (R106), overfill flag (R110), open gate with its time (R104). -/
structure Probe where
  state : ProbeState
  history : List Nat
  overfill : Bool
  gate : Timer
  deriving DecidableEq, Repr

/-- The gauging state of the station: scan timer (R104), gauge-conflict flag and its timer (R103). -/
structure Gauging where
  scanTimer : Nat
  conflict : Bool
  conflictTimer : Timer
  deriving DecidableEq, Repr

/-! ## Trip unit (chapter 5) -/

/-- The trip causes (R114). -/
inductive Cause where
  | sump | vapour | estop | overfill | hoseBreak | creep | powerUp | valveStuck
  deriving DecidableEq, Repr

/-- A set of trip causes (R114, R119). -/
structure CauseSet where
  sump : Bool
  vapour : Bool
  estop : Bool
  overfill : Bool
  hoseBreak : Bool
  creep : Bool
  powerUp : Bool
  valveStuck : Bool
  deriving DecidableEq, Repr

/-- An entry of the origin list (R124). -/
structure Origin where
  address : Nat
  stamp : Nat
  causes : CauseSet
  deriving DecidableEq, Repr

/-- The confirmed state of a spill input (R115). -/
inductive SpillState where
  | unsettled | atRest | alarm
  deriving DecidableEq, Repr

/-- The qualified state of the EMERGENCY STOP button (R117). -/
inductive Button where
  | unsettled | released | pressed
  deriving DecidableEq, Repr

/-- The qualified state of the keyswitch, absent until its first level is qualified (R129). -/
inductive KeySwitch where
  | unqualified | atRest | reset
  deriving DecidableEq, Repr

/-- The trip unit: the zone trip record (R119), its inputs (R115, R117, R129) and the override hold timer (R129). -/
structure TripUnit where
  causes : CauseSet
  stampCounter : Nat
  episode : Option Nat
  announced : Bool
  origins : List Origin
  inputs : PerInput SpillState
  button : Button
  keySwitch : KeySwitch
  overrideTimer : Timer
  deriving DecidableEq, Repr

/-! ## Journal (chapter 6) -/

/-- A delivery record of the journal (R144) with its standing (R137). -/
structure DeliveryRecord where
  sequence : Nat
  hose : HoseIx
  product : Product
  tank : Nat
  machine : Nat
  hours : Option Nat
  limit : Nat
  quantity : Nat
  reason : EndReason
  flags : RecordFlags
  startTime : Nat
  endTime : Nat
  siteTime : Option Nat
  collected : Bool
  deriving DecidableEq, Repr

/-- A read in progress (R149): requester, next named sequence, named sequences left, and whether its JOURNAL_END has
been handed over. -/
structure ReadInProgress where
  requester : Nat
  next : Nat
  left : Nat
  endHanded : Bool
  deriving DecidableEq, Repr

/-- The journal: records oldest first (R137), sequence counter (R138), collected mark (6.4), reservation count
(R139), read in progress (R149). -/
structure Journal where
  records : List DeliveryRecord
  counter : Nat
  mark : Nat
  reserved : Nat
  read : Option ReadInProgress
  deriving DecidableEq, Repr

/-! ## Link unit (chapter 7) -/

/-- The known frame kinds (R175). -/
inductive FrameKind where
  | beacon | trip | clear | draw | level
  | receipt | rosterSet | rosterRemove | time
  | statusReq | identReq | accountRead | permit | journalRead | collect | stopHose | restart
  | statusRep | identRep | accountRep | journalRec | journalEnd | refused
  deriving DecidableEq, Repr

/-- The blocks that hand frames over or take them (R164, R175). -/
inductive Block where
  | deliveryController | accountTable | tankBooks | tripUnit | journal | peerTable | startUnit
  deriving DecidableEq, Repr

/-- What its owner waits for on a queued frame (R149, R169, R205). -/
inductive Purpose where
  | plain | readFrame | restartReply
  deriving DecidableEq, Repr

/-- The standing of a queue entry (R164). -/
inductive TxStatus where
  | fresh | started | inTransmission
  deriving DecidableEq, Repr

/-- An entry of the transmit queue (R164): the frame whole, its owner, its attempt number and the instant at which it
joined (milliseconds since the start). The class is that of its kind. -/
structure TxEntry where
  dest : Nat
  kind : FrameKind
  body : List Byte
  check : Nat
  owner : Block
  purpose : Purpose
  attempt : Nat
  status : TxStatus
  joined : Nat
  deriving DecidableEq, Repr

/-- A complete frame of the receive buffer (R153, R156); the kind is the code received. -/
structure Frame where
  dest : Nat
  src : Nat
  kind : Nat
  body : List Byte
  deriving DecidableEq, Repr

/-- A buffered frame and the blocks that have taken it (R157). -/
structure RxEntry where
  frame : Frame
  taken : List Block
  deriving DecidableEq, Repr

/-- The receiver's framing state (7.2). In SEEKING, whether the run of stray characters has been counted (R154); in
ASSEMBLING, the destination and the characters since the head. -/
inductive Receiver where
  | seeking (counted : Bool)
  | assembling (dest : Nat) (chars : List Byte)
  | muted
  deriving DecidableEq, Repr

/-- The line driver (R161): released, asserted in the lead time, sending with so many echoes matched, or in the tail. -/
inductive Driver where
  | released | lead | sending (matched : Nat) | tail
  deriving DecidableEq, Repr

/-- The join states (R170). -/
inductive JoinState where
  | listen | joined | isolated | configFault
  deriving DecidableEq, Repr

/-- The eight counts of section 8.3. -/
structure Counts where
  framing : Nat
  check : Nat
  overrun : Nat
  collision : Nat
  drop : Nat
  malformed : Nat
  peerFull : Nat
  rosterFull : Nat
  deriving DecidableEq, Repr

/-- The link unit: join state and timers (R170 to R172), transmit queue with each list in order of age (R164), driver
(R161), silence of the line in character times or absent while busy (R158), receiver, receive buffer oldest first
(R157), consecutive failures (R163). -/
structure Link where
  join : JoinState
  joinTimer : Timer
  isolationTimer : Timer
  ordinary : List TxEntry
  reserved : List TxEntry
  driver : Driver
  silence : Option Nat
  receiver : Receiver
  buffer : List RxEntry
  failures : Nat
  deriving DecidableEq, Repr

/-! ## Peer table (chapter 9) -/

/-- The liveness of a peer (R194). -/
inductive Liveness where
  | heard | quiet | lost
  deriving DecidableEq, Repr

/-- An entry of the peer table (R192) with its two timers (R194). -/
structure Peer where
  address : Nat
  interval : Nat
  lastHeard : Nat
  state : Liveness
  tanks : List Nat
  quietTimer : Timer
  lostTimer : Timer
  deriving DecidableEq, Repr

/-! ## Start and configuration unit (chapter 10) -/

/-- The fault reasons (R202). -/
inductive FaultReason where
  | none | noImage | badCheck | badField | badAddress
  deriving DecidableEq, Repr

/-- The kinds of start (R203, R205). -/
inductive StartKind where
  | cold | warm | restart
  deriving DecidableEq, Repr

/-- The start and configuration unit: power, strap address (R199), the image's characters (10.2), the settings
(R200, R202), fault reason (R202), start kind (R203), local seconds and the milliseconds beyond them (R206), site
time offset (R184), and the check value the retention domain records (R203). -/
structure StartUnit where
  powered : Bool
  strap : Nat
  image : List Byte
  settings : Settings
  fault : FaultReason
  kind : Option StartKind
  seconds : Nat
  millis : Nat
  siteOffset : Option Nat
  recordedCheck : Option Nat
  deriving DecidableEq, Repr

/-! ## The station -/

/-- The whole state. `retained` holds the live deliveries of the retention domain that are outside the hoses (R203);
`creepTimer` and `beaconTimer` are the station's creep window and beacon timers (R6, R188). `choices` and `pending`
are the model's own: the counter of log 13 and the queue of waiting commands. -/
structure State where
  unit : StartUnit
  creepTimer : Nat
  meters : PerHose Meter
  valves : PerHose Valve
  pumps : PerPump Pump
  hoses : PerHose Hose
  retained : PerHose (Option Retained)
  accounts : Accounts
  books : PerBook Book
  probes : PerProbe Probe
  gauging : Gauging
  tripUnit : TripUnit
  journal : Journal
  link : Link
  counts : Counts
  peers : List Peer
  beaconTimer : Nat
  choices : Nat
  pending : List Instr
  deriving DecidableEq, Repr

/-- No behaviour the manual gives the station stops it: every row has an effect in every state, CONFIG_FAULT and the
unpowered station included (INVENTORY.md, Faults). So no reason for a fault exists and nobody raises one. -/
inductive Fault where
  deriving DecidableEq, Repr

/-- Why a command can have no meaning. -/
inductive Refusal where
  /-- Raised by an arm of `exec` whose command has no meaning yet; no arm is left so. Safe: the machine stops. -/
  | notModelled (mnemonic : String)
  deriving DecidableEq, Repr

/-! ## Reset: the station before its first power-on (log 6) -/

/-- No flag of R145 set. -/
def noFlags : RecordFlags := ⟨false, false, false, false, false, false, false, false, false⟩

/-- The empty cause set (R119). -/
def noCauses : CauseSet := ⟨false, false, false, false, false, false, false, false⟩

/-- Settings before any image has been read: DESIGN CHOICE (log 6), every field 0. -/
def blankSettings : Settings where
  lineRate := 0
  lead := 0
  tail := 0
  zone := none
  beaconInterval := 0
  joinTime := 0
  lostTimeout := 0
  isolationHold := 0
  claimTime := 0
  tagGrace := 0
  noFlowTime := 0
  endSettle := 0
  endingLimit := 0
  pumpSettle := 0
  pumpMinimumOff := 0
  scanInterval := 0
  gaugeAgeLimit := 0
  spillConfirm := 0
  creepWindow := 0
  creepLimit := 0
  creepUsable := false
  maxHourStep := 0
  backTolerance := 0
  spill := .fill ⟨.none, false⟩
  hoses := .fill ⟨.diesel, 0, 0, 0, 0, 0, 0, 0, 0, 0, 0, 0, 0, false⟩
  pumpTanks := .fill 0
  books := .fill ⟨0, .diesel, 0, 0, 0, 0, 0, 0⟩
  probes := .fill ⟨0, 0, 0, 0, 0, 0, 0, 0, []⟩

/-- The station before its first power-on: no power, outputs off, nothing retained (log 6). -/
def State.reset : State where
  unit := ⟨false, 0, [], blankSettings, .none, none, 0, 0, none, none⟩
  creepTimer := 0
  meters := .fill ⟨none, none, 0, 0, 0, 0, 0, 0, 0⟩
  valves := .fill ⟨.shut, 0, 0, 0, false, 0, false, false, none⟩
  pumps := .fill ⟨.off, none, false⟩
  hoses := .fill ⟨.idle, 0, none, false, none, none, none, none, false, none⟩
  retained := .fill none
  accounts := ⟨[], [], false⟩
  books := .fill ⟨none, .unknown, 0, 0, [], none⟩
  probes := .fill ⟨.acquiring, [], false, none⟩
  gauging := ⟨0, false, none⟩
  tripUnit := ⟨noCauses, 0, none, false, [], .fill .unsettled, .unsettled, .unqualified, none⟩
  journal := ⟨[], 1, 0, 0, none⟩
  link := ⟨.listen, none, none, [], [], .released, none, .muted, [], 0⟩
  counts := ⟨0, 0, 0, 0, 0, 0, 0, 0⟩
  peers := []
  beaconTimer := 0
  choices := 0
  pending := []

end Sys2Proof.Machine
end

