-- ==== Sys2Proof/Machine/Flags.lean ====
section
/-! DEFINITION. The codes of names and the sets of causes and flags (tables of R175 and R187, R114, R145). -/

namespace Sys2Proof.Machine

/-! ## Value codes (R187) -/

/-- The code of a product. -/
def productCode : Product → Nat
  | .diesel => 1 | .engineOil => 2 | .hydraulicOil => 3 | .drivetrainOil => 4 | .coolant => 5 | .grease => 6

/-- The product of a code 1 to 6; a code outside the range reads as GREASE, and every reader weighs the range first
(R177, R201). -/
def productOfCode : Nat → Product
  | 1 => .diesel | 2 => .engineOil | 3 => .hydraulicOil | 4 => .drivetrainOil | 5 => .coolant | _ => .grease

/-- The code of a class, the lower part of a machine's standing. -/
def classCode : MachineClass → Nat
  | .haul => 1 | .support => 2 | .light => 3 | .priority => 4

/-- The class of a code 1 to 4. -/
def classOfCode : Nat → MachineClass
  | 1 => .haul | 2 => .support | 3 => .light | _ => .priority

/-- The standing of a machine: its class, 16 added when SUSPENDED. -/
def standingCode (c : MachineClass) (suspended : Bool) : Nat := classCode c + if suspended then 16 else 0

/-- The code of a hose state. -/
def hoseStateCode : HoseState → Nat
  | .idle => 1 | .waiting => 2 | .priming => 3 | .flowing => 4 | .trimming => 5 | .ending => 6
  | .done _ => 7 | .refused _ => 8 | .outOfService _ => 9

/-- The code of an ending reason. -/
def endReasonCode : EndReason → Nat
  | .preset => 1 | .noFlow => 2 | .tagLost => 3 | .hung => 4 | .stock => 5 | .trip => 6 | .pump => 7 | .meter => 8
  | .valve => 9 | .officeStop => 10 | .restart => 11 | .powerLoss => 12

/-- The code of a refusal reason. -/
def refusalReasonCode : RefusalReason → Nat
  | .notJoined => 32 | .tripped => 33 | .journalFull => 34 | .unknownMachine => 35 | .suspended => 36
  | .hoursJump => 37 | .stockReserve => 38 | .stockDead => 39 | .pumpFault => 40 | .limitTooSmall => 41
  | .noTag => 42 | .notHung => 43 | .config => 44

/-- The code of a hose fault. -/
def hoseFaultCode : HoseFault → Nat
  | .valveStuck => 64 | .meter => 65

/-- The code of a join state. -/
def joinStateCode : JoinState → Nat
  | .listen => 1 | .joined => 2 | .isolated => 3 | .configFault => 4

/-- The code of a book state. -/
def bookStateCode : BookState → Nat
  | .unknown => 0 | .current => 1 | .aged => 2

/-- The code of a pump state. -/
def pumpStateCode : PumpState → Nat
  | .off => 1 | .starting => 2 | .running => 3 | .cooldown => 4 | .faulted => 5

/-- The code of a probe state. -/
def probeStateCode : ProbeState → Nat
  | .acquiring => 1 | .tracking => 2 | .fault => 3

/-- The code of a spill input, by its function and confirmed state. -/
def spillCode (f : SpillFunction) (c : SpillState) : Nat :=
  match f, c with
  | .none, _ => 0
  | _, .unsettled => 1
  | _, .atRest => 2
  | _, .alarm => 3

/-- The code of the EMERGENCY STOP button. -/
def buttonCode : Button → Nat
  | .unsettled => 0 | .released => 1 | .pressed => 2

/-- The code of a nozzle hook. -/
def hookCode : Option Hook → Nat
  | none => 0 | some .onHook => 1 | some .offHook => 2

/-- The code of a two-valued item: 1 for present, CLOSED or set. -/
def bitCode (b : Bool) : Nat := if b then 1 else 0

/-- The refusal codes of a REFUSED reply (R178). -/
inductive RefusalCode where
  | badLength | unknownKind | outOfRange | notLive | full | notFound
  deriving DecidableEq, Repr

/-- The code of a refusal code (R187). -/
def refusalCodeCode : RefusalCode → Nat
  | .badLength => 1 | .unknownKind => 2 | .outOfRange => 3 | .notLive => 4 | .full => 5 | .notFound => 6

/-! ## Frame kinds (R175, R159) -/

/-- The kind code (R175). -/
def kindCode : FrameKind → Nat
  | .beacon => 1 | .trip => 2 | .clear => 3 | .draw => 4 | .level => 5
  | .receipt => 16 | .rosterSet => 17 | .rosterRemove => 18 | .time => 19
  | .statusReq => 32 | .identReq => 33 | .accountRead => 34 | .permit => 35 | .journalRead => 36 | .collect => 37
  | .stopHose => 38 | .restart => 39
  | .statusRep => 64 | .identRep => 65 | .accountRep => 66 | .journalRec => 67 | .journalEnd => 68 | .refused => 69

/-- Every known kind. -/
def allKinds : List FrameKind :=
  [.beacon, .trip, .clear, .draw, .level, .receipt, .rosterSet, .rosterRemove, .time, .statusReq, .identReq,
   .accountRead, .permit, .journalRead, .collect, .stopHose, .restart, .statusRep, .identRep, .accountRep,
   .journalRec, .journalEnd, .refused]

/-- The kind of a code, where the table of R175 lists it. -/
def kindOfCode (n : Nat) : Option FrameKind := allKinds.find? fun k => kindCode k == n

/-- The families of frames (chapter 8). -/
inductive Family where
  | report | administrative | request | reply
  deriving DecidableEq, Repr

/-- The family of a kind (R175). -/
def familyOf : FrameKind → Family
  | .beacon => .report | .trip => .report | .clear => .report | .draw => .report | .level => .report
  | .receipt => .administrative | .rosterSet => .administrative | .rosterRemove => .administrative
  | .time => .administrative
  | .statusReq => .request | .identReq => .request | .accountRead => .request | .permit => .request
  | .journalRead => .request | .collect => .request | .stopHose => .request | .restart => .request
  | .statusRep => .reply | .identRep => .reply | .accountRep => .reply | .journalRec => .reply
  | .journalEnd => .reply | .refused => .reply

/-- The access class of a frame the station sends (R159). -/
def accessClass : FrameKind → Nat
  | .trip => 0 | .clear => 0
  | .draw => 2 | .level => 2
  | .beacon => 3
  | _ => 1

/-! ## Causes (R114, R119) -/

/-- Membership of a cause set. -/
def CauseSet.has (s : CauseSet) : Cause → Bool
  | .sump => s.sump | .vapour => s.vapour | .estop => s.estop | .overfill => s.overfill
  | .hoseBreak => s.hoseBreak | .creep => s.creep | .powerUp => s.powerUp | .valveStuck => s.valveStuck

/-- The set with a cause put in or taken out. -/
def CauseSet.put (s : CauseSet) (c : Cause) (b : Bool) : CauseSet :=
  match c with
  | .sump => { s with sump := b }
  | .vapour => { s with vapour := b }
  | .estop => { s with estop := b }
  | .overfill => { s with overfill := b }
  | .hoseBreak => { s with hoseBreak := b }
  | .creep => { s with creep := b }
  | .powerUp => { s with powerUp := b }
  | .valveStuck => { s with valveStuck := b }

/-- The zone-wide part of a cause set (R114). -/
def CauseSet.zoneWide (s : CauseSet) : CauseSet := { s with powerUp := false, valveStuck := false }

/-- Whether a cause is zone-wide (R114). -/
def zoneWideCause : Cause → Bool
  | .powerUp => false
  | .valveStuck => false
  | _ => true

/-- Whether a set holds any cause. -/
def CauseSet.any (s : CauseSet) : Bool :=
  s.sump || s.vapour || s.estop || s.overfill || s.hoseBreak || s.creep || s.powerUp || s.valveStuck

/-- The sum of the codes of a set's members (R187). -/
def causeSetCode (s : CauseSet) : Nat :=
  bitCode s.sump + 2 * bitCode s.vapour + 4 * bitCode s.estop + 8 * bitCode s.overfill + 16 * bitCode s.hoseBreak
    + 32 * bitCode s.creep + 64 * bitCode s.powerUp + 128 * bitCode s.valveStuck

/-- The set a character gives (R187). -/
def causeSetOfCode (n : Nat) : CauseSet :=
  ⟨n.testBit 0, n.testBit 1, n.testBit 2, n.testBit 3, n.testBit 4, n.testBit 5, n.testBit 6, n.testBit 7⟩

/-! ## Record flags (R145) -/

/-- The sum of the codes of a record's flags (R187). -/
def recordFlagsCode (f : RecordFlags) : Nat :=
  bitCode f.noHistory + 2 * bitCode f.hoursBack + 4 * bitCode f.hoursJump + 8 * bitCode f.permit
    + 16 * bitCode f.blind + 32 * bitCode f.highBurn + 64 * bitCode f.scheduled + 128 * bitCode f.early
    + 256 * bitCode f.overdue

/-- The members of two sets of record flags together (R144: claim flags and close flags). -/
def RecordFlags.union (a b : RecordFlags) : RecordFlags :=
  ⟨a.noHistory || b.noHistory, a.hoursBack || b.hoursBack, a.hoursJump || b.hoursJump, a.permit || b.permit,
   a.blind || b.blind, a.highBurn || b.highBurn, a.scheduled || b.scheduled, a.early || b.early,
   a.overdue || b.overdue⟩

/-! ## Counts (8.3) -/

/-- One more on a 16-bit saturating count (8.3, R4, R88). -/
def countUp (n : Nat) : Nat := min (n + 1) 65535

/-- One more on an anomaly count, saturating at 255 (R62). -/
def anomalyUp (n : Nat) : Nat := min (n + 1) 255

end Sys2Proof.Machine
end

