-- ==== Sys2Proof/Machine/Operands.lean ====
section
/-! DEFINITION. Characters and fields: the byte order of fields, the check code (R153), and the body of every frame
the station receives, read as the layouts of R187 give it and weighed by the content test (R177). -/

namespace Sys2Proof.Machine

/-! ## Fields, most significant character first (R187, R200) -/

/-- The value of a field. -/
def beValue (bs : List Byte) : Nat := bs.foldl (fun n b => n * 256 + b.toNat) 0

/-- The field of so many characters at an offset. -/
def field (bs : List Byte) (offset size : Nat) : Nat := beValue ((bs.drop offset).take size)

/-- A value laid out in so many characters. -/
def beBytes : Nat → Nat → List Byte
  | 0, _ => []
  | n + 1, v => beBytes n (v / 256) ++ [BitVec.ofNat 8 v]

/-- What a place carries of a volume (R60, R187): the volume itself within 4,294,967,295, and above it a free value of the
place's range (log 34, DESIGN CHOICE). -/
def volumeAt (p : Config.VolumePlace) (q : Nat) : Nat :=
  if q ≤ 4294967295 then q else p.least + Config.unstatedVolume p q % (4294967296 - p.least)

/-- One character. -/
def oneByte (v : Nat) : List Byte := beBytes 1 v

/-! ## The check (R153) -/

/-- One bit of the check: the register, 16 bits, shifted up through the generator x^16 + x^12 + x^5 + 1. -/
def checkShift (r : Nat) : Nat :=
  if r ≥ 32768 then Nat.xor ((r * 2) % 65536) 4129 else r * 2

/-- One character of the check, its data bits taken from the most significant down. -/
def checkByte (r : Nat) (b : Byte) : Nat :=
  let r0 := Nat.xor r (b.toNat * 256)
  let r2 := checkShift (checkShift r0)
  let r4 := checkShift (checkShift r2)
  let r6 := checkShift (checkShift r4)
  checkShift (checkShift r6)

/-- The 16-bit cyclic code over characters, the register starting at 65,535. -/
def checkCode (bs : List Byte) : Nat := bs.foldl checkByte 65535

/-! ## Content (R177) -/

/-- The outcome of a content test: the two ways to fail, or the body's content. -/
inductive Content (α : Type) where
  | badLength
  | outOfRange
  | sound (a : α)
  deriving DecidableEq, Repr

/-- A body of one fixed length whose fields' ranges are one condition. -/
def fixedBody {α : Type} (body : List Byte) (length : Nat) (inRange : Bool) (a : α) : Content α :=
  if body.length ≠ length then .badLength else if inRange then .sound a else .outOfRange

/-- A value lies in a range, ends included. -/
def within (lo hi v : Nat) : Bool := decide (lo ≤ v) && decide (v ≤ hi)

/-- Hours as a field: 16,777,215 stands for absent (R187). -/
def hoursOfField (v : Nat) : Option Nat := if v = 16777215 then none else some v

/-- Hours lie in 0 to 999,999 or are absent. -/
def hoursInRange (v : Nat) : Bool := v == 16777215 || decide (v ≤ 999999)

/-- A BEACON's content as the station uses it (R127, R191, R193). -/
structure BeaconBody where
  interval : Nat
  zone : Nat
  stamp : Nat
  causes : CauseSet
  tanks : List Nat
  deriving DecidableEq, Repr

/-- BEACON: length 13 + n; stamp 0 exactly with an empty cause set; the sets within their members (R187). -/
def beaconBody (b : List Byte) : Content BeaconBody :=
  if b.length < 13 then .badLength
  else if b.length ≠ 13 + field b 12 1 then .badLength
  else
    let tanks := (b.drop 13).map (fun c => c.toNat)
    let ranges := within 1 60 (field b 0 1) && within 1 15 (field b 1 1) && within 1 4 (field b 2 1)
      && within 0 15 (field b 3 1) && within 0 63 (field b 6 1) && within 0 6 (field b 7 1)
      && within 0 4 (field b 12 1) && tanks.all (within 1 64)
      && ((field b 4 2 == 0) == (field b 6 1 == 0))
    if ranges then
      .sound ⟨field b 0 1, field b 1 1, field b 4 2, causeSetOfCode (field b 6 1), tanks⟩
    else .outOfRange

/-- A TRIP's content (R125). -/
structure TripBody where
  zone : Nat
  stamp : Nat
  causes : CauseSet
  deriving DecidableEq, Repr

/-- TRIP, 4 characters: a zone, a stamp above 0, zone-wide causes, not empty (R125, R187). -/
def tripBody (b : List Byte) : Content TripBody :=
  fixedBody b 4 (within 1 15 (field b 0 1) && within 1 65535 (field b 1 2) && within 1 63 (field b 3 1))
    ⟨field b 0 1, field b 1 2, causeSetOfCode (field b 3 1)⟩

/-- A CLEAR's content (R126). -/
structure ClearBody where
  zone : Nat
  stamp : Nat
  deriving DecidableEq, Repr

/-- CLEAR, 3 characters (R126, R187). -/
def clearBody (b : List Byte) : Content ClearBody :=
  fixedBody b 3 (within 1 15 (field b 0 1) && within 1 65535 (field b 1 2)) ⟨field b 0 1, field b 1 2⟩

/-- A DRAW's content (R95, R75). -/
structure DrawBody where
  sequence : Nat
  tank : Nat
  product : Product
  machine : Nat
  hours : Option Nat
  quantity : Nat
  deriving DecidableEq, Repr

/-- DRAW, 16 characters (R187). -/
def drawBody (b : List Byte) : Content DrawBody :=
  fixedBody b 16
    (within 1 4294967295 (field b 0 4) && within 1 64 (field b 4 1) && within 1 6 (field b 5 1)
      && within 1 16777214 (field b 6 3) && hoursInRange (field b 9 3) && within 1 4294967295 (field b 12 4))
    ⟨field b 0 4, field b 4 1, productOfCode (field b 5 1), field b 6 3, hoursOfField (field b 9 3), field b 12 4⟩

/-- A LEVEL's content; the height is not used by a station that does not gauge the tank (R97). -/
structure LevelBody where
  tank : Nat
  height : Nat
  volume : Nat
  deriving DecidableEq, Repr

/-- LEVEL, 7 characters (R187). -/
def levelBody (b : List Byte) : Content LevelBody :=
  fixedBody b 7 (within 1 64 (field b 0 1) && within 0 60000 (field b 1 2))
    ⟨field b 0 1, field b 1 2, field b 3 4⟩

/-- A RECEIPT's content (R96). -/
structure ReceiptBody where
  number : Nat
  tank : Nat
  quantity : Nat
  deriving DecidableEq, Repr

/-- RECEIPT, 9 characters (R187). -/
def receiptBody (b : List Byte) : Content ReceiptBody :=
  fixedBody b 9 (within 1 4294967295 (field b 0 4) && within 1 64 (field b 4 1))
    ⟨field b 0 4, field b 4 1, field b 5 4⟩

/-- A window setting of a ROSTER_SET (R79). -/
structure WindowSetting where
  product : Nat
  interval : Nat
  tolerance : Nat
  due : Nat
  quantity : Nat
  deriving DecidableEq, Repr

/-- Window setting k of a ROSTER_SET's body. -/
def windowSetting (b : List Byte) (k : Nat) : WindowSetting :=
  ⟨field b (16 + 12 * k) 1, field b (17 + 12 * k) 3, field b (20 + 12 * k) 2, field b (22 + 12 * k) 3,
   field b (25 + 12 * k) 3⟩

/-- A window setting's fields lie in their ranges; a fuel product does not (R78, R187). -/
def windowInRange (w : WindowSetting) : Bool :=
  within 2 6 w.product && within 10 100000 w.interval && within 0 5000 w.tolerance
    && decide (w.tolerance ≤ w.interval) && within 0 999999 w.due && within 0 4000000 w.quantity

/-- No value stands twice in a list. -/
def allDistinct : List Nat → Bool
  | [] => true
  | a :: as => !as.contains a && allDistinct as

/-- A ROSTER_SET's content (R79). -/
structure RosterSetBody where
  id : Nat
  cls : MachineClass
  suspended : Bool
  burnCeiling : Nat
  perFillMax : Nat
  slack : Nat
  lastHours : Option Nat
  windows : List WindowSetting
  deriving DecidableEq, Repr

/-- A standing: a class 1 to 4, SUSPENDED added or not (R187). -/
def standingInRange (v : Nat) : Bool := within 1 4 v || within 17 20 v

/-- ROSTER_SET: 16 + 12n characters; more than four declared windows fail the range test (R78, R187). -/
def rosterSetBody (b : List Byte) : Content RosterSetBody :=
  if b.length < 16 then .badLength
  else if field b 15 1 > 4 then .outOfRange
  else if b.length ≠ 16 + 12 * field b 15 1 then .badLength
  else
    let windows := (List.range (field b 15 1)).map (windowSetting b)
    let ranges := within 1 16777214 (field b 0 3) && standingInRange (field b 3 1) && within 0 50000 (field b 4 2)
      && within 1000 4000000 (field b 6 3) && within 0 4000000 (field b 9 3) && hoursInRange (field b 12 3)
      && windows.all windowInRange && allDistinct (windows.map (fun w => w.product))
    if ranges then
      .sound ⟨field b 0 3, classOfCode (field b 3 1 % 16), decide (16 ≤ field b 3 1), field b 4 2, field b 6 3,
        field b 9 3, hoursOfField (field b 12 3), windows⟩
    else .outOfRange

/-- ROSTER_REMOVE, 3 characters: a machine id (R82, R187). -/
def rosterRemoveBody (b : List Byte) : Content Nat :=
  fixedBody b 3 (within 1 16777214 (field b 0 3)) (field b 0 3)

/-- TIME, 4 characters: site seconds, any value (R184). -/
def timeBody (b : List Byte) : Content Nat := fixedBody b 4 true (field b 0 4)

/-- STATUS_REQ, 2 characters: part and clearing choice, 1 with part 1 alone (R180, R181). -/
def statusReqBody (b : List Byte) : Content (Nat × Bool) :=
  fixedBody b 2
    (within 1 7 (field b 0 1) && within 0 1 (field b 1 1) && (field b 1 1 == 0 || field b 0 1 == 1))
    (field b 0 1, field b 1 1 == 1)

/-- A body of no characters (IDENT_REQ, RESTART). -/
def emptyBody (b : List Byte) : Content Unit := fixedBody b 0 true ()

/-- An ACCOUNT_READ's content (R86). -/
structure AccountReadBody where
  id : Nat
  next : Bool
  windows : Bool
  deriving DecidableEq, Repr

/-- ACCOUNT_READ, 5 characters (R86, R187). -/
def accountReadBody (b : List Byte) : Content AccountReadBody :=
  fixedBody b 5 (within 0 16777214 (field b 0 3) && within 1 2 (field b 3 1) && within 1 2 (field b 4 1))
    ⟨field b 0 3, field b 3 1 == 2, field b 4 1 == 2⟩

/-- A PERMIT's content (R84). -/
structure PermitBody where
  machine : Nat
  product : Product
  limit : Nat
  lifetime : Nat
  deriving DecidableEq, Repr

/-- PERMIT, 10 characters (R84, R187). -/
def permitBody (b : List Byte) : Content PermitBody :=
  fixedBody b 10
    (within 1 16777214 (field b 0 3) && within 1 6 (field b 3 1) && within 1000 4000000 (field b 4 3)
      && within 1 86400 (field b 7 3))
    ⟨field b 0 3, productOfCode (field b 3 1), field b 4 3, field b 7 3⟩

/-- JOURNAL_READ, 5 characters: first sequence and count (R148). -/
def journalReadBody (b : List Byte) : Content (Nat × Nat) :=
  fixedBody b 5 (within 1 4294967295 (field b 0 4) && within 1 8 (field b 4 1)) (field b 0 4, field b 4 1)

/-- COLLECT, 4 characters: a sequence (R146). -/
def collectBody (b : List Byte) : Content Nat :=
  fixedBody b 4 (within 1 4294967295 (field b 0 4)) (field b 0 4)

/-- STOP_HOSE, 1 character: a hose (R54). -/
def stopHoseBody (b : List Byte) : Content Nat := fixedBody b 1 (within 1 6 (field b 0 1)) (field b 0 1)

/-- Forget a body's content, keep how its test came out. -/
def Content.verdict {α : Type} : Content α → Option RefusalCode
  | .badLength => some .badLength
  | .outOfRange => some .outOfRange
  | .sound _ => none

/-- The content test of a kind: none when the body is sound. A reply kind has no content test here, since it fails
the source test first (R175). -/
def contentTest (k : FrameKind) (b : List Byte) : Option RefusalCode :=
  match k with
  | .beacon => (beaconBody b).verdict
  | .trip => (tripBody b).verdict
  | .clear => (clearBody b).verdict
  | .draw => (drawBody b).verdict
  | .level => (levelBody b).verdict
  | .receipt => (receiptBody b).verdict
  | .rosterSet => (rosterSetBody b).verdict
  | .rosterRemove => (rosterRemoveBody b).verdict
  | .time => (timeBody b).verdict
  | .statusReq => (statusReqBody b).verdict
  | .identReq => (emptyBody b).verdict
  | .accountRead => (accountReadBody b).verdict
  | .permit => (permitBody b).verdict
  | .journalRead => (journalReadBody b).verdict
  | .collect => (collectBody b).verdict
  | .stopHose => (stopHoseBody b).verdict
  | .restart => (emptyBody b).verdict
  | _ => none

end Sys2Proof.Machine
end

