-- ==== Sys2Proof/Machine/Image.lean ====
section
/-! DEFINITION. The configuration image (R200), its validity (R201), the fault reason and the replaced settings
(R202). -/

namespace Sys2Proof.Machine

/-- A field of the image: offset, size, range, and the default the manual gives it, where it gives one. -/
structure ImageField where
  offset : Nat
  size : Nat
  low : Nat
  high : Nat
  default : Option Nat
  deriving DecidableEq, Repr

/-- The memory gave an image when it answered to the 798th character (R200). -/
def imageGiven (img : List Byte) : Bool := decide (Config.imageLength ≤ img.length)

/-- The characters the station reads and keeps: 798 at most (10.2). -/
def imageKept (img : List Byte) : List Byte := img.take Config.imageLength

/-- A field as stored. -/
def ImageField.raw (f : ImageField) (img : List Byte) : Nat := field img f.offset f.size

/-- The field lies within its range in the table. -/
def ImageField.ok (f : ImageField) (img : List Byte) : Bool := within f.low f.high (f.raw img)

/-- The value a setting is replaced by (R202): its default, or a free value of its range where the manual gives no
default (log 10). -/
def ImageField.replaced (f : ImageField) : Nat :=
  match f.default with
  | some d => d
  | none => f.low + Config.unstatedSetting f.offset % (f.high - f.low + 1)

/-- The setting can be taken from the image: an image was given and the field lies in its range (R202). -/
def ImageField.taken (f : ImageField) (img : List Byte) : Bool := imageGiven img && f.ok img

/-- The setting in use: the image's where it can be taken, else replaced (R202). -/
def ImageField.use (f : ImageField) (img : List Byte) : Nat := if f.taken img then f.raw img else f.replaced

/-! ## The table of R200 -/

def fLineRate : ImageField := ⟨1, 1, 1, 2, some 1⟩
def fLead : ImageField := ⟨2, 1, 0, 31, some 16⟩
def fTail : ImageField := ⟨3, 1, 0, 31, some 16⟩
def fZone : ImageField := ⟨4, 1, 1, 15, none⟩
def fBeaconInterval : ImageField := ⟨5, 1, 1, 60, some 5⟩
def fJoinTime : ImageField := ⟨6, 1, 5, 120, some 12⟩
def fLostTimeout : ImageField := ⟨7, 2, 10, 300, some 30⟩
def fIsolationHold : ImageField := ⟨9, 2, 10, 300, some 30⟩
def fClaimTime : ImageField := ⟨11, 2, 10, 300, some 60⟩
def fTagGrace : ImageField := ⟨13, 1, 1, 10, some 3⟩
def fNoFlowTime : ImageField := ⟨14, 1, 5, 120, some 20⟩
def fEndSettle : ImageField := ⟨15, 1, 1, 10, some 2⟩
def fEndingLimit : ImageField := ⟨16, 1, 10, 60, some 30⟩
def fPumpSettle : ImageField := ⟨17, 1, 1, 20, some 3⟩
def fPumpMinimumOff : ImageField := ⟨18, 2, 5, 600, some 30⟩
def fScanInterval : ImageField := ⟨20, 1, 1, 60, some 5⟩
def fGaugeAgeLimit : ImageField := ⟨21, 2, 60, 3600, some 600⟩
def fSpillConfirm : ImageField := ⟨23, 1, 1, 100, some 10⟩
def fCreepWindow : ImageField := ⟨24, 2, 10, 600, some 60⟩
def fCreepLimit : ImageField := ⟨26, 3, 100, 100000, none⟩
def fMaxHourStep : ImageField := ⟨29, 2, 0, 5000, none⟩
def fBackTolerance : ImageField := ⟨31, 1, 0, 100, none⟩

/-- The station-wide fields whose range is one interval. -/
def stationFields : List ImageField :=
  [fLineRate, fLead, fTail, fZone, fBeaconInterval, fJoinTime, fLostTimeout, fIsolationHold, fClaimTime, fTagGrace,
   fNoFlowTime, fEndSettle, fEndingLimit, fPumpSettle, fPumpMinimumOff, fScanInterval, fGaugeAgeLimit, fSpillConfirm,
   fCreepWindow, fCreepLimit, fMaxHourStep, fBackTolerance]

/-- Spill input i: function and 4 for sense OPEN. -/
def fSpill (i : InputIx) : ImageField := ⟨32 + i.index, 1, 0, 6, some 0⟩

/-- The values of a spill field are 0 to 2 and 4 to 6. -/
def spillOk (v : Nat) : Bool := within 0 2 v || within 4 6 v

def fHoseProduct (h : HoseIx) : ImageField := ⟨36 + 22 * h.index, 1, 1, 6, none⟩
def fHoseTank (h : HoseIx) : ImageField := ⟨37 + 22 * h.index, 1, 1, 64, none⟩
def fMeterK (h : HoseIx) : ImageField := ⟨38 + 22 * h.index, 2, 100, 60000, none⟩
def fPhaseWidth (h : HoseIx) : ImageField := ⟨40 + 22 * h.index, 1, 5, 200, none⟩
def fPhaseErrorLimit (h : HoseIx) : ImageField := ⟨41 + 22 * h.index, 1, 1, 255, none⟩
def fMaxFlow (h : HoseIx) : ImageField := ⟨42 + 22 * h.index, 2, 1, 20000, none⟩
def fFullDuty (h : HoseIx) : ImageField := ⟨44 + 22 * h.index, 1, 1, 100, none⟩
/-- The trim duty's upper end is the full duty in use. -/
def fTrimDuty (h : HoseIx) (full : Nat) : ImageField := ⟨45 + 22 * h.index, 1, 1, full, none⟩
def fDrivePeriod (h : HoseIx) : ImageField := ⟨46 + 22 * h.index, 2, 20, 500, none⟩
def fMaxDelivery (h : HoseIx) : ImageField := ⟨48 + 22 * h.index, 3, 1000, 4000000, none⟩
def fTrimAllowance (h : HoseIx) : ImageField := ⟨51 + 22 * h.index, 2, 0, 20000, none⟩
def fInitialOverrun (h : HoseIx) : ImageField := ⟨53 + 22 * h.index, 2, 0, 5000, none⟩
def fTopUpLimit (h : HoseIx) : ImageField := ⟨55 + 22 * h.index, 3, 0, 4000000, none⟩

/-- The fields of a hose position. -/
def hoseFields (h : HoseIx) (img : List Byte) : List ImageField :=
  [fHoseProduct h, fHoseTank h, fMeterK h, fPhaseWidth h, fPhaseErrorLimit h, fMaxFlow h, fFullDuty h,
   fTrimDuty h ((fFullDuty h).use img), fDrivePeriod h, fMaxDelivery h, fTrimAllowance h, fInitialOverrun h,
   fTopUpLimit h]

def fPumpTank (p : PumpIx) : ImageField := ⟨168 + p.index, 1, 0, 64, none⟩

def fBookTank (k : BookIx) : ImageField := ⟨172 + 22 * k.index, 1, 0, 64, none⟩
def fBookProduct (k : BookIx) : ImageField := ⟨173 + 22 * k.index, 1, 1, 6, none⟩
def fCapacity (k : BookIx) : ImageField := ⟨174 + 22 * k.index, 4, 1000, 4294967295, none⟩
/-- The reserve level's range is "below capacity". -/
def fReserve (k : BookIx) (capacity : Nat) : ImageField := ⟨178 + 22 * k.index, 4, 0, capacity - 1, none⟩
/-- The dead level's range is "below reserve"; with a reserve of 0 no value lies in it, and `bookOk` fails. -/
def fDead (k : BookIx) (reserve : Nat) : ImageField := ⟨182 + 22 * k.index, 4, 0, reserve - 1, none⟩
/-- The high-high level's upper end is the span of the tank's probe. -/
def fHighHigh (k : BookIx) (span : Nat) : ImageField := ⟨186 + 22 * k.index, 2, 1, span, none⟩
def fTolerance (k : BookIx) : ImageField := ⟨188 + 22 * k.index, 3, 0, 5000000, none⟩
def fBlindCap (k : BookIx) : ImageField := ⟨191 + 22 * k.index, 3, 0, 2000000, none⟩

def fProbeTank (c : ProbeIx) : ImageField := ⟨348 + 112 * c.index, 1, 0, 64, none⟩
def fGate (c : ProbeIx) : ImageField := ⟨349 + 112 * c.index, 2, 10, 1000, none⟩
def fLower (c : ProbeIx) : ImageField := ⟨351 + 112 * c.index, 2, 0, 65535, none⟩
def fUpper (c : ProbeIx) : ImageField := ⟨353 + 112 * c.index, 2, 0, 65535, none⟩
def fCountEmpty (c : ProbeIx) : ImageField := ⟨355 + 112 * c.index, 2, 0, 65535, none⟩
def fCountFull (c : ProbeIx) : ImageField := ⟨357 + 112 * c.index, 2, 0, 65535, none⟩
def fSpan (c : ProbeIx) : ImageField := ⟨359 + 112 * c.index, 2, 100, 60000, none⟩
def fSettleBand (c : ProbeIx) : ImageField := ⟨361 + 112 * c.index, 2, 1, 500, none⟩
def fPointCount (c : ProbeIx) : ImageField := ⟨363 + 112 * c.index, 1, 2, 16, none⟩
def fPointHeight (c : ProbeIx) (j : Nat) : ImageField := ⟨364 + 112 * c.index + 6 * j, 2, 0, 65535, none⟩
def fPointVolume (c : ProbeIx) (j : Nat) : ImageField := ⟨366 + 112 * c.index + 6 * j, 4, 0, 4294967295, none⟩

/-! ## Settings in use (R202) -/

/-- A spill input's setting; a setting that cannot be taken has function NONE (R202). -/
def spillSetting (img : List Byte) (i : InputIx) : SpillSetting :=
  let v := if imageGiven img && spillOk ((fSpill i).raw img) then (fSpill i).raw img else 0
  let f := match v % 4 with | 1 => SpillFunction.sump | 2 => .vapour | _ => .none
  ⟨f, decide (4 ≤ v)⟩

/-- A hose's settings. The meter channel is held unused when the meter constant, phase width, phase error limit or
maximum flow is replaced (R202). The trim duty is weighed by the full duty in use, and is the one replaced (log 35, DESIGN
CHOICE). -/
def hoseSetting (img : List Byte) (h : HoseIx) : HoseSetting where
  product := productOfCode ((fHoseProduct h).use img)
  tank := (fHoseTank h).use img
  meterK := (fMeterK h).use img
  phaseWidthUs := (fPhaseWidth h).use img
  phaseErrorLimit := (fPhaseErrorLimit h).use img
  maxFlow := (fMaxFlow h).use img
  fullDuty := (fFullDuty h).use img
  trimDuty := (fTrimDuty h ((fFullDuty h).use img)).use img
  drivePeriodMs := (fDrivePeriod h).use img
  maxDelivery := (fMaxDelivery h).use img
  trimAllowance := (fTrimAllowance h).use img
  initialOverrun := (fInitialOverrun h).use img
  topUpLimit := (fTopUpLimit h).use img
  meterUsable := (fMeterK h).taken img && (fPhaseWidth h).taken img && (fPhaseErrorLimit h).taken img
    && (fMaxFlow h).taken img

/-- A probe channel's settings. In CONFIG_FAULT each setting outside its own range has its default (R202); where the
relation between two fails (the bounds, the reference counts, the strapping points) all are taken as stored (log 35,
DESIGN CHOICE). -/
def probeSetting (img : List Byte) (c : ProbeIx) : ProbeSetting where
  tank := (fProbeTank c).use img
  gateMs := (fGate c).use img
  lower := (fLower c).use img
  upper := (fUpper c).use img
  countEmpty := (fCountEmpty c).use img
  countFull := (fCountFull c).use img
  span := (fSpan c).use img
  settleBand := (fSettleBand c).use img
  points := (List.range ((fPointCount c).use img)).map fun j =>
    ((fPointHeight c j).use img, (fPointVolume c j).use img)

/-- The span of the probe that gauges a tank, where one does. -/
def probeSpan (img : List Byte) (tank : Nat) : Option Nat :=
  (ProbeIx.all.find? fun c => (fProbeTank c).use img == tank && tank != 0).map fun c => (fSpan c).use img

/-- A book position's settings. The high-high level of a tank that no probe channel gauges is not weighed (R200) and
is taken as stored. R200 ranges the levels by one another, and R202 does not say which of two is outside when that
fails: the model weighs the reserve level by the capacity in use and keeps it, weighs the dead level by the reserve
level in use, and replaces the dead level where it is not below that, by 0 where the reserve level is 0 (log 35, DESIGN
CHOICE). -/
def bookSetting (img : List Byte) (k : BookIx) : BookSetting where
  tank := (fBookTank k).use img
  product := productOfCode ((fBookProduct k).use img)
  capacity := (fCapacity k).use img
  reserve := (fReserve k ((fCapacity k).use img)).use img
  dead := (fDead k ((fReserve k ((fCapacity k).use img)).use img)).use img
  highHigh := match probeSpan img ((fBookTank k).use img) with
    | some span => (fHighHigh k span).use img
    | none => (fHighHigh k 65535).raw img
  tolerance := (fTolerance k).use img
  blindCap := (fBlindCap k).use img

/-- The settings in use with the image (R200, R202). -/
def settingsOf (img : List Byte) : Settings where
  lineRate := fLineRate.use img
  lead := fLead.use img
  tail := fTail.use img
  zone := if fZone.taken img then some (fZone.raw img) else none
  beaconInterval := fBeaconInterval.use img
  joinTime := fJoinTime.use img
  lostTimeout := fLostTimeout.use img
  isolationHold := fIsolationHold.use img
  claimTime := fClaimTime.use img
  tagGrace := fTagGrace.use img
  noFlowTime := fNoFlowTime.use img
  endSettle := fEndSettle.use img
  endingLimit := fEndingLimit.use img
  pumpSettle := fPumpSettle.use img
  pumpMinimumOff := fPumpMinimumOff.use img
  scanInterval := fScanInterval.use img
  gaugeAgeLimit := fGaugeAgeLimit.use img
  spillConfirm := fSpillConfirm.use img
  creepWindow := fCreepWindow.use img
  creepLimit := fCreepLimit.use img
  creepUsable := fCreepLimit.taken img && fCreepWindow.taken img
  maxHourStep := fMaxHourStep.use img
  backTolerance := fBackTolerance.use img
  spill := .ofIx (spillSetting img)
  hoses := .ofIx (hoseSetting img)
  pumpTanks := .ofIx fun p => (fPumpTank p).use img
  books := .ofIx (bookSetting img)
  probes := .ofIx (probeSetting img)

/-! ## Validity (R201) -/

/-- The check value stored in the image; 0 when the memory gave no image (R182, R200). -/
def imageCheck (img : List Byte) : Nat := if imageGiven img then field img 796 2 else 0

/-- The check matches the computed code and the format code is 1. -/
def checkAndFormatOk (img : List Byte) : Bool :=
  imageCheck img == checkCode (img.take 796) && field img 0 1 == 1

/-- A used book position's fields lie in their ranges (R200). -/
def bookOk (img : List Byte) (k : BookIx) : Bool :=
  let capacity := (fCapacity k).raw img
  let reserve := field img (178 + 22 * k.index) 4
  let dead := field img (182 + 22 * k.index) 4
  (fBookTank k).ok img
    && ((fBookTank k).raw img == 0
      || ((fBookProduct k).ok img && (fCapacity k).ok img && decide (dead < reserve) && decide (reserve < capacity)
        && (fTolerance k).ok img && (fBlindCap k).ok img
        && (match probeSpan img ((fBookTank k).raw img) with
          | some span => (fHighHigh k span).ok img
          | none => true)))

/-- Heights rise strictly from one point to the next and volumes do not fall (R109). -/
def pointsRise : List (Nat × Nat) → Bool
  | a :: b :: rest => decide (a.1 < b.1) && decide (a.2 ≤ b.2) && pointsRise (b :: rest)
  | _ => true

/-- A strapping table meets R109: 2 to 16 points, the first height 0, rising, the last volume within the capacity. -/
def strappingOk (points : List (Nat × Nat)) (capacity : Nat) : Bool :=
  within 2 16 points.length && ((points.head?).map (fun q => q.1) == some 0) && pointsRise points
    && ((points.getLast?).all fun q => decide (q.2 ≤ capacity))

/-- A used probe position's fields lie in their ranges (R200); its strapping table is weighed last (R201). -/
def probeOk (img : List Byte) (c : ProbeIx) : Bool :=
  (fProbeTank c).ok img
    && ((fProbeTank c).raw img == 0
      || ((fGate c).ok img && decide ((fLower c).raw img < (fUpper c).raw img)
        && decide ((fCountEmpty c).raw img < (fCountFull c).raw img) && (fSpan c).ok img && (fSettleBand c).ok img
        && (fPointCount c).ok img))

/-- Every weighed field lies within its range (R200, R201). -/
def fieldsOk (img : List Byte) : Bool :=
  stationFields.all (fun f => f.ok img)
    && InputIx.all.all (fun i => spillOk ((fSpill i).raw img))
    && HoseIx.all.all (fun h => (hoseFields h img).all fun f => f.ok img)
    && PumpIx.all.all (fun p => (fPumpTank p).ok img)
    && BookIx.all.all (bookOk img)
    && ProbeIx.all.all (probeOk img)

/-- The tanks of the used positions among some settings. -/
def usedTanks (tanks : List Nat) : List Nat := tanks.filter fun t => t != 0

/-- The bindings of R201: no tank named twice by book, pump or probe positions, a book for every pump's and probe's
tank, a pump for every hose's tank, and the hose's product that of its tank's book. -/
def bindingsOk (s : Settings) : Bool :=
  let books := BookIx.all.map s.books.get
  let bookTanks := usedTanks (books.map fun b => b.tank)
  let pumpTanks := usedTanks (PumpIx.all.map s.pumpTanks.get)
  let probeTanks := usedTanks (ProbeIx.all.map fun c => (s.probes.get c).tank)
  allDistinct bookTanks && allDistinct pumpTanks && allDistinct probeTanks
    && pumpTanks.all bookTanks.contains && probeTanks.all bookTanks.contains
    && (HoseIx.all.all fun h =>
      pumpTanks.contains (s.hoses.get h).tank
        && ((books.find? fun b => b.tank == (s.hoses.get h).tank).any fun b => b.product == (s.hoses.get h).product))

/-- Every used probe position has a strapping table that meets R109. -/
def strappingsOk (s : Settings) : Bool :=
  ProbeIx.all.all fun c =>
    let p := s.probes.get c
    p.tank == 0
      || (((BookIx.all.map s.books.get).find? fun b => b.tank == p.tank).any fun b => strappingOk p.points b.capacity)

/-- The strap address is that of a station (R199). -/
def strapValid (strap : Nat) : Bool := within 1 47 strap

/-- The fault reason of a power-on (R202, in the order of R201). -/
def faultReason (strap : Nat) (img : List Byte) : FaultReason :=
  if !strapValid strap then .badAddress
  else if !imageGiven img then .noImage
  else if !checkAndFormatOk img then .badCheck
  else if fieldsOk img && bindingsOk (settingsOf img) && strappingsOk (settingsOf img) then .none
  else .badField

end Sys2Proof.Machine
end

