-- ==== Sys2Proof/Machine/Ops.lean ====
section
/-! DEFINITION. The shared operations of the station: updates of one item, readings that several blocks use, the
arithmetic of counts and distances, and the hand-over of a frame to the link unit (R164 to R169). -/

namespace Sys2Proof.Machine

/-! ## Updates of one item -/

/-- One hose's meter channel replaced. -/
def State.setMeter (s : State) (h : HoseIx) (m : Meter) : State := { s with meters := s.meters.set h m }

/-- One hose's valve replaced. -/
def State.setValve (s : State) (h : HoseIx) (v : Valve) : State := { s with valves := s.valves.set h v }

/-- One pump replaced. -/
def State.setPump (s : State) (p : PumpIx) (x : Pump) : State := { s with pumps := s.pumps.set p x }

/-- One hose replaced. -/
def State.setHose (s : State) (h : HoseIx) (x : Hose) : State := { s with hoses := s.hoses.set h x }

/-- One hose's retained delivery replaced. -/
def State.setRetained (s : State) (h : HoseIx) (x : Option Retained) : State :=
  { s with retained := s.retained.set h x }

/-- One book replaced. -/
def State.setBook (s : State) (k : BookIx) (b : Book) : State := { s with books := s.books.set k b }

/-- One probe channel replaced. -/
def State.setProbe (s : State) (c : ProbeIx) (p : Probe) : State := { s with probes := s.probes.set c p }

/-- The account table replaced. -/
def State.setAccounts (s : State) (a : Accounts) : State := { s with accounts := a }

/-- The gauging state replaced. -/
def State.setGauging (s : State) (g : Gauging) : State := { s with gauging := g }

/-- The trip unit replaced. -/
def State.setTripUnit (s : State) (t : TripUnit) : State := { s with tripUnit := t }

/-- The journal replaced. -/
def State.setJournal (s : State) (j : Journal) : State := { s with journal := j }

/-- The link unit replaced. -/
def State.setLink (s : State) (l : Link) : State := { s with link := l }

/-- The eight counts replaced. -/
def State.setCounts (s : State) (c : Counts) : State := { s with counts := c }

/-- The peer table replaced. -/
def State.setPeers (s : State) (ps : List Peer) : State := { s with peers := ps }

/-- The start and configuration unit replaced. -/
def State.setUnit (s : State) (u : StartUnit) : State := { s with unit := u }

/-! ## Readings -/

/-- The settings in use. -/
abbrev State.cfg (s : State) : Settings := s.unit.settings

/-- The settings of a hose. -/
abbrev State.hoseCfg (s : State) (h : HoseIx) : HoseSetting := s.cfg.hoses.get h

/-- The station is in CONFIG_FAULT (R170). -/
def State.inConfigFault (s : State) : Bool := s.link.join == .configFault

/-- The zone trip record is TRIPPED: its local cause set or its origin list is non-empty (R119). -/
def State.tripped (s : State) : Bool := s.tripUnit.causes.any || !s.tripUnit.origins.isEmpty

/-- The address the link unit uses: the strap address, 0 when it is invalid (R199). -/
def State.ownAddress (s : State) : Nat := if strapValid s.unit.strap then s.unit.strap else 0

/-- The pump bound to a tank (R18). -/
def State.pumpOf (s : State) (tank : Nat) : Option PumpIx :=
  PumpIx.all.find? fun p => s.cfg.pumpTanks.get p == tank && tank != 0

/-- The book kept for a tank (R88). -/
def State.bookOf (s : State) (tank : Nat) : Option BookIx :=
  BookIx.all.find? fun k => (s.cfg.books.get k).tank == tank && tank != 0

/-- The probe channel that gauges a tank here (R97, R200). -/
def State.probeOf (s : State) (tank : Nat) : Option ProbeIx :=
  ProbeIx.all.find? fun c => (s.cfg.probes.get c).tank == tank && tank != 0

/-- A probe channel is used when its tank is not 0 (R110). -/
def State.probeUsed (s : State) (c : ProbeIx) : Bool := (s.cfg.probes.get c).tank != 0

/-- The hose holds a live delivery by its state (R27). -/
def liveState : HoseState → Bool
  | .priming => true | .flowing => true | .trimming => true | .ending => true
  | _ => false

/-- The hose state counts toward its pump's run count (R18). -/
def runState : HoseState → Bool
  | .priming => true | .flowing => true | .trimming => true
  | _ => false

/-- The run count of the pump of a tank (R18). -/
def State.runCount (s : State) (tank : Nat) : Nat :=
  (HoseIx.all.filter fun h => (s.hoseCfg h).tank == tank && runState (s.hoses.get h).state).length

/-- Hoses with a live delivery (R189). -/
def State.liveHoses (s : State) : List HoseIx := HoseIx.all.filter fun h => liveState (s.hoses.get h).state

/-- The site time, where present (R184). -/
def State.siteTime (s : State) : Option Nat := s.unit.siteOffset.map fun o => (s.unit.seconds + o) % 4294967296

/-- The time base in milliseconds since the start (R206). -/
def State.clock (s : State) : Nat := s.unit.seconds * 1000 + s.unit.millis

/-- Seconds as milliseconds. -/
def secondsMs (n : Nat) : Nat := n * 1000

/-- A meter is quiet for the end-settle time (R5, R45, R53). -/
def State.quietForSettle (s : State) (h : HoseIx) : Bool :=
  decide (secondsMs s.cfg.endSettle ≤ (s.meters.get h).quiet)

/-! ## Arithmetic -/

/-- The volume of a count of steps, in mL, for a meter constant (R9). -/
def volume (k : Nat) (p : Int) : Nat := if p < 0 then 0 else (p.toNat * 10000 + k / 2) / k

/-- The least count whose exact volume reaches a volume (R38). -/
def stepsFor (k v : Nat) : Nat := (v * k + 9999) / 10000

/-- A net count saturating at its limits (R3). -/
def clampNet (n : Int) : Int := max (-2147483648) (min 2147483647 n)

/-- Forward distance from one reading of engine hours to another (Conventions, 00_scope.md). -/
def hoursForward (l h : Nat) : Nat := (h + 1000000 - l) % 1000000

/-- Forward distance from one sequence number to another (R138). -/
def sequenceForward (a b : Nat) : Nat := (b + 4294967295 - a) % 4294967295

/-- The sequence number that follows (R138). -/
def nextSequence (n : Nat) : Nat := if 4294967295 ≤ n then 1 else n + 1

/-- The live volume of a hose, absent without a live delivery (R3). -/
def State.liveVolume (s : State) (h : HoseIx) : Option Nat :=
  if liveState (s.hoses.get h).state then some (volume (s.hoseCfg h).meterK (s.meters.get h).net) else none

/-- The tank of a hose's live delivery, absent without one. -/
def State.liveTank (s : State) (h : HoseIx) : Option Nat :=
  if liveState (s.hoses.get h).state then (s.hoses.get h).live.map fun l => l.tank else none

/-- The sum of the live volumes of this station's live deliveries on a tank (R90). -/
def State.liveSum (s : State) (tank : Nat) : Nat :=
  ((HoseIx.all.filter fun h => s.liveTank h == some tank).map fun h => (s.liveVolume h).getD 0).sum

/-- The available stock of a book's tank, absent with its value (R90). -/
def State.available (s : State) (k : BookIx) : Option Nat :=
  (s.books.get k).value.map fun v => v - s.liveSum (s.cfg.books.get k).tank

/-! ## Timers -/

/-- A running timer has come to its setting on the one time base (R206, log 1). -/
def ranOut (t : Timer) (limit : Nat) : Bool := t.any fun n => decide (limit ≤ n)

/-! ## Starting the meter's timers again -/

/-- The quiet timer of a channel restarts (R5). -/
def restartQuiet (h : HoseIx) (s : State) : State := s.setMeter h { s.meters.get h with quiet := 0 }

/-! ## Handing a frame to the link unit (R164 to R169) -/

/-- A frame as its owner builds it (R164, R186). -/
structure NewFrame where
  dest : Nat
  kind : FrameKind
  body : List Byte
  owner : Block
  purpose : Purpose
  deriving DecidableEq, Repr

/-- The characters the check covers: source, kind, length, body (R153). -/
def checkedCharacters (src : Nat) (kind : FrameKind) (body : List Byte) : List Byte :=
  oneByte src ++ oneByte (kindCode kind) ++ oneByte body.length ++ body

/-- The queue entry a handed frame becomes: fresh, at attempt 1, joining now (R164). -/
def State.entryOf (s : State) (f : NewFrame) : TxEntry :=
  ⟨f.dest, f.kind, f.body, checkCode (checkedCharacters s.ownAddress f.kind f.body), f.owner, f.purpose, 1, .fresh,
   s.clock⟩

/-- What an owner does when a frame of its is lost (R169): a read loses its frame and ends (R149); a pending restart
goes with its reply's entry (R205); the other blocks take no action. -/
def reportLost (p : Purpose) (s : State) : State :=
  match p with
  | .readFrame => s.setJournal { s.journal with read := none }
  | .restartReply => s
  | .plain => s

/-- One more transmit drop (R163, R167, R168). -/
def countDrop (s : State) : State := s.setCounts { s.counts with drop := countUp s.counts.drop }

/-- One more malformed frame (R185). -/
def countMalformed (s : State) : State := s.setCounts { s.counts with malformed := countUp s.counts.malformed }

/-- A frame dropped at hand-over: counted, and reported lost at that instant (R168, R169). -/
def dropNew (f : NewFrame) (s : State) : State := reportLost f.purpose (countDrop s)

/-- The ordinary entries without the first that a test finds, and that entry. -/
def takeFirst (p : TxEntry → Bool) : List TxEntry → Option (TxEntry × List TxEntry)
  | [] => none
  | e :: es => if p e then some (e, es) else (takeFirst p es).map fun r => (r.1, e :: r.2)

/-- An entry of a kind that is not in transmission. -/
def TxEntry.displaceable (k : FrameKind) (e : TxEntry) : Bool := e.kind == k && e.status != .inTransmission

/-- A TRIP or CLEAR takes a reserved entry: the place of a waiting fresh one, or a free one (R166). -/
def handReserved (f : NewFrame) (s : State) : State :=
  match takeFirst (fun e => e.status == .fresh) s.link.reserved with
  | some (_, rest) => s.setLink { s.link with reserved := rest ++ [s.entryOf f] }
  | none =>
    if s.link.reserved.length < Config.reservedCapacity then
      s.setLink { s.link with reserved := s.link.reserved ++ [s.entryOf f] }
    else s

/-- A BEACON takes the entry of a waiting BEACON, is discarded while one is in transmission, takes a free ordinary
entry, or is dropped (R167). -/
def handBeacon (f : NewFrame) (s : State) : State :=
  match takeFirst (fun e => e.kind == .beacon) s.link.ordinary with
  | some (e, rest) =>
    if e.status == .inTransmission then s
    else s.setLink { s.link with ordinary := rest ++ [s.entryOf f] }
  | none =>
    if s.link.ordinary.length < Config.ordinaryCapacity then
      s.setLink { s.link with ordinary := s.link.ordinary ++ [s.entryOf f] }
    else dropNew f s

/-- A DRAW or LEVEL with no ordinary entry free displaces the queued BEACON, else the oldest LEVEL, neither in
transmission, else is dropped (R168). -/
def displace (f : NewFrame) (s : State) : State :=
  let put (e : TxEntry) (rest : List TxEntry) : State :=
    reportLost e.purpose (countDrop (s.setLink { s.link with ordinary := rest ++ [s.entryOf f] }))
  match takeFirst (TxEntry.displaceable .beacon) s.link.ordinary with
  | some (e, rest) => put e rest
  | none =>
    match takeFirst (TxEntry.displaceable .level) s.link.ordinary with
    | some (e, rest) => put e rest
    | none => dropNew f s

/-- Any other frame takes a free ordinary entry; a DRAW or LEVEL may displace, a reply is dropped (R168). -/
def handOrdinary (f : NewFrame) (s : State) : State :=
  if s.link.ordinary.length < Config.ordinaryCapacity then
    s.setLink { s.link with ordinary := s.link.ordinary ++ [s.entryOf f] }
  else if f.kind == .draw || f.kind == .level then displace f s
  else dropNew f s

/-- What the link unit takes in CONFIG_FAULT (R173): a BEACON, and the start unit's replies to STATUS_REQ and
IDENT_REQ. -/
def takenInConfigFault (f : NewFrame) : Bool :=
  match f.kind with
  | .beacon => true
  | .statusRep => true
  | .identRep => true
  | .refused =>
    f.body.head? == some (BitVec.ofNat 8 (kindCode .statusReq))
      || f.body.head? == some (BitVec.ofNat 8 (kindCode .identReq))
  | _ => false

/-- A block hands a frame to the link unit (R164). -/
def handOver (f : NewFrame) (s : State) : State :=
  if s.inConfigFault && !takenInConfigFault f then s
  else
    match f.kind with
    | .trip => handReserved f s
    | .clear => handReserved f s
    | .beacon => handBeacon f s
    | _ => handOrdinary f s

/-- A reply to an office's frame, from its owner, for that owner to wait on or not (R179). -/
def reply (dest : Nat) (kind : FrameKind) (body : List Byte) (owner : Block) (p : Purpose) (s : State) : State :=
  handOver ⟨dest, kind, body, owner, p⟩ s

/-- A REFUSED reply: the kind code of the frame it answers and a refusal code (R178). -/
def refuse (dest kind : Nat) (code : RefusalCode) (owner : Block) (s : State) : State :=
  reply dest .refused (oneByte kind ++ oneByte (refusalCodeCode code)) owner .plain s

/-! ## Power -/

/-- A command's effect on a powered station; without power the station takes no event (log 7). -/
def whenPowered (f : State → State) (s : State) : State := if s.unit.powered then f s else s

end Sys2Proof.Machine
end

