-- ==== Sys2Proof/Machine/Accounts.lean ====
section
/-! DEFINITION. The account table (chapter 3): the roster, the questions of a claim, the application of closes and
peer DRAWs, the permits. -/

namespace Sys2Proof.Machine

/-! ## The roster (R59) -/

/-- The record of an id. -/
def Accounts.find (a : Accounts) (id : Nat) : Option MachineRecord := a.roster.find? fun r => r.id == id

/-- A record put in at the place its id gives; a record of the same id is replaced (R59). -/
def insertRecord (r : MachineRecord) : List MachineRecord → List MachineRecord
  | [] => [r]
  | q :: qs => if r.id < q.id then r :: q :: qs else if r.id = q.id then r :: qs else q :: insertRecord r qs

/-- A record's contents replaced in place. -/
def Accounts.putRecord (a : Accounts) (r : MachineRecord) : Accounts := { a with roster := insertRecord r a.roster }

/-- A record replaced in the station's roster. -/
def putRecord (r : MachineRecord) (s : State) : State := s.setAccounts (s.accounts.putRecord r)

/-- The permit held for a machine and product (R83). -/
def Accounts.findPermit (a : Accounts) (machine : Nat) (p : Product) : Option Permit :=
  a.permits.find? fun q => q.machine == machine && q.product == p

/-- The permits without the one for a machine and product. -/
def dropPermit (machine : Nat) (p : Product) (ps : List Permit) : List Permit :=
  ps.filter fun q => !(q.machine == machine && q.product == p)

/-- A permit leaves the list (R35, R85). -/
def removePermit (machine : Nat) (p : Product) (s : State) : State :=
  s.setAccounts { s.accounts with permits := dropPermit machine p s.accounts.permits }

/-! ## Check 4 (R32, R63) -/

/-- What serves a claim. -/
inductive Service where
  | record (r : MachineRecord)
  | permit (p : Permit)
  deriving DecidableEq, Repr

/-- The outcome of a question that refuses with a reason. -/
inductive Answer (α : Type) where
  | refused (r : RefusalReason)
  | given (a : α)
  deriving DecidableEq, Repr

/-- Check 4: an ACTIVE record serves, else a permit for the machine and product, else SUSPENDED or UNKNOWN_MACHINE. -/
def lookup (a : Accounts) (machine : Nat) (p : Product) : Answer Service :=
  match a.find machine, a.findPermit machine p with
  | some r, q =>
    if r.suspended then
      match q with
      | some q => .given (.permit q)
      | none => .refused .suspended
    else .given (.record r)
  | none, some q => .given (.permit q)
  | none, none => .refused .unknownMachine

/-! ## Check 5 (R64 to R68) -/

/-- The service window of a record for a product (R61). -/
def MachineRecord.window (r : MachineRecord) (p : Product) : Option ServiceWindow :=
  r.windows.find? fun w => w.product == p

/-- The fuel allowance with the distance from the last fill (R67). -/
def fuelAllowance (r : MachineRecord) (dF : Nat) : Nat :=
  match r.lastFill with
  | none => r.perFillMax
  | some _ => min r.perFillMax (r.slack + r.burnCeiling * dF)

/-- The allowance of a claim served by a record and not accepted with HOURS_JUMP (R67, R68). -/
def recordAllowance (r : MachineRecord) (c : HoseSetting) (dF : Nat) : Nat :=
  match c.product with
  | .diesel => fuelAllowance r dF
  | p => match r.window p with
    | some w => w.quantity
    | none => c.topUpLimit

/-- The distance from the last fill to a reading; 0 where there is no fill (R67). -/
def fillDistance (r : MachineRecord) (h : Nat) : Nat :=
  match r.lastFill with
  | some f => hoursForward f.hours h
  | none => 0

/-- The outcome of the hours check: the record with its counts as the check leaves them, and the answer: a machine
allowance and the claim flags, or HOURS_JUMP. -/
structure HoursOutcome where
  record : MachineRecord
  answer : Answer (Nat × RecordFlags)
  deriving DecidableEq, Repr

/-- Check 5 for a claim served by a record (R64 to R68). -/
def hoursCheck (cfg : Settings) (c : HoseSetting) (r : MachineRecord) (hours : Option Nat) : HoursOutcome :=
  match r.lastHours, hours with
  | none, none => ⟨r, .given (recordAllowance r c 0, { noFlags with noHistory := true })⟩
  | none, some h => ⟨r, .given (recordAllowance r c (fillDistance r h), { noFlags with noHistory := true })⟩
  | some _, none => ⟨r, .given (recordAllowance r c 0, noFlags)⟩
  | some l, some h =>
    if hoursForward l h ≤ cfg.maxHourStep then
      ⟨r, .given (recordAllowance r c (fillDistance r h), noFlags)⟩
    else if hoursForward h l ≤ cfg.backTolerance then
      ⟨{ r with anomalies := { r.anomalies with hoursBack := anomalyUp r.anomalies.hoursBack } },
        .given (recordAllowance r c 0, { noFlags with hoursBack := true })⟩
    else
      let r' := { r with anomalies := { r.anomalies with hourJump := anomalyUp r.anomalies.hourJump } }
      if r.cls = .priority then ⟨r', .given (r.slack, { noFlags with hoursJump := true })⟩
      else ⟨r', .refused .hoursJump⟩

/-! ## The close (R69 to R73) -/

/-- A window moved on from a reading (R73). -/
def ServiceWindow.moveOn (w : ServiceWindow) (h : Nat) : ServiceWindow :=
  { w with
    dueFrom := (h + w.interval + 1000000 - w.tolerance) % 1000000
    dueUntil := (h + w.interval + w.tolerance) % 1000000 }

/-- A reading lies in the window (R61). -/
def ServiceWindow.holds (w : ServiceWindow) (h : Nat) : Bool :=
  if w.dueFrom ≤ w.dueUntil then decide (w.dueFrom ≤ h) && decide (h ≤ w.dueUntil)
  else decide (w.dueFrom ≤ h) || decide (h ≤ w.dueUntil)

/-- The window of a product moved on, the others and the order kept. -/
def MachineRecord.moveWindow (r : MachineRecord) (p : Product) (h : Nat) : MachineRecord :=
  { r with windows := r.windows.map fun w => if w.product = p then w.moveOn h else w }

/-- A closed delivery (R48) as it is handed on; the close flags are added by the account table (R50). -/
structure Closed where
  hose : HoseIx
  machine : Nat
  hours : Option Nat
  product : Product
  tank : Nat
  limit : Nat
  quantity : Nat
  reason : EndReason
  flags : RecordFlags
  startTime : Nat
  endTime : Nat
  deriving DecidableEq, Repr

/-- The close's reading is trusted (R69). -/
def trusted (cfg : Settings) (r : MachineRecord) (flags : RecordFlags) (h : Nat) : Bool :=
  !flags.hoursBack && !flags.hoursJump && (r.lastHours.all fun l => decide (hoursForward l h ≤ cfg.maxHourStep))

/-- A high burn: the burn above the ceiling, or with no elapsed hours the quantity above the slack (R71). -/
def highBurn (r : MachineRecord) (q dF : Nat) : Bool :=
  if dF = 0 then decide (r.slack < q) else decide (r.burnCeiling < q / dF)

/-- The fuel part of a close (R71). The burn is that of the whole quantity; the fill held is a free value of R60's range
where the quantity is above it (log 34, DESIGN CHOICE). -/
def fuelClose (r : MachineRecord) (h q : Nat) (trust : Bool) : MachineRecord × RecordFlags :=
  let burnt := match r.lastFill with
    | some f => highBurn r q (if trust then hoursForward f.hours h else 0)
    | none => false
  let r1 := if burnt then
    { r with anomalies := { r.anomalies with highBurn := anomalyUp r.anomalies.highBurn } } else r
  let r2 := if trust then { r1 with lastFill := some ⟨h, volumeAt .lastFill q⟩, lastHours := some h } else r1
  (r2, { noFlags with highBurn := burnt })

/-- The timing of a lube service against its window (R72): its flag, and the record with its count. -/
def classify (r : MachineRecord) (w : ServiceWindow) (h : Nat) : MachineRecord × RecordFlags :=
  if w.holds h then (r, { noFlags with scheduled := true })
  else if hoursForward w.dueUntil h * 2 ≤ w.interval then
    ({ r with anomalies := { r.anomalies with overdue := anomalyUp r.anomalies.overdue } },
      { noFlags with overdue := true })
  else
    ({ r with anomalies := { r.anomalies with early := anomalyUp r.anomalies.early } },
      { noFlags with early := true })

/-- The lube part of a close (R70, R72, R73). -/
def lubeClose (r : MachineRecord) (p : Product) (h : Nat) (trust : Bool) : MachineRecord × RecordFlags :=
  if trust then
    match r.window p with
    | some w =>
      let (r1, fl) := classify r w h
      ({ r1.moveWindow p h with lastHours := some h }, fl)
    | none => ({ r with lastHours := some h }, noFlags)
  else (r, noFlags)

/-- A close applied to its machine's record (R69): the record after it and the close flags. -/
def closeRecord (cfg : Settings) (r : MachineRecord) (c : Closed) (h : Nat) : MachineRecord × RecordFlags :=
  match c.product with
  | .diesel => fuelClose r h c.quantity (trusted cfg r c.flags h)
  | p => lubeClose r p h (trusted cfg r c.flags h)

/-- The account table's step of a close (R50, R69): the close flags, and the state with the record written. -/
def accountClose (c : Closed) (s : State) : RecordFlags × State :=
  match s.accounts.find c.machine, c.hours with
  | some r, some h =>
    if c.flags.permit then (noFlags, s)
    else
      let (r', fl) := closeRecord s.cfg r c h
      (fl, putRecord r' s)
  | _, _ => (noFlags, s)

/-! ## Peer deliveries (R75, R76) -/

/-- A record updated by a peer's DRAW (R76). -/
def drawRecord (r : MachineRecord) (d : DrawBody) (h origin : Nat) : MachineRecord :=
  let r1 := match d.product with
    | .diesel => { r with lastFill := some ⟨h, d.quantity⟩ }
    | p => r.moveWindow p h
  { r1 with lastHours := some h, lastDraw := some ⟨origin, d.sequence⟩ }

/-- The account table takes a DRAW (R75, R76). -/
def takeDrawAccount (origin : Nat) (d : DrawBody) (s : State) : State :=
  match s.accounts.find d.machine, d.hours with
  | some r, some h =>
    if r.lastDraw = some ⟨origin, d.sequence⟩ then s
    else if r.lastHours.all (fun l => decide (hoursForward l h ≤ s.cfg.maxHourStep)) then
      putRecord (drawRecord r d h origin) s
    else s
  | _, _ => s

/-! ## Roster frames and permits (R79 to R84) -/

/-- A service window made from its setting (R79). -/
def windowOfSetting (w : WindowSetting) : ServiceWindow :=
  ⟨productOfCode w.product, w.interval, w.tolerance, (w.due + 1000000 - w.tolerance) % 1000000,
   (w.due + w.tolerance) % 1000000, w.quantity⟩

/-- A record created by a ROSTER_SET (R79). -/
def newRecord (b : RosterSetBody) : MachineRecord :=
  ⟨b.id, b.cls, b.suspended, b.lastHours, none, b.burnCeiling, b.perFillMax, b.slack,
   b.windows.map windowOfSetting, ⟨0, 0, 0, 0, 0⟩, none⟩

/-- A record replaced by a ROSTER_SET (R80): last hours only where the frame carries them; fill, key and counts kept. -/
def replaceRecord (r : MachineRecord) (b : RosterSetBody) : MachineRecord :=
  { r with
    cls := b.cls
    suspended := b.suspended
    burnCeiling := b.burnCeiling
    perFillMax := b.perFillMax
    slack := b.slack
    windows := b.windows.map windowOfSetting
    lastHours := match b.lastHours with
      | some h => some h
      | none => r.lastHours }

/-- The account table takes a ROSTER_SET (R79 to R81). -/
def takeRosterSet (f : Frame) (b : RosterSetBody) (s : State) : State :=
  match s.accounts.find b.id with
  | some r => putRecord (replaceRecord r b) s
  | none =>
    if s.accounts.roster.length < Config.rosterCapacity then putRecord (newRecord b) s
    else
      let t := (s.setAccounts { s.accounts with rosterFull := true }).setCounts
        { s.counts with rosterFull := countUp s.counts.rosterFull }
      if f.dest = 0 then t else refuse f.src f.kind .full .accountTable t

/-- The account table takes a ROSTER_REMOVE (R82). -/
def takeRosterRemove (f : Frame) (id : Nat) (s : State) : State :=
  match s.accounts.find id with
  | some _ =>
    s.setAccounts { s.accounts with roster := s.accounts.roster.filter (fun r => r.id != id), rosterFull := false }
  | none => if f.dest = 0 then s else refuse f.src f.kind .notFound .accountTable s

/-- The account table takes a PERMIT (R84). The expiry is on the count of local seconds (log 21). -/
def takePermit (f : Frame) (b : PermitBody) (s : State) : State :=
  let others := dropPermit b.machine b.product s.accounts.permits
  if others.length < Config.permitCapacity then
    s.setAccounts { s.accounts with
      permits := others ++ [⟨b.machine, b.product, b.limit, (s.unit.seconds + b.lifetime) % 4294967296⟩] }
  else refuse f.src f.kind .full .accountTable s

end Sys2Proof.Machine
end

