-- ==== Sys2Proof/Machine/Books.lean ====
section
/-! DEFINITION. The tank book unit's operations on books (4.1 to 4.4): the stock gate, closes, draws, receipts and
accepted levels. The dead-level watch, which ends deliveries, stands with the deliveries. -/

namespace Sys2Proof.Machine

/-! ## The stock gate (R91) -/

/-- The stock gate of a tank for a class: refusal, or the tank term and whether the claim flag BLIND is set. A tank
with no book, which R201 excludes for a hose, is answered as a blind cap of 0 (log 22). -/
def stockGate (tank : Nat) (priority : Bool) (s : State) : Answer (Nat × Bool) :=
  match s.bookOf tank with
  | none => .refused .stockDead
  | some k =>
    let c := s.cfg.books.get k
    match (s.books.get k).state, s.available k with
    | .current, some a =>
      if a ≤ c.dead then .refused .stockDead
      else if a ≤ c.reserve ∧ priority = false then .refused .stockReserve
      else .given (a - c.dead, false)
    | _, _ => if c.blindCap = 0 then .refused .stockDead else .given (c.blindCap, true)

/-! ## Changes of a book -/

/-- A quantity leaves the book's value, saturating at 0; an absent value stays absent (R94, R95). -/
def Book.subtract (b : Book) (q : Nat) : Book := { b with value := b.value.map fun v => v - q }

/-- A quantity is added to the book's value, saturating at the capacity; an absent value stays absent (R96). -/
def Book.add (b : Book) (q capacity : Nat) : Book := { b with value := b.value.map fun v => min (v + q) capacity }

/-- A key joins the recent-entry list at the newest end, the oldest leaving first when 16 are held (R93). -/
def Book.remember (b : Book) (key : Key) : Book :=
  { b with recent := (if b.recent.length < Config.recentCapacity then b.recent else b.recent.drop 1) ++ [key] }

/-- A CURRENT book enters AGED and its gauge-age timer stops; another is not changed (R100 to R102). -/
def Book.age (b : Book) : Book :=
  if b.state = .current then { b with state := .aged, ageTimer := none } else b

/-- An accepted LEVEL of gauged volume `g` on a book (R99), held in AGED with its timer stopped while ISOLATED (R100). -/
def Book.gauge (b : Book) (g tolerance : Nat) (isolated : Bool) : Book :=
  let settled : Book :=
    match b.value, b.state with
    | some v, .current =>
      if isolated = false then
        if ((g : Int) - (v : Int)).natAbs ≤ tolerance then { b with variance := (g : Int) - (v : Int) }
        else { b with value := some g, variance := (g : Int) - (v : Int), varianceCount := countUp b.varianceCount }
      else { b with value := some g, variance := (g : Int) - (v : Int) }
    | some v, .aged => { b with value := some g, variance := (g : Int) - (v : Int) }
    | _, _ => { b with value := some g, variance := 0 }
  if isolated then { settled with state := .aged, ageTimer := none }
  else { settled with state := .current, ageTimer := some 0 }

/-- The book step of a local close (R94). -/
def bookClose (tank q : Nat) (s : State) : State :=
  match s.bookOf tank with
  | none => s
  | some k => s.setBook k ((s.books.get k).subtract q)

/-- A DRAW on the books, by its tank and the key test (R93, R95). -/
def bookDraw (origin : Nat) (d : DrawBody) (s : State) : State :=
  match s.bookOf d.tank with
  | none => s
  | some k =>
    if (s.books.get k).recent.contains ⟨origin, d.sequence⟩ then s
    else s.setBook k (((s.books.get k).subtract d.quantity).remember ⟨origin, d.sequence⟩)

/-- A RECEIPT on the books, by its tank and the key test (R93, R96); a tank with no book refuses an addressed one. -/
def bookReceipt (f : Frame) (r : ReceiptBody) (s : State) : State :=
  match s.bookOf r.tank with
  | none => if f.dest = 0 then s else refuse f.src f.kind .notFound .tankBooks s
  | some k =>
    if (s.books.get k).recent.contains ⟨f.src, r.number⟩ then s
    else s.setBook k (((s.books.get k).add r.quantity (s.cfg.books.get k).capacity).remember ⟨f.src, r.number⟩)

/-- An accepted LEVEL on the book of a tank, clamped to the capacity (R97, R99). -/
def bookLevel (tank volume : Nat) (s : State) : State :=
  match s.bookOf tank with
  | none => s
  | some k =>
    s.setBook k ((s.books.get k).gauge (min volume (s.cfg.books.get k).capacity) (s.cfg.books.get k).tolerance
      (s.link.join == .isolated))

/-- Every CURRENT book enters AGED (R100). -/
def ageAllBooks (s : State) : State := { s with books := s.books.map Book.age }

/-- The CURRENT books of the tanks a lost peer gauged, of those kept and not gauged here, enter AGED (R102, R196). -/
def ageLostTanks (tanks : List Nat) (s : State) : State :=
  { s with books := .ofIx fun k =>
      let t := (s.cfg.books.get k).tank
      if tanks.contains t && t != 0 && (s.probeOf t).isNone then (s.books.get k).age else s.books.get k }

end Sys2Proof.Machine
end

