-- ==== Sys2Proof/Machine/Drive.lean ====
section
/-! DEFINITION. The valve and pump drive (1.2, 1.3) as the delivery controller and the trip unit use it, and the
move of a hose from one state to another with everything that follows the state at once. -/

namespace Sys2Proof.Machine

/-! ## Valves -/

/-- The duty of a stage (R11). -/
def stageDuty (c : HoseSetting) : Stage → Nat
  | .full => c.fullDuty
  | .trim => c.trimDuty
  | .shut => 0

/-- The duty a hose's valve is to be driven at: that of the commanded stage, 0 while the zone is TRIPPED or the
station in CONFIG_FAULT (R11, R13). -/
def State.dutyFor (s : State) (h : HoseIx) : Nat :=
  if s.tripped || s.inConfigFault then 0 else stageDuty (s.hoseCfg h) (s.valves.get h).commanded

/-- The applied duty becomes `d` (R12): to 0 at once with the period abandoned and the zero-duty time restarted, from
0 with a new period, otherwise from the next period. A non-zero duty ends the condition of R15. -/
def Valve.apply (v : Valve) (d : Nat) : Valve :=
  if d = v.duty then v
  else if d = 0 then { v with duty := 0, periodDuty := 0, periodTime := 0, output := false, zeroTime := 0 }
  else if v.duty = 0 then
    { v with duty := d, periodDuty := d, periodTime := 0, output := true, stuckGiven := false }
  else { v with duty := d }

/-- The valve drive applies what is commanded and allowed to one hose; a duty passing to 0 restarts the meter's quiet
timer (R5, R12). -/
def refreshValve (h : HoseIx) (s : State) : State :=
  let v := s.valves.get h
  let d := s.dutyFor h
  let t := s.setValve h (v.apply d)
  if v.duty ≠ 0 ∧ d = 0 then restartQuiet h t else t

/-- The same for every hose (R13, R121). -/
def refreshValves (s : State) : State := HoseIx.all.foldl (fun s h => refreshValve h s) s

/-- The stage of a hose state (R11). -/
def stageOf : HoseState → Stage
  | .flowing => .full
  | .trimming => .trim
  | _ => .shut

/-! ## Pumps -/

/-- The contactor is on in STARTING and RUNNING (1.3). -/
def PumpState.contactor : PumpState → Bool
  | .starting => true
  | .running => true
  | _ => false

/-- The contactor is switched on and the settle timer starts (R19, R22, R23). -/
def startPump (p : PumpIx) (s : State) : State :=
  s.setPump p { s.pumps.get p with state := .starting, timer := some 0 }

/-- The contactor is off and the minimum-off timer starts from the beginning (R20, R23, R24). -/
def coolPump (p : PumpIx) (s : State) : State :=
  s.setPump p { s.pumps.get p with state := .cooldown, timer := some 0 }

/-- A pump's run count rises from 0 to 1 (R19). -/
def pumpRise (p : PumpIx) (s : State) : State :=
  if (s.pumps.get p).state = .off ∧ ¬ s.tripped then startPump p s else s

/-- A pump's run count falls to 0 (R20). -/
def pumpFall (p : PumpIx) (s : State) : State :=
  if (s.pumps.get p).state.contactor then coolPump p s else s

/-- The zone enters TRIPPED, at one pump (R23). -/
def tripPump (p : PumpIx) (s : State) : State :=
  match (s.pumps.get p).state with
  | .starting => coolPump p s
  | .running => coolPump p s
  | .cooldown => coolPump p s
  | .off => s
  | .faulted => s

/-- The zone returns to NORMAL, at one pump (R23). -/
def resumePump (p : PumpIx) (s : State) : State :=
  if (s.pumps.get p).state = .off ∧ 0 < s.runCount (s.cfg.pumpTanks.get p) ∧ s.cfg.pumpTanks.get p ≠ 0 then
    startPump p s
  else s

/-! ## Moving a hose -/

/-- A timer while a state is kept, stopped outside it. -/
def keepIf (b : Bool) (t : Timer) : Timer := if b then t else none

/-- A hose's own items on a move to a state: claim timer (R30), tag timer while live (R29), no-flow timer from the
exit from PRIMING (R41), lamp and flash timer (R26; a flashing lamp begins lit, log 16). -/
def Hose.enter (x : Hose) (st : HoseState) : Hose :=
  { x with
    state := st
    claimTimer := if st = .waiting then some 0 else none
    tagTimer := keepIf (liveState st) x.tagTimer
    noFlow :=
      if st = .flowing ∨ st = .trimming then (if x.state = .priming then some 0 else x.noFlow) else none
    lamp := match st with
      | .refused _ => true
      | .outOfService _ => true
      | _ => false
    flash := match st with
      | .outOfService _ => some 0
      | _ => none }

/-- The pump of a hose's tank acts when the move changed its run count from or to 0 (R18 to R20). -/
def pumpFollows (h : HoseIx) (before : Nat) (s : State) : State :=
  match s.pumpOf (s.hoseCfg h).tank with
  | none => s
  | some p =>
    if before = 0 ∧ 0 < s.runCount (s.hoseCfg h).tank then pumpRise p s
    else if 0 < before ∧ s.runCount (s.hoseCfg h).tank = 0 then pumpFall p s
    else s

/-- The valve of a hose at a move: the commanded stage (R11) and the flow-past timer, started at the entry to ENDING
and stopped on leaving it (R16). -/
def commandStage (h : HoseIx) (st : HoseState) (s : State) : State :=
  refreshValve h (s.setValve h { s.valves.get h with
    commanded := stageOf st
    flowPast := if st = .ending then some 0 else none })

/-- A hose enters a state, with the valve stage, the timers, the lamp and the pump's run count that follow it. -/
def moveHose (h : HoseIx) (st : HoseState) (s : State) : State :=
  let before := s.runCount (s.hoseCfg h).tank
  let t := s.setHose h ((s.hoses.get h).enter st)
  pumpFollows h before (commandStage h st t)

end Sys2Proof.Machine
end

