-- ==== Sys2Proof/Machine/JournalOps.lean ====
section
/-! DEFINITION. The journal (chapter 6): places, records, collection and the frames of a read. -/

namespace Sys2Proof.Machine

/-- The uncollected count (R139). -/
def Journal.uncollected (j : Journal) : Nat := (j.records.filter fun r => !r.collected).length

/-- The journal is full: no place is free (R139). -/
def Journal.full (j : Journal) : Bool := decide (Config.journalCapacity ≤ j.uncollected + j.reserved)

/-- The oldest held sequence, 0 when no record is held (R137). -/
def Journal.oldest (j : Journal) : Nat := (j.records.head?.map fun r => r.sequence).getD 0

/-- The newest sequence, 0 when no record is held (R137). -/
def Journal.newest (j : Journal) : Nat := (j.records.getLast?.map fun r => r.sequence).getD 0

/-- The record of a closed delivery with its close flags (R144). -/
def recordOf (c : Closed) (flags : RecordFlags) (s : State) : DeliveryRecord :=
  ⟨s.journal.counter, c.hose, c.product, c.tank, c.machine, c.hours, c.limit, c.quantity, c.reason,
   c.flags.union flags, c.startTime, c.endTime, s.siteTime, false⟩

/-- A reservation is given back (R142, R143). -/
def Journal.release (j : Journal) : Journal := { j with reserved := j.reserved - 1 }

/-- A record joins at the newest end, over the oldest when 128 are held; the counter moves on (R142). -/
def Journal.write (j : Journal) (r : DeliveryRecord) : Journal :=
  { j with
    records := (if j.records.length < Config.journalCapacity then j.records else j.records.drop 1) ++ [r]
    counter := nextSequence j.counter }

/-- The journal step of a close with quantity above 0 (R142). -/
def journalClose (c : Closed) (flags : RecordFlags) (s : State) : State :=
  s.setJournal (s.journal.release.write (recordOf c flags s))

/-- The journal step of a close with quantity 0 (R143). -/
def journalRelease (s : State) : State := s.setJournal s.journal.release

/-- The uncollected records up to a sequence become collected: those no further from the oldest uncollected one. -/
def markThrough (o t : Nat) (rs : List DeliveryRecord) : List DeliveryRecord :=
  rs.map fun r =>
    if !r.collected && decide (sequenceForward o r.sequence ≤ sequenceForward o t) then { r with collected := true }
    else r

/-- A COLLECT of a sequence (R146). -/
def Journal.collect (j : Journal) (q : Nat) : Journal :=
  match j.records.find? (fun r => !r.collected) with
  | none => j
  | some r =>
    let o := r.sequence
    let n := j.newest
    if sequenceForward o q ≤ sequenceForward o n then { j with records := markThrough o q j.records, mark := q }
    else if 1 ≤ sequenceForward n q ∧ sequenceForward n q ≤ 2147483647 then
      { j with records := markThrough o n j.records, mark := n }
    else j

/-- The body of a JOURNAL_END (R187). -/
def journalEndBody (j : Journal) : List Byte := beBytes 4 j.oldest ++ beBytes 4 j.newest ++ beBytes 4 j.mark

/-- Hours laid out as a field (R187). -/
def hoursField (h : Option Nat) : Nat := h.getD 16777215

/-- The body of a JOURNAL_REC (R187, "The journal record as reported"); of a quantity above its field a free value stands
there (log 34, DESIGN CHOICE). -/
def journalRecBody (r : DeliveryRecord) : List Byte :=
  beBytes 4 r.sequence ++ oneByte r.hose.number ++ oneByte (productCode r.product) ++ oneByte r.tank
    ++ beBytes 3 r.machine ++ beBytes 3 (hoursField r.hours) ++ beBytes 3 r.limit ++ beBytes 4 (volumeAt .journalRec r.quantity)
    ++ oneByte (endReasonCode r.reason) ++ beBytes 2 (recordFlagsCode r.flags) ++ beBytes 4 r.startTime
    ++ beBytes 4 r.endTime ++ beBytes 4 (r.siteTime.getD 0)
    ++ oneByte (bitCode r.collected + 2 * bitCode r.siteTime.isSome)

/-- The next named sequence that is held, among so many, with what then remains of the read (R148, R149). -/
def nextNamed (rs : List DeliveryRecord) : Nat → Nat → Option (DeliveryRecord × Nat × Nat)
  | _, 0 => none
  | q, left + 1 =>
    match rs.find? (fun r => r.sequence == q) with
    | some r => some (r, nextSequence q, left)
    | none => nextNamed rs (nextSequence q) left

/-- The read in progress hands its next frame over: a JOURNAL_REC, or the JOURNAL_END after the last (R149). A frame
lost at hand-over ends the read there. -/
def readNext (s : State) : State :=
  match s.journal.read with
  | none => s
  | some r =>
    match nextNamed s.journal.records r.next r.left with
    | some (d, q, left) =>
      reply r.requester .journalRec (journalRecBody d) .journal .readFrame
        (s.setJournal { s.journal with read := some { r with next := q, left := left } })
    | none =>
      reply r.requester .journalEnd (journalEndBody s.journal) .journal .readFrame
        (s.setJournal { s.journal with read := some { r with left := 0, endHanded := true } })

/-- The journal learns that a frame of its read was sent: the read goes on, or ends with its JOURNAL_END (R149). -/
def readSent (s : State) : State :=
  match s.journal.read with
  | none => s
  | some r => if r.endHanded then s.setJournal { s.journal with read := none } else readNext s

end Sys2Proof.Machine
end

