-- ==== Sys2Proof/Machine/Closing.lean ====
section
/-! DEFINITION. How deliveries end and close (2.5, 2.6): ending requests, the entry to ENDING, the close and its
hand-off, the learned overrun, and the dead-level watch (R92). -/

namespace Sys2Proof.Machine

/-! ## Ending (R43, R44) -/

/-- The live record at the entry to ENDING: the reason, and P_close where it was not already set (R44). -/
def Live.ending (l : Live) (r : EndReason) (net : Int) : Live :=
  { l with
    endReason := some r
    closeCount := match l.closeCount with
      | some p => some p
      | none => some net }

/-- A delivery enters ENDING with a reason (R44). -/
def enterEnding (h : HoseIx) (r : EndReason) (s : State) : State :=
  let x := s.hoses.get h
  moveHose h .ending (s.setHose h { x with live := x.live.map fun l => l.ending r (s.meters.get h).net })

/-- An ending request at one hose (R43): PRIMING, FLOWING and TRIMMING enter ENDING, every other state keeps on. -/
def endRaw (h : HoseIx) (r : EndReason) (s : State) : State :=
  match (s.hoses.get h).state with
  | .priming => enterEnding h r s
  | .flowing => enterEnding h r s
  | .trimming => enterEnding h r s
  | _ => s

/-- An ending request at several hoses, in ascending order (log 14). -/
def endAll (hs : List HoseIx) (r : EndReason) (s : State) : State := hs.foldl (fun s h => endRaw h r s) s

/-- The hoses with a live delivery on a tank. -/
def State.liveOn (s : State) (tank : Nat) : List HoseIx := HoseIx.all.filter fun h => s.liveTank h == some tank

/-- The condition of the dead-level watch on a tank: a CURRENT book whose available stock is at or below the dead
level (R92). -/
def State.stockGone (s : State) (tank : Nat) : Bool :=
  match s.bookOf tank with
  | none => false
  | some k =>
    match (s.books.get k).state, s.available k with
    | .current, some a => decide (a ≤ (s.cfg.books.get k).dead)
    | _, _ => false

/-- The requests of the dead-level watch (R92). -/
def watchRaw (tank : Nat) (s : State) : State := if s.stockGone tank then endAll (s.liveOn tank) .stock s else s

/-! ## The close (R48 to R50) -/

/-- The observed overrun (R48). -/
def observedOverrun (k : Nat) (closeCount final : Int) : Nat :=
  if closeCount ≤ final then volume k final - volume k closeCount else 0

/-- The learned overrun a PRESET close teaches (R49). -/
def learned (o obs : Nat) : Nat :=
  (max 0 (min 5000 ((o : Int) + Int.tdiv ((obs : Int) - (o : Int)) 4))).toNat

/-- The closed delivery of a live record with its final count and reason (R48). -/
def closedOf (h : HoseIx) (l : Live) (final : Int) (reason : EndReason) (s : State) : Closed :=
  ⟨h, l.machine, l.hours, l.product, l.tank, l.limit, volume (s.hoseCfg h).meterK final, reason, l.flags,
   l.startTime, s.unit.seconds⟩

/-- The body of a DRAW (R50, R186, R187); a quantity above the field's range stands there as a free value of it, so that
every DRAW passes its content test (log 34, DESIGN CHOICE). -/
def drawBytes (sequence : Nat) (c : Closed) : List Byte :=
  beBytes 4 sequence ++ oneByte c.tank ++ oneByte (productCode c.product) ++ beBytes 3 c.machine
    ++ beBytes 3 (hoursField c.hours) ++ beBytes 4 (volumeAt .draw c.quantity)

/-- A closed delivery with quantity above 0 is handed to the account table, the journal, the tank book unit and the
link unit in that order; one with quantity 0 to the journal alone (R50). -/
def handOff (c : Closed) (s : State) : State :=
  if c.quantity = 0 then journalRelease s
  else
    let (flags, s1) := accountClose c s
    let sequence := s1.journal.counter
    let s2 := journalClose c flags s1
    let s3 := bookClose c.tank c.quantity s2
    handOver ⟨0, .draw, drawBytes sequence c, .deliveryController, .plain⟩ s3

/-- The hose state after a close (R48): the fault that directs it, the mark of R46, or by the hook. -/
def afterClose (x : Hose) (fault : Option HoseFault) (reason : EndReason) : HoseState :=
  match fault with
  | some f => .outOfService f
  | none =>
    if x.meterMark then .outOfService .meter
    else if x.hook = some .offHook then .done reason else .idle

/-- A live delivery closes (R48): it teaches where the close follows the end settle and the reason is PRESET (R49),
leaves the hose, and is handed on (R50) with the dead-level watch after its book step (R94). -/
def closeRaw (h : HoseIx) (settled : Bool) (fault : Option HoseFault) (reason : EndReason) (s : State) : State :=
  let x := s.hoses.get h
  match x.live with
  | none => s
  | some l =>
    let final := (s.meters.get h).net
    let c := closedOf h l final reason s
    let obs := observedOverrun (s.hoseCfg h).meterK (l.closeCount.getD final) final
    let overrun := if settled ∧ reason = .preset then learned l.overrunUsed obs else x.overrun
    let s1 := moveHose h (afterClose x fault reason)
      (s.setHose h { x with live := none, meterMark := false, overrun := overrun })
    let s2 := handOff c s1
    if c.quantity = 0 then s2 else watchRaw l.tank s2

/-- The reason a delivery closes with: the one it entered ENDING with, or else the one given (R43). -/
def reasonOr (x : Hose) (r : EndReason) : EndReason :=
  match x.live with
  | some l => l.endReason.getD r
  | none => r

/-- The first hose whose delivery came to ENDING since `s0` with its meter already quiet for the end-settle time (R45). -/
def nextSettled (s0 s : State) : Option HoseIx :=
  HoseIx.all.find? fun h =>
    (s.hoses.get h).state == .ending && (s0.hoses.get h).state != .ending && (s.hoses.get h).live.isSome
      && s.quietForSettle h

/-- The deliveries that entered ENDING since `s0` with a quiet meter close at that entry (R45), in ascending order;
each leaves ENDING, so six rounds take them all (log 14). -/
def settleNew (s0 : State) : Nat → State → State
  | 0, s => s
  | n + 1, s =>
    match nextSettled s0 s with
    | none => s
    | some h => settleNew s0 n (closeRaw h true none (reasonOr (s.hoses.get h) .preset) s)

/-- What a change does that may end deliveries, with the closes that follow at once (R45). -/
def settling (f : State → State) (s : State) : State := settleNew s 6 (f s)

/-- An ending request (R43) with the close that follows at once where the meter is quiet (R45). -/
def endingRequest (h : HoseIx) (r : EndReason) (s : State) : State := settling (endRaw h r) s

/-- The dead-level watch on a tank (R92). -/
def deadLevelWatch (tank : Nat) (s : State) : State := settling (watchRaw tank) s

/-- A delivery in ENDING closes after the end settle (R45, R49). -/
def closeSettled (h : HoseIx) (s : State) : State :=
  if (s.hoses.get h).state = .ending then
    settling (closeRaw h true none (reasonOr (s.hoses.get h) .preset)) s
  else s

end Sys2Proof.Machine
end

