-- ==== Sys2Proof/Machine/Zone.lean ====
section
/-! DEFINITION. The zone trip record at work (5.2 to 5.4): entering TRIPPED and returning to NORMAL, raised causes,
episodes and their announcement, the origin list; and the faults of hoses and pumps that the blocks signal. -/

namespace Sys2Proof.Machine

/-! ## The zone state (R121) -/

/-- One hose as the zone enters TRIPPED (R55). -/
def tripHose (h : HoseIx) (s : State) : State :=
  match (s.hoses.get h).state with
  | .waiting => moveHose h (.refused .tripped) s
  | _ => endRaw h .trip s

/-- The zone enters TRIPPED: valves (R13), pumps (R23), hoses (R55). -/
def enterTripped (s : State) : State :=
  let s1 := refreshValves s
  let s2 := PumpIx.all.foldl (fun s p => tripPump p s) s1
  settling (fun s => HoseIx.all.foldl (fun s h => tripHose h s) s) s2

/-- The zone returns to NORMAL: the commanded stages apply again (R13), OFF pumps with a run count start (R23). -/
def returnNormal (s : State) : State := PumpIx.all.foldl (fun s p => resumePump p s) (refreshValves s)

/-- What the other blocks do at a change of the zone state since `s0` (R119, R121). -/
def zoneFollows (s0 s : State) : State :=
  if s.tripped && !s0.tripped then enterTripped s
  else if s0.tripped && !s.tripped then returnNormal s
  else s

/-! ## Announcements (R122, R123) -/

/-- The zone as a character of a frame; with no zone no frame that carries one is built. -/
def State.zoneByte (s : State) : List Byte := oneByte (s.cfg.zone.getD 0)

/-- A TRIP of the current episode (R122, R187). -/
def State.tripFrame (s : State) : NewFrame :=
  ⟨0, .trip, s.zoneByte ++ beBytes 2 (s.tripUnit.episode.getD 0) ++ oneByte (causeSetCode s.tripUnit.causes.zoneWide),
   .tripUnit, .plain⟩

/-- A CLEAR of an ended episode (R123, R187). -/
def State.clearFrame (s : State) (stamp : Nat) : NewFrame :=
  ⟨0, .clear, s.zoneByte ++ beBytes 2 stamp, .tripUnit, .plain⟩

/-- The trip unit hands over a TRIP and sets the announced flag (R122); in CONFIG_FAULT neither (R136). -/
def announce (s : State) : State :=
  if s.inConfigFault then s
  else handOver s.tripFrame (s.setTripUnit { s.tripUnit with announced := true })

/-- The stamp after the counter moves on by one, skipping 0 (R120). -/
def nextStamp (n : Nat) : Nat := if 65535 ≤ n then 1 else n + 1

/-- An episode begins: the counter moves on, its value is the stamp, the announced flag is clear (R120). -/
def TripUnit.beginEpisode (t : TripUnit) : TripUnit :=
  { t with stampCounter := nextStamp t.stampCounter, episode := some (nextStamp t.stampCounter), announced := false }

/-- A cause is latched into the record; a first zone-wide one begins an episode (R114, R120). -/
def TripUnit.latch (t : TripUnit) (c : Cause) : TripUnit :=
  let t1 := { t with causes := t.causes.put c true }
  if zoneWideCause c && !t.causes.zoneWide.any then t1.beginEpisode else t1

/-- A cause is raised (R114): latched once, announced when zone-wide (R122), and the zone trips where it was NORMAL
(R121). -/
def raise (c : Cause) (s : State) : State :=
  if s.tripUnit.causes.has c then s
  else
    let s1 := s.setTripUnit (s.tripUnit.latch c)
    let s2 := if zoneWideCause c then announce s1 else s1
    zoneFollows s s2

/-! ## Origins (R124, R197) -/

/-- The liveness of an address in the peer table; absent when the table has no entry for it (R197). -/
def State.liveness (s : State) (address : Nat) : Option Liveness :=
  (s.peers.find? fun p => p.address == address).map fun p => p.state

/-- The origin list without the first entry whose origin is LOST, where one is (R124). -/
def dropLostOrigin (s : State) : List Origin → Option (List Origin)
  | [] => none
  | o :: os =>
    if s.liveness o.address = some .lost then some os else (dropLostOrigin s os).map fun r => o :: r

/-- An origin's episode is entered or updated (R124): an entry held takes the stamp and causes in its place; a new one
joins at the newest end, over the oldest LOST origin when 16 are held, or is counted as not entered. -/
def enterOrigin (o : Origin) (s : State) : State :=
  let os := s.tripUnit.origins
  if os.any (fun q => q.address == o.address) then
    s.setTripUnit { s.tripUnit with origins := os.map fun q => if q.address = o.address then o else q }
  else if os.length < Config.originCapacity then s.setTripUnit { s.tripUnit with origins := os ++ [o] }
  else
    match dropLostOrigin s os with
    | some rest => s.setTripUnit { s.tripUnit with origins := rest ++ [o] }
    | none => countMalformed s

/-- The entries that a test finds leave the origin list. -/
def dropOrigins (p : Origin → Bool) (s : State) : State :=
  s.setTripUnit { s.tripUnit with origins := s.tripUnit.origins.filter fun o => !p o }

/-- A change of the origin list with what the zone state then does (R121). -/
def withZone (f : State → State) (s : State) : State := zoneFollows s (f s)

/-! ## Faults of hoses and pumps -/

/-- A hose enters OUT_OF_SERVICE with VALVE_STUCK and the cause is raised (R47). -/
def stuckOut (f : State → State) (s : State) : State := raise .valveStuck (settling f s)

/-- Valve stuck at a hose (R47). In FLOWING and TRIMMING, which R13's forcing alone could bring here, the trip has
ended the delivery first. -/
def valveStuck (h : HoseIx) (s : State) : State :=
  match (s.hoses.get h).state with
  | .priming =>
    stuckOut (fun s => closeRaw h false (some .valveStuck) .valve (enterEnding h .valve s)) s
  | .ending => stuckOut (closeRaw h false (some .valveStuck) (reasonOr (s.hoses.get h) .valve)) s
  | .flowing => s
  | .trimming => s
  | .outOfService _ => s
  | .idle => stuckOut (moveHose h (.outOfService .valveStuck)) s
  | .waiting => stuckOut (moveHose h (.outOfService .valveStuck)) s
  | .done _ => stuckOut (moveHose h (.outOfService .valveStuck)) s
  | .refused _ => stuckOut (moveHose h (.outOfService .valveStuck)) s

/-- The condition of valve stuck holds at a hose that is not OUT_OF_SERVICE (R15). -/
def State.stuckNow (s : State) (h : HoseIx) : Bool :=
  let v := s.valves.get h
  v.duty == 0 && decide (secondsMs s.cfg.endSettle ≤ v.zeroTime) && !v.closed
    && (match (s.hoses.get h).state with
      | .outOfService _ => false
      | _ => true)

/-- The check of R15: valve stuck is signalled once for each time its condition becomes true. -/
def checkStuck (h : HoseIx) (s : State) : State :=
  if s.stuckNow h && !(s.valves.get h).stuckGiven then
    valveStuck h (s.setValve h { s.valves.get h with stuckGiven := true })
  else s

/-- The hose is marked to go to OUT_OF_SERVICE with METER at its close (R46). -/
def markMeter (h : HoseIx) (s : State) : State := s.setHose h { s.hoses.get h with meterMark := true }

/-- A meter fault at a hose (R46). -/
def meterFault (h : HoseIx) (s : State) : State :=
  match (s.hoses.get h).state with
  | .priming => endingRequest h .meter (markMeter h s)
  | .flowing => endingRequest h .meter (markMeter h s)
  | .trimming => endingRequest h .meter (markMeter h s)
  | .ending => markMeter h s
  | .outOfService _ => s
  | .idle => moveHose h (.outOfService .meter) s
  | .waiting => moveHose h (.outOfService .meter) s
  | .done _ => moveHose h (.outOfService .meter) s
  | .refused _ => moveHose h (.outOfService .meter) s

/-- The hoses bound to a pump's tank (R18). -/
def State.hosesOf (s : State) (p : PumpIx) : List HoseIx :=
  HoseIx.all.filter fun h => (s.hoseCfg h).tank == s.cfg.pumpTanks.get p && s.cfg.pumpTanks.get p != 0

/-- A pump enters FAULTED, its contactor off, and the fault is signalled to every hose of its tank (R21). -/
def faultPump (p : PumpIx) (s : State) : State :=
  let s1 := s.setPump p { s.pumps.get p with state := .faulted, timer := none }
  settling (endAll (s.hosesOf p) .pump) s1

/-- A hose in PRIMING is told that its pump is RUNNING (R39). -/
def exitPriming (h : HoseIx) (s : State) : State :=
  let x := s.hoses.get h
  match x.state, x.live with
  | .priming, some l =>
    let net := (s.meters.get h).net
    if l.stopCount = 0 ∨ (l.stopCount : Int) ≤ net then endingRequest h .preset s
    else if x.tagTimer.any (fun t => decide (secondsMs s.cfg.tagGrace ≤ t)) then endingRequest h .tagLost s
    else if (l.trimCount : Int) ≤ net then moveHose h .trimming s
    else moveHose h .flowing s
  | _, _ => s

end Sys2Proof.Machine
end

