-- ==== Sys2Proof/Machine/Reports.lean ====
section
/-! DEFINITION. The bodies the station builds from its state (R180, R182, R86, R189), in the layouts of R187. -/

namespace Sys2Proof.Machine

/-- Characters of STATUS_REP that no rule gives a value (log 11). -/
def unstated (part offset n : Nat) : List Byte :=
  (List.range n).map fun i => Config.unstatedStatusByte part (offset + i)

/-- The zone's character, unstated where no zone can be taken (R202, log 11). -/
def State.statusZone (s : State) : List Byte :=
  match s.cfg.zone with
  | some z => oneByte z
  | none => unstated 1 2 1

/-- The station flags (R187, R189). -/
def State.stationFlags (s : State) : Nat :=
  bitCode s.inConfigFault + 2 * bitCode s.gauging.conflict + 4 * bitCode s.journal.full
    + 8 * bitCode s.accounts.rosterFull

/-- The eight counts in the order of section 8.3. -/
def Counts.bytes (c : Counts) : List Byte :=
  beBytes 2 c.framing ++ beBytes 2 c.check ++ beBytes 2 c.overrun ++ beBytes 2 c.collision ++ beBytes 2 c.drop
    ++ beBytes 2 c.malformed ++ beBytes 2 c.peerFull ++ beBytes 2 c.rosterFull

/-- Part 1, STATION. -/
def State.statusStation (s : State) : List Byte :=
  oneByte 1 ++ oneByte (joinStateCode s.link.join) ++ s.statusZone ++ oneByte (bitCode s.tripped)
    ++ oneByte (causeSetCode s.tripUnit.causes) ++ beBytes 2 (s.tripUnit.episode.getD 0)
    ++ oneByte (bitCode s.tripUnit.announced) ++ oneByte s.tripUnit.origins.length ++ oneByte s.stationFlags
    ++ InputIx.all.flatMap (fun i => oneByte (spillCode (s.cfg.spill.get i).function (s.tripUnit.inputs.get i)))
    ++ oneByte (buttonCode s.tripUnit.button) ++ oneByte s.journal.uncollected ++ oneByte s.journal.reserved
    ++ beBytes 2 s.accounts.roster.length ++ oneByte s.accounts.permits.length ++ beBytes 4 s.unit.seconds
    ++ oneByte (bitCode s.siteTime.isSome) ++ beBytes 4 (s.siteTime.getD 0) ++ s.counts.bytes

/-- A hose's reason as a code, 0 when absent (R26). -/
def reasonCode (x : Hose) : Nat :=
  match x.state with
  | .ending => ((x.live.bind fun l => l.endReason).map endReasonCode).getD 0
  | .done r => endReasonCode r
  | .refused r => refusalReasonCode r
  | .outOfService f => hoseFaultCode f
  | _ => 0

/-- Part 2, HOSES: one hose; of a live volume above its field a free value stands there (log 34, DESIGN CHOICE). -/
def State.statusHose (s : State) (h : HoseIx) : List Byte :=
  let x := s.hoses.get h
  let v := s.valves.get h
  oneByte (hookCode x.hook) ++ oneByte (hoseStateCode x.state) ++ oneByte (reasonCode x)
    ++ beBytes 4 (volumeAt .liveVolume ((s.liveVolume h).getD 0)) ++ oneByte v.duty ++ oneByte (bitCode v.closed)

/-- Parts 3 and 4, TANKS: one book position, the k-th of its part; without a book the tank is 0 and the value absent,
sent as 0, the other characters unstated (R180, R187, log 11). -/
def State.statusBook (s : State) (part k : Nat) (i : BookIx) : List Byte :=
  let t := (s.cfg.books.get i).tank
  let b := s.books.get i
  if t = 0 then
    oneByte 0 ++ unstated part (2 + 13 * k) 1 ++ beBytes 4 0 ++ unstated part (7 + 13 * k) 7
  else
    oneByte t ++ oneByte (bookStateCode b.state) ++ beBytes 4 (b.value.getD 0)
      ++ oneByte (bitCode (decide (b.variance < 0))) ++ beBytes 4 b.variance.natAbs ++ beBytes 2 b.varianceCount

/-- Part 5, PLANT: one pump position; without a pump the tank is 0, the other characters unstated (R180, log 11). -/
def State.statusPump (s : State) (p : PumpIx) : List Byte :=
  let t := s.cfg.pumpTanks.get p
  let x := s.pumps.get p
  if t = 0 then oneByte 0 ++ unstated 5 (2 + 5 * p.index) 4
  else
    oneByte t ++ oneByte (pumpStateCode x.state) ++ oneByte (bitCode x.state.contactor) ++ oneByte (bitCode x.proof)
      ++ oneByte (s.runCount t)

/-- The reported height of a channel: the floor of the mean of its history, absent while it is empty (R106). -/
def Probe.reported (p : Probe) : Option Nat :=
  if p.history.isEmpty then none else some (p.history.sum / p.history.length)

/-- Part 5, PLANT: one probe position; without a channel the tank is 0 and the height absent, sent as 65,535, the other
characters unstated (R180, R187, log 11). -/
def State.statusProbe (s : State) (c : ProbeIx) : List Byte :=
  let x := s.probes.get c
  if s.probeUsed c = false then
    oneByte 0 ++ unstated 5 (22 + 5 * c.index) 1 ++ beBytes 2 65535 ++ unstated 5 (25 + 5 * c.index) 1
  else
    oneByte (s.cfg.probes.get c).tank ++ oneByte (probeStateCode x.state) ++ beBytes 2 (x.reported.getD 65535)
      ++ oneByte (bitCode x.overfill)

/-- Parts 6 and 7, ORIGINS: one entry. -/
def Origin.bytes (o : Origin) : List Byte :=
  oneByte o.address ++ beBytes 2 o.stamp ++ oneByte (causeSetCode o.causes)

/-- The body of a STATUS_REP of a part (R180). -/
def State.statusBody (s : State) (part : Nat) : List Byte :=
  match part with
  | 1 => s.statusStation
  | 2 => oneByte 2 ++ HoseIx.all.flatMap s.statusHose
  | 3 => oneByte 3 ++ s.statusBook 3 0 .b1 ++ s.statusBook 3 1 .b2 ++ s.statusBook 3 2 .b3 ++ s.statusBook 3 3 .b4
  | 4 => oneByte 4 ++ s.statusBook 4 0 .b5 ++ s.statusBook 4 1 .b6 ++ s.statusBook 4 2 .b7 ++ s.statusBook 4 3 .b8
  | 5 => oneByte 5 ++ PumpIx.all.flatMap s.statusPump ++ ProbeIx.all.flatMap s.statusProbe
  | 6 => oneByte 6 ++ (s.tripUnit.origins.take 8).flatMap Origin.bytes
  | _ => oneByte 7 ++ ((s.tripUnit.origins.drop 8).take 8).flatMap Origin.bytes

/-- The body of an IDENT_REP (R182). -/
def State.identBody (s : State) : List Byte :=
  beBytes 2 Config.vendorCode ++ beBytes 2 Config.partCode ++ oneByte Config.revision
    ++ beBytes 2 (imageCheck s.unit.image)

/-- The body of an ACCOUNT_REP, HEAD (R86). -/
def accountHead (r : MachineRecord) (rosterSize : Nat) : List Byte :=
  oneByte 1 ++ beBytes 3 r.id ++ oneByte (standingCode r.cls r.suspended) ++ beBytes 3 (hoursField r.lastHours)
    ++ beBytes 3 (hoursField (r.lastFill.map fun f => f.hours))
    ++ beBytes 4 ((r.lastFill.map fun f => f.quantity).getD 0) ++ beBytes 2 r.burnCeiling ++ beBytes 3 r.perFillMax
    ++ beBytes 3 r.slack ++ oneByte r.anomalies.highBurn ++ oneByte r.anomalies.hourJump
    ++ oneByte r.anomalies.hoursBack ++ oneByte r.anomalies.early ++ oneByte r.anomalies.overdue
    ++ oneByte ((r.lastDraw.map fun k => k.origin).getD 0) ++ beBytes 4 ((r.lastDraw.map fun k => k.number).getD 0)
    ++ oneByte r.windows.length ++ beBytes 2 rosterSize

/-- One service window of an ACCOUNT_REP. -/
def ServiceWindow.bytes (w : ServiceWindow) : List Byte :=
  oneByte (productCode w.product) ++ beBytes 3 w.interval ++ beBytes 2 w.tolerance ++ beBytes 3 w.dueFrom
    ++ beBytes 3 w.dueUntil ++ beBytes 3 w.quantity

/-- The body of an ACCOUNT_REP, WINDOWS (R86). -/
def accountWindows (r : MachineRecord) : List Byte :=
  oneByte 2 ++ beBytes 3 r.id ++ r.windows.flatMap ServiceWindow.bytes

/-- The tanks gauged here, in the order of the channels, each once (R189); none in CONFIG_FAULT (R190). -/
def State.tanksGauged (s : State) : List Nat :=
  if s.inConfigFault then []
  else ((ProbeIx.all.map fun c => (s.cfg.probes.get c).tank).filter fun t => t != 0).eraseDups

/-- The body of a BEACON for a zone (R189, R190). -/
def State.beaconBytes (s : State) (zone : Nat) : List Byte :=
  oneByte s.cfg.beaconInterval ++ oneByte zone ++ oneByte (joinStateCode s.link.join) ++ oneByte s.stationFlags
    ++ beBytes 2 (s.tripUnit.episode.getD 0)
    ++ oneByte (match s.tripUnit.episode with
      | some _ => causeSetCode s.tripUnit.causes.zoneWide
      | none => 0)
    ++ oneByte s.liveHoses.length ++ beBytes 4 s.unit.seconds ++ oneByte s.tanksGauged.length
    ++ s.tanksGauged.flatMap oneByte

end Sys2Proof.Machine
end

