-- ==== Sys2Proof/Machine/Receive.lean ====
section
/-! DEFINITION. What becomes of the frame at the head of the receive buffer (R157, R175 to R178): its tests, its
owners, and its taking by one of them. -/

namespace Sys2Proof.Machine

/-- Station addresses (Quantities, 00_scope.md). -/
def isStation (a : Nat) : Bool := within 1 47 a

/-- Office terminal addresses. -/
def isOffice (a : Nat) : Bool := within 48 63 a

/-- The sources that admit a kind (R175). -/
def sourceOk (k : FrameKind) (src : Nat) : Bool :=
  match familyOf k with
  | .report => if k = .level then isStation src || isOffice src else isStation src
  | .administrative => isOffice src
  | .request => isOffice src
  | .reply => false

/-- The destinations that admit a kind (R175); a frame assembled for this station has destination 0 or its own. -/
def destOk (k : FrameKind) (dest : Nat) : Bool :=
  match familyOf k with
  | .request => dest != 0
  | _ => true

/-- How a frame's tests come out: discarded and counted, discarded and answered with REFUSED, or sound. -/
inductive Verdict where
  | counted
  | refused (c : RefusalCode)
  | sound
  deriving DecidableEq, Repr

/-- The tests of admission and content (R175, R177). -/
def verdict (f : Frame) : Verdict :=
  match kindOfCode f.kind with
  | none => if isOffice f.src && f.dest != 0 then .refused .unknownKind else .counted
  | some k =>
    if !sourceOk k f.src then .counted
    else if !destOk k f.dest then .counted
    else
      match contentTest k f.body with
      | none => .sound
      | some c =>
        match familyOf k with
        | .report => .counted
        | .administrative => if f.dest = 0 then .counted else .refused c
        | .request => .refused c
        | .reply => .counted

/-- The block that owns a kind's matter beside the peer table (R175). -/
def mainOwners : FrameKind → List Block
  | .beacon => [.tripUnit] | .trip => [.tripUnit] | .clear => [.tripUnit]
  | .draw => [.tankBooks, .accountTable]
  | .level => [.tankBooks] | .receipt => [.tankBooks]
  | .rosterSet => [.accountTable] | .rosterRemove => [.accountTable]
  | .time => [.startUnit] | .statusReq => [.startUnit] | .identReq => [.startUnit] | .restart => [.startUnit]
  | .accountRead => [.accountTable] | .permit => [.accountTable]
  | .journalRead => [.journal] | .collect => [.journal]
  | .stopHose => [.deliveryController]
  | _ => []

/-- The blocks a sound frame goes to (R176): its owners, and the peer table for a station's frame; in CONFIG_FAULT only
STATUS_REQ, IDENT_REQ and TIME to the start unit and BEACON to the peer table. -/
def ownersOf (k : FrameKind) (src : Nat) (fault : Bool) : List Block :=
  if fault then
    match k with
    | .statusReq => [.startUnit]
    | .identReq => [.startUnit]
    | .time => [.startUnit]
    | .beacon => [.peerTable]
    | _ => []
  else mainOwners k ++ if isStation src then [.peerTable] else []

/-- The head of the receive buffer leaves it (R157). -/
def dropHead (s : State) : State := s.setLink { s.link with buffer := s.link.buffer.drop 1 }

/-- The head of the receive buffer has been taken by one more block. -/
def markHead (b : Block) (s : State) : State :=
  match s.link.buffer with
  | [] => s
  | e :: rest => s.setLink { s.link with buffer := { e with taken := b :: e.taken } :: rest }

/-- A block takes the frame at the head of the receive buffer, if it is of a kind the block takes at this command: the
tests are made once, a frame that fails leaves the buffer counted or answered, a sound one is taken once by each owner
and leaves when all have taken it (R157, R175 to R177). -/
def takeHead (b : Block) (kinds : List FrameKind) (effect : Frame → State → State) (s : State) : State :=
  match s.link.buffer with
  | [] => s
  | e :: _ =>
    match kindOfCode e.frame.kind with
    | none => s
    | some k =>
      if !kinds.contains k then s
      else
        match verdict e.frame with
        | .counted => countMalformed (dropHead s)
        | .refused c => refuse e.frame.src e.frame.kind c b (dropHead s)
        | .sound =>
          let owners := ownersOf k e.frame.src s.inConfigFault
          if owners.isEmpty then dropHead s
          else if !owners.contains b || e.taken.contains b then s
          else
            effect e.frame
              (if owners.all (fun o => (b :: e.taken).contains o) then dropHead s else markHead b s)

/-- A frame of a kind that the table of R175 does not list, or of a reply kind, is discarded: answered UNKNOWN_KIND or
counted (R175; log 5). Which block hands over the REFUSED that answers an unknown kind (R178), which has no owner, is
log 5 (DESIGN CHOICE): the start and configuration unit. -/
def takeUnowned (s : State) : State :=
  match s.link.buffer with
  | [] => s
  | e :: _ =>
    match (kindOfCode e.frame.kind).map familyOf with
    | none =>
      match verdict e.frame with
      | .refused c => refuse e.frame.src e.frame.kind c .startUnit (dropHead s)
      | _ => countMalformed (dropHead s)
    | some .reply => countMalformed (dropHead s)
    | some _ => s

end Sys2Proof.Machine
end

