-- ==== Sys2Proof/Machine/AccountFrames.lean ====
section
/-! DEFINITION. The account table's commands (chapter 3): PERMIT_EXPIRY, DRAW_ACCOUNT, ROSTER_SET, ROSTER_REMOVE,
PERMIT, ACCOUNT_READ. -/

namespace Sys2Proof.Machine

/-- PERMIT_EXPIRY (R85): the permit leaves the list, where it is still held and its expiry is reached. -/
def execPermitExpiry (machine : Nat) (product : Product) (s : State) (_ : Instant := ()) :
    Host.Outcome State Fault Refusal :=
  .next (whenPowered (fun s =>
    match s.accounts.findPermit machine product with
    | none => s
    | some q => if q.expiry = s.unit.seconds then removePermit machine product s else s) s)

/-- DRAW_ACCOUNT (R75, R76). -/
def execDrawAccount (s : State) : Host.Outcome State Fault Refusal :=
  .next (whenPowered (takeHead .accountTable [.draw] fun f s =>
    match drawBody f.body with
    | .sound d => takeDrawAccount f.src d s
    | _ => s) s)

/-- ROSTER_SET (R78 to R81). -/
def execRosterSet (s : State) : Host.Outcome State Fault Refusal :=
  .next (whenPowered (takeHead .accountTable [.rosterSet] fun f s =>
    match rosterSetBody f.body with
    | .sound b => takeRosterSet f b s
    | _ => s) s)

/-- ROSTER_REMOVE (R78, R82). -/
def execRosterRemove (s : State) : Host.Outcome State Fault Refusal :=
  .next (whenPowered (takeHead .accountTable [.rosterRemove] fun f s =>
    match rosterRemoveBody f.body with
    | .sound id => takeRosterRemove f id s
    | _ => s) s)

/-- PERMIT (R84). -/
def execPermit (s : State) : Host.Outcome State Fault Refusal :=
  .next (whenPowered (takeHead .accountTable [.permit] fun f s =>
    match permitBody f.body with
    | .sound b => takePermit f b s
    | _ => s) s)

/-- The record an ACCOUNT_READ selects: that of the id, or of the least id above it (R86). -/
def selectRecord (b : AccountReadBody) (a : Accounts) : Option MachineRecord :=
  if b.next then a.roster.find? fun r => decide (b.id < r.id) else a.find b.id

/-- A sound ACCOUNT_READ is answered (R86). -/
def takeAccountRead (f : Frame) (b : AccountReadBody) (s : State) : State :=
  match selectRecord b s.accounts with
  | none => refuse f.src f.kind .notFound .accountTable s
  | some r =>
    reply f.src .accountRep
      (if b.windows then accountWindows r else accountHead r s.accounts.roster.length) .accountTable .plain s

/-- ACCOUNT_READ (R86). -/
def execAccountRead (s : State) : Host.Outcome State Fault Refusal :=
  .next (whenPowered (takeHead .accountTable [.accountRead] fun f s =>
    match accountReadBody f.body with
    | .sound b => takeAccountRead f b s
    | _ => s) s)

end Sys2Proof.Machine
end

