-- ==== Sys2Proof/Machine/Deliveries.lean ====
section
/-! DEFINITION. The delivery controller's commands (chapter 2): NOZZLE_HOOK_CHANGE, TAG_FRAME with the claim,
CLAIM_TIMER_EXPIRY, TAG_GRACE_EXPIRY, NO_FLOW_TIMEOUT, LAMP_FLASH_TOGGLE, STOP_HOSE. -/

namespace Sys2Proof.Machine

/-! ## The hook (R28) -/

/-- A lift at a hose (R28); in CONFIG_FAULT no hose is in IDLE (R58). -/
def lift (h : HoseIx) (s : State) : State :=
  match (s.hoses.get h).state with
  | .idle => if s.inConfigFault then s else moveHose h .waiting s
  | _ => s

/-- A hang at a hose (R28); in CONFIG_FAULT it has no effect (R58). -/
def hang (h : HoseIx) (s : State) : State :=
  if s.inConfigFault then s
  else
    match (s.hoses.get h).state with
    | .waiting => moveHose h .idle s
    | .priming => endingRequest h .hung s
    | .flowing => endingRequest h .hung s
    | .trimming => endingRequest h .hung s
    | .done _ => moveHose h .idle s
    | .refused _ => moveHose h .idle s
    | .idle => s
    | .ending => s
    | .outOfService _ => s

/-- The first qualified level after a COLD or WARM start, neither a lift nor a hang (R28, R57; log 15). -/
def firstHook (h : HoseIx) (s : State) : State :=
  match (s.hoses.get h).state, (s.hoses.get h).hook with
  | .idle, some .offHook => if s.inConfigFault then s else moveHose h (.refused .notHung) s
  | _, _ => s

/-- A qualified level of the nozzle-hook switch (R28). -/
def takeHook (h : HoseIx) (level : Hook) (s : State) : State :=
  let x := s.hoses.get h
  let s1 := s.setHose h { x with hook := some level }
  match x.hook, level with
  | none, _ => firstHook h s1
  | some .onHook, .offHook => lift h s1
  | some .offHook, .onHook => hang h s1
  | some .onHook, .onHook => s
  | some .offHook, .offHook => s

/-- NOZZLE_HOOK_CHANGE (R28, R57): taken when the level has been held for 100 ms. -/
def execNozzleHookChange (h : HoseIx) (offHook : Bool) (heldMs : Nat) (s : State) : Host.Outcome State Fault Refusal :=
  .next (whenPowered (fun s =>
    if heldMs < Config.qualifyMs then s else takeHook h (if offHook then .offHook else .onHook) s) s)

/-! ## The claim (R31 to R38) -/

/-- A tag frame is valid (R29). -/
def tagValid (checkGood : Bool) (machine : Nat) (hours : Option Nat) : Bool :=
  checkGood && within 1 16777214 machine && hours.all (within 0 999999)

/-- A claim is refused: the hose enters REFUSED with the reason (R31). -/
def refuseClaim (h : HoseIx) (r : RefusalReason) (s : State) : State := moveHose h (.refused r) s

/-- The thresholds of a claim (R37, R38). -/
structure Thresholds where
  stopVolume : Nat
  trimVolume : Nat
  stopCount : Nat
  trimCount : Nat
  deriving DecidableEq, Repr

/-- S = A − O, R = S − T, floored at 0, and the least counts that reach them (R37, R38). -/
def thresholds (a o t k : Nat) : Thresholds :=
  ⟨a - o, a - o - t, stepsFor k (a - o), stepsFor k (a - o - t)⟩

/-- An accepted claim takes effect (R35): journal, permit, meter channel, live record, tag timer, PRIMING; a pump
already RUNNING lets the hose leave PRIMING at once (R39). -/
def acceptClaim (h : HoseIx) (machine : Nat) (hours : Option Nat) (service : Service) (limit : Nat)
    (flags : RecordFlags) (s : State) : State :=
  let c := s.hoseCfg h
  let s1 := s.setJournal { s.journal with reserved := s.journal.reserved + 1 }
  let s2 := match service with
    | .permit p => removePermit p.machine p.product s1
    | .record _ => s1
  let s3 := s2.setMeter h { s2.meters.get h with net := 0, creep := 0, phaseErrors := 0, quiet := 0 }
  let x := s3.hoses.get h
  let t := thresholds limit x.overrun c.trimAllowance c.meterK
  let l : Live := ⟨machine, hours, c.product, c.tank, flags, limit, x.overrun, t.stopVolume, t.trimVolume,
    t.stopCount, t.trimCount, none, none, s.unit.seconds⟩
  let s4 := moveHose h .priming (s3.setHose h { x with live := some l, tagTimer := some 0, meterMark := false })
  match s4.pumpOf c.tank with
  | some p => if (s4.pumps.get p).state = .running then exitPriming h s4 else s4
  | none => s4

/-- Checks 6 to 8 of a claim that passed check 5 (R31, R33, R34). -/
def claimStock (h : HoseIx) (machine : Nat) (hours : Option Nat) (service : Service) (priority : Bool)
    (allowance : Nat) (flags : RecordFlags) (s : State) : State :=
  let c := s.hoseCfg h
  match stockGate c.tank priority s with
  | .refused r => refuseClaim h r s
  | .given (term, blind) =>
    if (s.pumpOf c.tank).any (fun p => (s.pumps.get p).state == .faulted) then refuseClaim h .pumpFault s
    else
      let limit := min c.maxDelivery (min allowance term)
      if limit < 1000 then refuseClaim h .limitTooSmall s
      else acceptClaim h machine hours service limit { flags with blind := blind } s

/-- Checks 4 and 5 (R32, R63 to R66); the counts of check 5 stand whatever follows (R65). -/
def claimAccount (h : HoseIx) (machine : Nat) (hours : Option Nat) (s : State) : State :=
  let c := s.hoseCfg h
  match lookup s.accounts machine c.product with
  | .refused r => refuseClaim h r s
  | .given (.permit p) =>
    claimStock h machine hours (.permit p) false p.limit { noFlags with permit := true } s
  | .given (.record r) =>
    let o := hoursCheck s.cfg c r hours
    let s1 := putRecord o.record s
    match o.answer with
    | .refused e => refuseClaim h e s1
    | .given (allowance, flags) =>
      claimStock h machine hours (.record r) (decide (r.cls = .priority)) allowance flags s1

/-- A claim is decided by the ordered checks of R31. -/
def claim (h : HoseIx) (machine : Nat) (hours : Option Nat) (s : State) : State :=
  if s.link.join ≠ .joined ∧ s.link.join ≠ .isolated then refuseClaim h .notJoined s
  else if s.tripped then refuseClaim h .tripped s
  else if s.journal.full then refuseClaim h .journalFull s
  else claimAccount h machine hours s

/-- A tag frame for a live delivery restarts the tag timer when it is its machine's (R29). -/
def refreshTag (h : HoseIx) (machine : Nat) (s : State) : State :=
  let x := s.hoses.get h
  if (x.live.any fun l => l.machine == machine) then s.setHose h { x with tagTimer := some 0 } else s

/-- A valid tag frame acts by the hose state (R29). -/
def takeTag (h : HoseIx) (machine : Nat) (hours : Option Nat) (s : State) : State :=
  match (s.hoses.get h).state with
  | .waiting => claim h machine hours s
  | .priming => refreshTag h machine s
  | .flowing => refreshTag h machine s
  | .trimming => refreshTag h machine s
  | _ => s

/-- TAG_FRAME (R29, R31): an invalid frame is discarded. -/
def execTagFrame (h : HoseIx) (checkGood : Bool) (machine : Nat) (hours : Option Nat) (s : State) :
    Host.Outcome State Fault Refusal :=
  .next (whenPowered (fun s => if tagValid checkGood machine hours then takeTag h machine hours s else s) s)

/-! ## The hose's timers -/

/-- CLAIM_TIMER_EXPIRY (R30). -/
def execClaimTimerExpiry (h : HoseIx) (s : State) (_ : Instant := ()) : Host.Outcome State Fault Refusal :=
  .next (whenPowered (fun s =>
    let x := s.hoses.get h
    if x.state = .waiting ∧ ranOut x.claimTimer (secondsMs s.cfg.claimTime) then moveHose h (.refused .noTag) s
    else s) s)

/-- The tag timer is at the tag grace: FLOWING and TRIMMING end with TAG_LOST (R42). -/
def loseTag (h : HoseIx) (s : State) : State :=
  if (s.hoses.get h).state = .flowing ∨ (s.hoses.get h).state = .trimming then endingRequest h .tagLost s else s

/-- TAG_GRACE_EXPIRY (R42): FLOWING and TRIMMING end with TAG_LOST; in PRIMING the timer is weighed at the exit (R39). -/
def execTagGraceExpiry (h : HoseIx) (s : State) (_ : Instant := ()) : Host.Outcome State Fault Refusal :=
  .next (whenPowered (fun s =>
    if ranOut (s.hoses.get h).tagTimer (secondsMs s.cfg.tagGrace) then loseTag h s else s) s)

/-- NO_FLOW_TIMEOUT (R41). -/
def execNoFlowTimeout (h : HoseIx) (s : State) (_ : Instant := ()) : Host.Outcome State Fault Refusal :=
  .next (whenPowered (fun s =>
    if ranOut (s.hoses.get h).noFlow (secondsMs s.cfg.noFlowTime)
        ∧ ((s.hoses.get h).state = .flowing ∨ (s.hoses.get h).state = .trimming) then
      endingRequest h .noFlow s
    else s) s)

/-- LAMP_FLASH_TOGGLE (R26): the lamp of a hose in OUT_OF_SERVICE. -/
def execLampFlashToggle (h : HoseIx) (s : State) (_ : Instant := ()) : Host.Outcome State Fault Refusal :=
  .next (whenPowered (fun s =>
    let x := s.hoses.get h
    match x.state, ranOut x.flash Config.flashMs with
    | .outOfService _, true => s.setHose h { x with lamp := !x.lamp, flash := some 0 }
    | _, _ => s) s)

/-! ## Stopping from the office (R54) -/

/-- A sound STOP_HOSE is taken (R54). -/
def takeStopHose (f : Frame) (s : State) : State :=
  match stopHoseBody f.body with
  | .sound n =>
    match HoseIx.ofNumber n with
    | some h =>
      if runState (s.hoses.get h).state then endingRequest h .officeStop s
      else refuse f.src f.kind .notLive .deliveryController s
    | none => s
  | _ => s

/-- STOP_HOSE (R54, R175 to R178). -/
def execStopHose (s : State) : Host.Outcome State Fault Refusal :=
  .next (whenPowered (takeHead .deliveryController [.stopHose] takeStopHose) s)

end Sys2Proof.Machine
end

