-- ==== Sys2Proof/Machine/Driving.lean ====
section
/-! DEFINITION. The valve and pump drive's commands (1.2, 1.3): DRIVE_PERIOD_START, DUTY_ON_TIME_END,
VALVE_PROOF_CHANGE, ZERO_DUTY_SETTLE, FLOW_PAST_EXPIRY, PUMP_SETTLE_EXPIRY, PUMP_PROOF_CHANGE, MINIMUM_OFF_EXPIRY. -/

namespace Sys2Proof.Machine

/-- The time into the period in progress, none without one (R12). -/
def Valve.period (v : Valve) : Timer := if v.periodDuty = 0 then none else some v.periodTime

/-- A period begins with the applied duty, the output on; at duty 0 there are no periods (R12). -/
def startPeriod (h : HoseIx) (s : State) : State :=
  let v := s.valves.get h
  if v.duty = 0 then s else s.setValve h { v with periodDuty := v.duty, periodTime := 0, output := true }

/-- DRIVE_PERIOD_START (R12): the period in progress, where there is one, has come to its end. -/
def execDrivePeriodStart (h : HoseIx) (s : State) (_ : Instant := ()) : Host.Outcome State Fault Refusal :=
  .next (whenPowered (fun s =>
    let p := (s.valves.get h).period
    if p.isNone ∨ ranOut p (s.hoseCfg h).drivePeriodMs then startPeriod h s else s) s)

/-- The on-time of a duty in whole milliseconds, rounded up (R12). -/
def onTime (duty period : Nat) : Nat := (duty * period + 99) / 100

/-- DUTY_ON_TIME_END (R12): the output goes off until the period ends; at 100 % it stays on. -/
def execDutyOnTimeEnd (h : HoseIx) (s : State) (_ : Instant := ()) : Host.Outcome State Fault Refusal :=
  .next (whenPowered (fun s =>
    let v := s.valves.get h
    if v.periodDuty < 100 ∧ ranOut v.period (onTime v.periodDuty (s.hoseCfg h).drivePeriodMs) then
      s.setValve h { v with output := false }
    else s) s)

/-- A valve proof becomes CLOSED, which ends the condition of R15, or NOT_CLOSED, which may complete it (R14, R15). -/
def takeValveProof (h : HoseIx) (closed : Bool) (s : State) : State :=
  let v := s.valves.get h
  if v.closed = closed then s
  else if closed then s.setValve h { v with closed := true, stuckGiven := false }
  else checkStuck h (s.setValve h { v with closed := false })

/-- VALVE_PROOF_CHANGE (R14, R15): taken when the level has been held for 100 ms. -/
def execValveProofChange (h : HoseIx) (closed : Bool) (heldMs : Nat) (s : State) : Host.Outcome State Fault Refusal :=
  .next (whenPowered (fun s => if heldMs < Config.qualifyMs then s else takeValveProof h closed s) s)

/-- ZERO_DUTY_SETTLE (R15): the zero-duty time, which runs while the duty is 0, reaches the end-settle time. -/
def execZeroDutySettle (h : HoseIx) (s : State) (_ : Instant := ()) : Host.Outcome State Fault Refusal :=
  .next (whenPowered (fun s =>
    let v := s.valves.get h
    if v.duty = 0 ∧ ranOut (some v.zeroTime) (secondsMs s.cfg.endSettle) then checkStuck h s else s) s)

/-- FLOW_PAST_EXPIRY (R16, R47): a delivery still in ENDING closes and its hose goes OUT_OF_SERVICE. -/
def execFlowPastExpiry (h : HoseIx) (s : State) (_ : Instant := ()) : Host.Outcome State Fault Refusal :=
  .next (whenPowered (fun s =>
    if ranOut (s.valves.get h).flowPast (secondsMs s.cfg.endingLimit) ∧ (s.hoses.get h).state = .ending then
      stuckOut (closeRaw h false (some .valveStuck) (reasonOr (s.hoses.get h) .valve)) s
    else s) s)

/-- A pump enters RUNNING and tells the hoses of its tank (R21, R39). DESIGN CHOICE (log 14): the manual gives no order
among them; they are told in ascending order, each one's exit with an ending and a close at once before the next. -/
def runPump (p : PumpIx) (s : State) : State :=
  let s1 := s.setPump p { s.pumps.get p with state := .running, timer := none }
  (s1.hosesOf p).foldl (fun s h => exitPriming h s) s1

/-- PUMP_SETTLE_EXPIRY (R21): the qualified proof decides between RUNNING and FAULTED. -/
def execPumpSettleExpiry (p : PumpIx) (s : State) (_ : Instant := ()) : Host.Outcome State Fault Refusal :=
  .next (whenPowered (fun s =>
    let x := s.pumps.get p
    if x.state = .starting ∧ ranOut x.timer (secondsMs s.cfg.pumpSettle) then
      if x.proof then runPump p s else faultPump p s
    else s) s)

/-- PUMP_PROOF_CHANGE (R21): taken when held for 100 ms; its loss in RUNNING faults the pump. -/
def execPumpProofChange (p : PumpIx) (present : Bool) (heldMs : Nat) (s : State) : Host.Outcome State Fault Refusal :=
  .next (whenPowered (fun s =>
    if heldMs < Config.qualifyMs then s
    else
      let x := s.pumps.get p
      let s1 := s.setPump p { x with proof := present }
      if x.state = .running ∧ present = false then faultPump p s1 else s1) s)

/-- MINIMUM_OFF_EXPIRY (R22): STARTING with a run count and the zone NORMAL, else OFF. -/
def execMinimumOffExpiry (p : PumpIx) (s : State) (_ : Instant := ()) : Host.Outcome State Fault Refusal :=
  .next (whenPowered (fun s =>
    let x := s.pumps.get p
    if x.state = .cooldown ∧ ranOut x.timer (secondsMs s.cfg.pumpMinimumOff) then
      if 0 < s.runCount (s.cfg.pumpTanks.get p) ∧ s.tripped = false then startPump p s
      else s.setPump p { x with state := .off, timer := none }
    else s) s)

end Sys2Proof.Machine
end

