-- ==== Sys2Proof/Machine/JournalFrames.lean ====
section
/-! DEFINITION. The journal's commands (chapter 6): JOURNAL_READ and COLLECT. -/

namespace Sys2Proof.Machine

/-- A sound JOURNAL_READ starts a read with its first frame, or is refused with FULL while one is in progress (R148,
R149). -/
def takeJournalRead (f : Frame) (s : State) : State :=
  match journalReadBody f.body with
  | .sound (first, count) =>
    match s.journal.read with
    | some _ => refuse f.src f.kind .full .journal s
    | none => readNext (s.setJournal { s.journal with read := some ⟨f.src, first, count, false⟩ })
  | _ => s

/-- JOURNAL_READ (R148 to R150). -/
def execJournalRead (s : State) : Host.Outcome State Fault Refusal :=
  .next (whenPowered (takeHead .journal [.journalRead] takeJournalRead) s)

/-- A sound COLLECT marks and is answered with a JOURNAL_END apart from a read's frames (R146, R149). -/
def takeCollect (f : Frame) (s : State) : State :=
  match collectBody f.body with
  | .sound q =>
    let s1 := s.setJournal (s.journal.collect q)
    reply f.src .journalEnd (journalEndBody s1.journal) .journal .plain s1
  | _ => s

/-- COLLECT (R146, R150). -/
def execCollect (s : State) : Host.Outcome State Fault Refusal :=
  .next (whenPowered (takeHead .journal [.collect] takeCollect) s)

end Sys2Proof.Machine
end

