-- ==== Sys2Proof/Machine/Starting.lean ====
section
/-! DEFINITION. The starts of the station (chapter 10 and the start rules of each chapter): what each block's values
become, the order of a power-on and of a RESTART, and the loss of main power. -/

namespace Sys2Proof.Machine

/-! ## Loss of power (R203) -/

/-- A hose without power; its learned overrun is in the retention domain. -/
def unpoweredHose (overrun : Nat) : Hose := ⟨.idle, overrun, none, false, none, none, none, none, false, none⟩

/-- A meter channel at a start with its net count (R10), and without power. -/
def startMeter (net : Int) : Meter := ⟨none, none, net, 0, 0, 0, 0, 0, 0⟩

/-- A book at a start that keeps its value (R111), and in the retention domain without power. -/
def Book.atStart (b : Book) : Book :=
  { b with state := if b.value.isSome then .aged else .unknown, ageTimer := none }

/-- The deliveries the retention domain holds: each hose's live one with its net count, else the one already retained
outside the hose (R203). -/
def State.retainedAt (s : State) (h : HoseIx) : Option Retained :=
  match (s.hoses.get h).live with
  | some l => some ⟨l, (s.meters.get h).net⟩
  | none => s.retained.get h

/-- Main power is lost: the retention domain keeps the state of the last completed event, all else is lost (R203).
The recorded check value, roster, journal with counter and mark, learned overruns, books, live records with net
counts, latched causes and stamp counter are the domain (10.4); every hose's net count is held with them (R10, log
12). -/
def losePower (s : State) : State :=
  if s.unit.powered then
    { State.reset with
      unit := { State.reset.unit with recordedCheck := s.unit.recordedCheck }
      meters := s.meters.map fun m => startMeter m.net
      hoses := s.hoses.map fun x => unpoweredHose x.overrun
      retained := .ofIx s.retainedAt
      accounts := ⟨s.accounts.roster, [], false⟩
      books := s.books.map Book.atStart
      tripUnit := { State.reset.tripUnit with
        causes := s.tripUnit.causes, stampCounter := s.tripUnit.stampCounter }
      journal := { s.journal with reserved := 0, read := none }
      choices := s.choices
      pending := s.pending }
  else s

/-! ## The values blocks take at a start -/

/-- Local seconds count from 0 and no site time offset is held (R204, R205, R206). -/
def startTime (k : StartKind) (s : State) : State :=
  s.setUnit { s.unit with kind := some k, seconds := 0, millis := 0, siteOffset := none }

/-- The link unit's start values: queue and buffer emptied, receiver MUTED, counts 0, LISTEN with its join timer or
CONFIG_FAULT (R158, R174). The emptied queue ends a read and a pending restart (R149, R169, R205). -/
def startLink (fault : Bool) (s : State) : State :=
  { s with
    link := ⟨if fault then .configFault else .listen, if fault then none else some 0, none, [], [], .released, none,
      .muted, [], 0⟩
    counts := ⟨0, 0, 0, 0, 0, 0, 0, 0⟩
    journal := { s.journal with read := none } }

/-- The net count a hose starts with (R10): 0 at a COLD start, the retained delivery's at a WARM start; else it is held as
the last closed delivery's final count. -/
def startNet (k : StartKind) (s : State) (h : HoseIx) : Int :=
  match k with
  | .restart => (s.meters.get h).net
  | .cold => 0
  | .warm =>
    match s.retained.get h with
    | some r => r.net
    | none => (s.meters.get h).net

/-- A valve at a start (R17); its proof state is kept at a RESTART alone (R14). -/
def startValve (k : StartKind) (v : Valve) : Valve :=
  ⟨.shut, 0, 0, 0, false, 0, if k = .restart then v.closed else false, false, none⟩

/-- A pump at a start (R25); its proof state is kept at a RESTART alone (R21). -/
def startPumpValue (k : StartKind) (p : Pump) : Pump :=
  ⟨.cooldown, some 0, if k = .restart then p.proof else false⟩

/-- A hose's own items before its state is set (R57): the hook is kept at a RESTART alone (R28). -/
def startHose (k : StartKind) (x : Hose) : Hose :=
  { unpoweredHose x.overrun with hook := if k = .restart then x.hook else none }

/-- A probe channel at a start; a used one has its overfill flag set (R110, R112). The spec does not speak of a gate that is
open at a start, as one may be at a RESTART: the model closes it and its count is discarded (log 23, DESIGN CHOICE). -/
def startProbe (used : Bool) : Probe := ⟨.acquiring, [], used, none⟩

/-- The meter channels, valve drive, pumps, probe channels, account table, peer table and station timers take their
start values (R6, R10, R17, R25, R59, R81, R83, R103, R112, R188, R192). -/
def startBlocks (k : StartKind) (s : State) : State :=
  { s with
    creepTimer := 0
    meters := .ofIx fun h => startMeter (startNet k s h)
    valves := s.valves.map (startValve k)
    pumps := s.pumps.map (startPumpValue k)
    hoses := s.hoses.map (startHose k)
    accounts := { s.accounts with permits := [], rosterFull := false }
    probes := .ofIx fun c => startProbe (s.probeUsed c)
    gauging := ⟨0, false, none⟩
    peers := []
    beaconTimer := 0 }

/-- The books at a start that keeps them (R111). -/
def startBooks (s : State) : State := { s with books := s.books.map Book.atStart }

/-- The hose state a start gives (R57, R58). -/
def startState (fault : Bool) (hook : Option Hook) : HoseState :=
  if fault then .refused .config
  else
    match hook with
    | some .offHook => .refused .notHung
    | _ => .idle

/-- The hoses are set (R57, R58). -/
def startHoses (s : State) : State :=
  { s with hoses := s.hoses.map fun x => x.enter (startState s.inConfigFault x.hook) }

/-! ## The retention domain (R203) -/

/-- The retention domain at its COLD values, recording the image's check value when there is no fault (R49, R59, R111,
R134, R151, R203). -/
def coldDomain (s : State) : State :=
  { s with
    unit := { s.unit with
      recordedCheck := if s.unit.fault = .none then some (imageCheck s.unit.image) else none }
    hoses := .ofIx fun h => unpoweredHose (s.hoseCfg h).initialOverrun
    retained := .fill none
    accounts := ⟨[], [], false⟩
    books := .fill ⟨none, .unknown, 0, 0, [], none⟩
    tripUnit := { s.tripUnit with causes := noCauses, stampCounter := 0 }
    journal := ⟨[], 1, 0, 0, none⟩ }

/-- The number of deliveries retained (R151). -/
def State.retainedCount (s : State) : Nat := (HoseIx.all.filter fun h => (s.retained.get h).isSome).length

/-- A retained delivery closes at a WARM start (R57): with its own reason, or POWER_LOSS; it does not teach (R49). -/
def closeRetained (h : HoseIx) (s : State) : State :=
  match s.retained.get h with
  | none => s
  | some r =>
    handOff (closedOf h r.live r.net (r.live.endReason.getD .powerLoss) s) (s.setRetained h none)

/-- The first so many retained deliveries close, in ascending hose order (R204). -/
def closeRetainedFirst (s : State) : List HoseIx → Nat → State
  | [], _ => s
  | h :: hs, n =>
    if (s.retained.get h).isSome then
      match n with
      | 0 => s
      | n + 1 => closeRetainedFirst (closeRetained h s) hs n
    else closeRetainedFirst s hs n

/-- The trip unit's record at a power-on: POWER_UP with the retained causes, no origins, inputs unqualified; a retained
zone-wide cause begins a new episode, announced but for CONFIG_FAULT (R134, R136). -/
def startTrip (s : State) : State :=
  let t := s.tripUnit
  let base : TripUnit :=
    ⟨t.causes.put .powerUp true, t.stampCounter, none, false, [], .fill .unsettled, .unsettled, .unqualified, none⟩
  if t.causes.zoneWide.any then announce (s.setTripUnit base.beginEpisode) else s.setTripUnit base

/-! ## Power-on (R199 to R204) -/

/-- The straps and the image read, the fault reason set (R199 to R202). -/
def readConfiguration (strap : Nat) (image : List Byte) (s : State) : State :=
  s.setUnit
    ⟨true, strap, imageKept image, settingsOf (imageKept image), faultReason strap (imageKept image), none, 0, 0, none,
     s.unit.recordedCheck⟩

/-- The kind of start whose values the blocks take (R203): with no fault WARM when the domain is held and records the
image's check value, else COLD; in CONFIG_FAULT WARM when it is held, else COLD (log 28). -/
def startKind (held : Bool) (u : StartUnit) : StartKind :=
  if u.fault = .none then
    if held ∧ u.recordedCheck = some (imageCheck u.image) then .warm else .cold
  else if held then .warm else .cold

/-- The first two steps of a power-on (R204): the link unit, then the books and the other blocks, on the retention
domain as the kind of start leaves it. The journal reserves for the deliveries that will close (R151), none in
CONFIG_FAULT (R203). -/
def startFirstSteps (k : StartKind) (s : State) : State :=
  let fault : Bool := s.unit.fault != .none
  let s1 := startTime k (if k = .cold then coldDomain s else s)
  let s2 := startBlocks k (startBooks (startLink fault s1))
  s2.setJournal { s2.journal with reserved := if fault then 0 else s2.retainedCount }

/-- The third step: at a WARM start the retained deliveries close (R204), `n` of them at most. -/
def startCloses (n : Nat) (s : State) : State :=
  if s.unit.fault = .none then closeRetainedFirst s HoseIx.all n else s

/-- A start at power-on (R204), and a loss of power during its third step after so many closes. A power-on of a
station that has power loses it first (log 8). -/
def powerOn (strap : Nat) (image : List Byte) (held : Bool) (lostAfter : Option Nat) (s : State) : State :=
  let s1 := readConfiguration strap image (losePower s)
  let s2 := startFirstSteps (startKind held s1.unit) s1
  match lostAfter with
  | some n => losePower (startCloses n s2)
  | none => startHoses (startTrip (startCloses 6 s2))

/-! ## RESTART (R205) -/

/-- A live delivery closes at a RESTART (R56): with RESTART, or its first reason; it does not teach (R49). -/
def closeForRestart (h : HoseIx) (s : State) : State :=
  closeRaw h false none (reasonOr (s.hoses.get h) .restart) s

/-- The trip unit at a RESTART (R135): causes, counter, stamp, announced flag, inputs and keyswitch kept, origins
emptied; the TRIP of a current episode is handed over again. -/
def restartTrip (s : State) : State :=
  let s1 := s.setTripUnit { s.tripUnit with origins := [] }
  if s.tripUnit.causes.zoneWide.any then announce s1 else s1

/-- The restart is made (R205): books, closes in ascending hose order, link unit, the other blocks and hoses, TRIP. -/
def makeRestart (s : State) : State :=
  let s1 := startBooks (startTime .restart s)
  let s2 := HoseIx.all.foldl (fun s h => closeForRestart h s) s1
  let s3 := startBlocks .restart (startLink false s2)
  restartTrip (startHoses (s3.setJournal { s3.journal with reserved := 0 }))

end Sys2Proof.Machine
end

