-- ==== Sys2Proof/Machine/Line.lean ====
section
/-! DEFINITION. The link unit's commands on the line (chapter 7): CHARACTER_RECEIVED, CHARACTER_TIMEOUT,
ACCESS_GAP_REACHED, LEAD_TIME_END, ECHO_MISMATCH, FRAME_SENT, JOIN_TIMER_EXPIRY, ISOLATION_HOLD_EXPIRY. -/

namespace Sys2Proof.Machine

/-! ## The frame in transmission (R161 to R164) -/

/-- The characters of a queued frame as they are sent, each with its mark bit (R153). -/
def State.charactersOf (s : State) (e : TxEntry) : List (Byte × Bool) :=
  (BitVec.ofNat 8 e.dest, true)
    :: (checkedCharacters s.ownAddress e.kind e.body ++ beBytes 2 e.check).map fun c => (c, false)

/-- An entry is in transmission. -/
def TxEntry.onLine (e : TxEntry) : Bool := e.status == .inTransmission

/-- The entry in transmission (R164). -/
def Link.current (l : Link) : Option TxEntry := (l.reserved ++ l.ordinary).find? TxEntry.onLine

/-- The entry in transmission changed. -/
def Link.mapCurrent (l : Link) (f : TxEntry → TxEntry) : Link :=
  { l with
    ordinary := l.ordinary.map fun e => if e.onLine then f e else e
    reserved := l.reserved.map fun e => if e.onLine then f e else e }

/-- The entry in transmission leaves the queue (R163, R169). -/
def Link.dropCurrent (l : Link) : Link :=
  { l with
    ordinary := l.ordinary.filter fun e => !e.onLine
    reserved := l.reserved.filter fun e => !e.onLine }

/-- Attempts of a frame at most; a TRIP or CLEAR has no limit (R163). -/
def TxEntry.exhausted (e : TxEntry) : Bool := decide (8 ≤ e.attempt) && e.kind != .trip && e.kind != .clear

/-- The frame of a failed attempt: discarded and reported lost at its eighth, else kept for its next attempt (R162,
R163). -/
def failFrame (s : State) : State :=
  match s.link.current with
  | none => s
  | some e =>
    if e.exhausted then reportLost e.purpose (countDrop (s.setLink s.link.dropCurrent))
    else s.setLink (s.link.mapCurrent fun e => { e with attempt := e.attempt + 1, status := .started })

/-- The station enters ISOLATED: the isolation hold starts and the CURRENT books age (R163, R172, R100). -/
def enterIsolated (s : State) : State :=
  ageAllBooks (s.setLink { s.link with
    join := .isolated, isolationTimer := some 0, joinTimer := none, failures := 0 })

/-- Consecutive failed attempts that isolate a station (R163). -/
def failureLimit : Nat := 16

/-- The count of consecutive failures moves on (R163). -/
def countFailure (s : State) : State :=
  if s.link.failures + 1 < failureLimit then s.setLink { s.link with failures := s.link.failures + 1 }
  else
    match s.link.join with
    | .joined => enterIsolated s
    | _ => s.setLink { s.link with failures := 0 }

/-- An attempt fails: the driver is released, the collision counted, the frame kept or discarded (R162, R163). -/
def failAttempt (s : State) : State :=
  let s1 := (s.setLink { s.link with driver := .released }).setCounts
    { s.counts with collision := countUp s.counts.collision }
  countFailure (failFrame s1)

/-! ## Receiving (R154 to R157) -/

/-- One more framing error. -/
def countFraming (s : State) : State := s.setCounts { s.counts with framing := countUp s.counts.framing }

/-- The receiver's framing state replaced. -/
def setReceiver (r : Receiver) (s : State) : State := s.setLink { s.link with receiver := r }

/-- A character weighed as a head (R154). -/
def weighHead (data : Byte) (s : State) : State :=
  if data.toNat = 0 ∨ data.toNat = s.ownAddress then setReceiver (.assembling data.toNat []) s
  else setReceiver .muted s

/-- A partial frame is discarded and counted (R155). -/
def discardPartial (s : State) : State := setReceiver (.seeking false) (countFraming s)

/-- A sound frame joins the receive buffer, or is lost to a full one (R157). -/
def storeFrame (f : Frame) (s : State) : State :=
  if s.link.buffer.length < Config.receiveCapacity then
    s.setLink { s.link with buffer := s.link.buffer ++ [⟨f, []⟩] }
  else s.setCounts { s.counts with overrun := countUp s.counts.overrun }

/-- A complete frame is weighed: its check, its source, then the buffer (R156, R157). -/
def completeFrame (dest : Nat) (cs : List Byte) (s : State) : State :=
  let n := field cs 2 1
  let src := field cs 0 1
  let s1 := setReceiver (.seeking false) s
  if checkCode (cs.take (3 + n)) ≠ field cs (3 + n) 2 then
    s1.setCounts { s1.counts with check := countUp s1.counts.check }
  else if within 1 63 src = false ∨ src = s.ownAddress then countMalformed s1
  else storeFrame ⟨dest, src, field cs 1 1, (cs.drop 3).take n⟩ s1

/-- An unmarked good character in ASSEMBLING (R155): a length above 64 discards; the second check character
completes. -/
def assemble (dest : Nat) (cs : List Byte) (s : State) : State :=
  if 3 ≤ cs.length ∧ 64 < field cs 2 1 then discardPartial s
  else if 3 ≤ cs.length ∧ 5 + field cs 2 1 ≤ cs.length then completeFrame dest cs s
  else setReceiver (.assembling dest cs) s

/-- The receiver takes a character (R154, R155; a marked mis-framed one is no head, log 19). -/
def receive (data : Byte) (marked stopGood : Bool) (s : State) : State :=
  let isHead : Bool := marked && stopGood
  match s.link.receiver with
  | .muted => if isHead then weighHead data s else s
  | .seeking counted =>
    if isHead then weighHead data s
    else if counted then s
    else setReceiver (.seeking true) (countFraming s)
  | .assembling dest cs =>
    if isHead then weighHead data (discardPartial s)
    else if marked || !stopGood then discardPartial s
    else assemble dest (cs ++ [data]) s

/-- A character of the station's own frame is compared with the one sent (R162). -/
def compareEcho (matched : Nat) (data : Byte) (marked stopGood : Bool) (s : State) : State :=
  match s.link.current with
  | none => s
  | some e =>
    let cs := s.charactersOf e
    if stopGood ∧ cs[matched]? = some (data, marked) then
      s.setLink { s.link with
        driver := if cs.length ≤ matched + 1 then .tail else .sending (matched + 1) }
    else failAttempt s

/-- A character is heard: the silence of the line ends (R158), and it is compared with what the station sends or
taken by the receiver (R154 to R157, R162; log 18). -/
def hearCharacter (data : Byte) (marked stopGood : Bool) (s : State) : State :=
  let s1 := s.setLink { s.link with silence := none }
  match s.link.driver with
  | .sending matched => compareEcho matched data marked stopGood s1
  | .released => receive data marked stopGood s1
  | .lead => receive data marked stopGood s1
  | .tail => receive data marked stopGood s1

/-- CHARACTER_RECEIVED (R152 to R157, R162). -/
def execCharacterReceived (data : Byte) (marked stopGood : Bool) (s : State) : Host.Outcome State Fault Refusal :=
  .next (whenPowered (hearCharacter data marked stopGood) s)

/-- Silent character times that end a partial frame (R155). -/
def frameTimeout : Nat := 3

/-- The line has stood silent for so many character times more than the state shows: a partial frame is discarded once
three have passed since its last character. A head that was taken first has ended the silence, so its frame stays
(R155, R158; log 17). -/
def loseFrame (waited : Nat) (s : State) : State :=
  let n := s.link.silence.getD 0 + waited
  match s.link.receiver with
  | .assembling _ _ =>
    if frameTimeout ≤ n then discardPartial (s.setLink { s.link with silence := some n }) else s
  | .seeking _ => s
  | .muted => s

/-- CHARACTER_TIMEOUT (R155). -/
def execCharacterTimeout (s : State) (waited : Nat := 0) : Host.Outcome State Fault Refusal :=
  .next (whenPowered (loseFrame waited) s)

/-! ## Taking the line (R159 to R161) -/

/-- The backoff of an attempt number (R160). -/
def backoff (address attempt : Nat) : Nat := if attempt ≤ 1 then 0 else (address * 5 + attempt * 3) % 16

/-- The access gap of a frame: 3, its class's gap and its backoff, in character times (R159, R160). -/
def accessGap (address : Nat) (e : TxEntry) : Nat := 3 + 2 * accessClass e.kind + backoff address e.attempt

/-- The oldest entry of the lowest class of a list in order of age (R165). -/
def firstByClass : List TxEntry → Option TxEntry
  | [] => none
  | e :: es =>
    match firstByClass es with
    | none => some e
    | some q => if accessClass e.kind ≤ accessClass q.kind then some e else some q

/-- The first entry of the queue in sending order: TRIP and CLEAR, of class 0, before the rest (R165). -/
def Link.first (l : Link) : Option TxEntry :=
  match firstByClass l.reserved with
  | some e => some e
  | none => firstByClass l.ordinary

/-- The first entry that a test finds goes into transmission. -/
def markFirst (e : TxEntry) : List TxEntry → List TxEntry
  | [] => []
  | q :: qs => if q = e then { q with status := .inTransmission } :: qs else q :: markFirst e qs

/-- The queue with its first entry in sending order in transmission (R164). -/
def Link.attempt (l : Link) : Link :=
  match firstByClass l.reserved with
  | some e => { l with driver := .lead, reserved := markFirst e l.reserved }
  | none =>
    match firstByClass l.ordinary with
    | some e => { l with driver := .lead, ordinary := markFirst e l.ordinary }
    | none => l

/-- The station may drive the line (R161, R173). -/
def State.mayDrive (s : State) : Bool :=
  match s.link.join with
  | .joined => true
  | .configFault => strapValid s.unit.strap
  | .listen => false
  | .isolated => false

/-- The first frame in sending order may go on a line that has been silent for so long (R159, R161, R165). -/
def State.attemptAt (s : State) (silence : Nat) : Bool :=
  match s.link.driver, s.link.first with
  | .released, some e => s.mayDrive && decide (accessGap s.ownAddress e ≤ silence)
  | _, _ => false

/-- The silence at which an attempt is to begin at once: the silence held has passed the access gap of the first frame
(R159: a frame that joined meanwhile; R171: the station has just joined). -/
def State.attemptDue (s : State) : Option Nat := s.link.silence.filter s.attemptAt

/-- The silence of the line has reached so many character times: the first frame's attempt begins when that reaches
its access gap (R159, R161, R165). -/
def reachGap (silence : Nat) (s : State) : State :=
  let n := max silence (s.link.silence.getD 0)
  let s1 := s.setLink { s.link with silence := some n }
  if s.attemptAt n then s1.setLink s1.link.attempt else s1

/-- ACCESS_GAP_REACHED (R159). -/
def execAccessGapReached (silence : Nat) (s : State) : Host.Outcome State Fault Refusal :=
  .next (whenPowered (reachGap silence) s)

/-- LEAD_TIME_END (R161): the frame's characters begin, and with them the line is busy (R158). -/
def execLeadTimeEnd (s : State) : Host.Outcome State Fault Refusal :=
  .next (whenPowered (fun s =>
    match s.link.driver with
    | .lead => s.setLink { s.link with driver := .sending 0, silence := none }
    | _ => s) s)

/-- ECHO_MISMATCH (R162, R163). -/
def execEchoMismatch (s : State) : Host.Outcome State Fault Refusal :=
  .next (whenPowered (fun s =>
    match s.link.driver with
    | .sending _ => failAttempt s
    | _ => s) s)

/-- The owner of a sent frame is told (R169): the journal's read goes on (R149), a restart whose reply this was is made
(R183, R205). -/
def tellSent (p : Purpose) (s : State) : State :=
  match p with
  | .plain => s
  | .readFrame => readSent s
  | .restartReply => makeRestart s

/-- The frame in transmission is sent: its entry leaves the queue at the release of the driver (R163, R169). -/
def finishFrame (s : State) : State :=
  match s.link.current with
  | none => s.setLink { s.link with driver := .released }
  | some e =>
    tellSent e.purpose (s.setLink { s.link.dropCurrent with driver := .released, failures := 0 })

/-- FRAME_SENT (R161, R169): the end of the tail, which follows the last matching echo. -/
def execFrameSent (s : State) : Host.Outcome State Fault Refusal :=
  .next (whenPowered (fun s =>
    match s.link.driver with
    | .tail => finishFrame s
    | .sending _ => s
    | .released => s
    | .lead => s) s)

/-! ## Join states (R171, R172) -/

/-- JOIN_TIMER_EXPIRY (R171). -/
def execJoinTimerExpiry (s : State) (_ : Instant := ()) : Host.Outcome State Fault Refusal :=
  .next (whenPowered (fun s =>
    if s.link.join = .listen ∧ ranOut s.link.joinTimer (secondsMs s.cfg.joinTime) then
      s.setLink { s.link with join := .joined, joinTimer := none }
    else s) s)

/-- ISOLATION_HOLD_EXPIRY (R172, R171). -/
def execIsolationHoldExpiry (s : State) (_ : Instant := ()) : Host.Outcome State Fault Refusal :=
  .next (whenPowered (fun s =>
    if s.link.join = .isolated ∧ ranOut s.link.isolationTimer (secondsMs s.cfg.isolationHold) then
      s.setLink { s.link with join := .listen, joinTimer := some 0, isolationTimer := none }
    else s) s)

end Sys2Proof.Machine
end

