-- ==== Sys2Proof/Machine/Metering.lean ====
section
/-! DEFINITION. The meter unit's commands (1.1): QUALIFIED_PHASE_CHANGE, CREEP_WINDOW_EXPIRY, RATE_WINDOW_EXPIRY,
METER_SETTLED. -/

namespace Sys2Proof.Machine

/-- A phase input's qualified level after a level held so long: taken when held for the minimum phase width (R1). -/
def qualifyLevel (old : Option Bool) (level : Bool) (heldUs widthUs : Nat) : Option Bool :=
  if widthUs ≤ heldUs then some level else old

/-- The phase position of two levels, numbered in forward order from low-low (R2). -/
def phasePosition (a b : Bool) : Nat :=
  match a, b with
  | false, false => 0
  | true, false => 1
  | true, true => 2
  | false, true => 3

/-- How a move of the phase position is judged (R2). -/
inductive PhaseMove where
  | none | forward | reverse | invalid
  deriving DecidableEq, Repr

/-- The judgement of R2: next position, previous position, opposite position. -/
def judgeMove (old new : Nat) : PhaseMove :=
  match (new + 4 - old) % 4 with
  | 1 => .forward
  | 2 => .invalid
  | 3 => .reverse
  | _ => .none

/-- A qualified change restarts the channel's quiet timer (R5) and a running no-flow timer (R41). -/
def seeMotion (h : HoseIx) (s : State) : State :=
  let x := s.hoses.get h
  (restartQuiet h s).setHose h { x with noFlow := x.noFlow.map fun _ => 0 }

/-- The threshold comparison and the dead-level watch that follow a step of a live delivery (R40, R92). Where one step
brings both the PRESET end and the watch, which is taken first is free (log 13). -/
def afterLiveStep (h : HoseIx) (s : State) : State :=
  let x := s.hoses.get h
  match x.live with
  | none => s
  | some l =>
    let net := (s.meters.get h).net
    let moving : Bool := x.state == .flowing || x.state == .trimming
    if moving && decide ((l.stopCount : Int) ≤ net) then
      if s.stockGone l.tank then
        let r := if Config.stockWatchFirst s.choices then EndReason.stock else .preset
        deadLevelWatch l.tank (endingRequest h r { s with choices := s.choices + 1 })
      else deadLevelWatch l.tank (endingRequest h .preset s)
    else if x.state = .flowing ∧ (l.trimCount : Int) ≤ net then deadLevelWatch l.tank (moveHose h .trimming s)
    else deadLevelWatch l.tank s

/-- The creep accumulator after a step without a live delivery (R3). -/
def creepAfter (creep : Nat) (forward : Bool) : Nat :=
  if forward then min (creep + 1) 4294967295 else creep - 1

/-- A step without a live delivery: the creep accumulator and, at a forward step, the CREEP test (R3, R6, R202). -/
def creepStep (h : HoseIx) (forward : Bool) (s : State) : State :=
  let m := s.meters.get h
  let creep := creepAfter m.creep forward
  let s1 := s.setMeter h { m with creep := creep }
  if forward && s.cfg.creepUsable && decide (s.cfg.creepLimit ≤ volume (s.hoseCfg h).meterK creep) then
    raise .creep s1
  else s1

/-- A forward or reverse step: the window count, and the net count or the creep accumulator (R3, R7). -/
def takeStep (h : HoseIx) (forward : Bool) (s : State) : State :=
  let d : Int := if forward then 1 else -1
  let m := s.meters.get h
  let s1 := s.setMeter h { m with window := m.window + d }
  if liveState (s.hoses.get h).state then
    let m1 := s1.meters.get h
    afterLiveStep h (s1.setMeter h { m1 with net := clampNet (m1.net + d) })
  else creepStep h forward s1

/-- An invalid transition: the phase error count, and a meter fault once as it passes the limit (R2, R4). -/
def takeInvalid (h : HoseIx) (s : State) : State :=
  let m := s.meters.get h
  let n := countUp m.phaseErrors
  let s1 := s.setMeter h { m with phaseErrors := n }
  let limit := (s.hoseCfg h).phaseErrorLimit
  if m.phaseErrors ≤ limit ∧ limit < n then meterFault h s1 else s1

/-- A qualified change judged (R2). -/
def takeMove (h : HoseIx) (move : PhaseMove) (s : State) : State :=
  match move with
  | .none => s
  | .forward => takeStep h true (seeMotion h s)
  | .reverse => takeStep h false (seeMotion h s)
  | .invalid => takeInvalid h (seeMotion h s)

/-- The levels the phase inputs present, with the time each has been held (R1, R2); the first position after a start
is no move (R10); an unused channel takes no change (R202). -/
def phaseChange (h : HoseIx) (levelA : Bool) (heldA : Nat) (levelB : Bool) (heldB : Nat) (s : State) : State :=
  let c := s.hoseCfg h
  if c.meterUsable = false then s
  else
    let m := s.meters.get h
    let a := qualifyLevel m.levelA levelA heldA c.phaseWidthUs
    let b := qualifyLevel m.levelB levelB heldB c.phaseWidthUs
    let s1 := s.setMeter h { m with levelA := a, levelB := b }
    match m.levelA, m.levelB, a, b with
    | some a0, some b0, some a1, some b1 => takeMove h (judgeMove (phasePosition a0 b0) (phasePosition a1 b1)) s1
    | _, _, _, _ => s1

/-- QUALIFIED_PHASE_CHANGE (R1 to R6, R40, R41, R92). -/
def execQualifiedPhaseChange (h : HoseIx) (levelA : Bool) (heldA : Nat) (levelB : Bool) (heldB : Nat) (s : State) :
    Host.Outcome State Fault Refusal :=
  .next (whenPowered (phaseChange h levelA heldA levelB heldB) s)

/-- Every creep accumulator cleared to 0 (R6, R130). -/
def clearCreep (s : State) : State := { s with meters := s.meters.map fun m => { m with creep := 0 } }

/-- CREEP_WINDOW_EXPIRY (R6). -/
def execCreepWindowExpiry (s : State) (_ : Instant := ()) : Host.Outcome State Fault Refusal :=
  .next (whenPowered (fun s =>
    if ranOut (some s.creepTimer) (secondsMs s.cfg.creepWindow) then clearCreep { s with creepTimer := 0 }
    else s) s)

/-- A rate above 125 % of the hose maximum flow (R8, R118). -/
def overspeed (c : HoseSetting) (rate : Nat) : Bool := decide (125 * c.maxFlow < 100 * rate)

/-- A channel's rate window expires (R7). -/
def closeRateWindow (h : HoseIx) (s : State) : State :=
  let m := s.meters.get h
  s.setMeter h { m with
    rate := if 0 < m.window then volume (s.hoseCfg h).meterK m.window else 0
    window := 0
    rateTimer := 0 }

/-- A rate window closes and its rate is tested in FLOWING (R7, R8). -/
def takeRate (h : HoseIx) (s : State) : State :=
  let s1 := closeRateWindow h s
  if (s1.hoses.get h).state = .flowing ∧ overspeed (s1.hoseCfg h) (s1.meters.get h).rate then raise .hoseBreak s1
  else s1

/-- RATE_WINDOW_EXPIRY (R7, R8). -/
def execRateWindowExpiry (h : HoseIx) (s : State) (_ : Instant := ()) : Host.Outcome State Fault Refusal :=
  .next (whenPowered (fun s =>
    if ranOut (some (s.meters.get h).rateTimer) Config.rateWindowMs then takeRate h s else s) s)

/-- The quiet time has reached the end-settle time: the flow-past timer stops (R16). -/
def stopFlowPast (h : HoseIx) (s : State) : State := s.setValve h { s.valves.get h with flowPast := none }

/-- METER_SETTLED (R45, R16): the quiet time has reached the end-settle time, and a delivery in ENDING closes. A meter
whose quiet time has restarted at the same instant is not settled (R5). -/
def execMeterSettled (h : HoseIx) (s : State) (_ : Instant := ()) : Host.Outcome State Fault Refusal :=
  .next (whenPowered (fun s =>
    if ranOut (some (s.meters.get h).quiet) (secondsMs s.cfg.endSettle) then closeSettled h (stopFlowPast h s) else s) s)

end Sys2Proof.Machine
end

