-- ==== Sys2Proof/Machine/Office.lean ====
section
/-! DEFINITION. The start and configuration unit's frames (8.3, 8.4, R183, R184) and frames without an owner:
STATUS_REQ, IDENT_REQ, RESTART, TIME, UNKNOWN_KIND_FRAME. -/

namespace Sys2Proof.Machine

/-- The eight counts at 0 (R181). -/
def clearCounts (s : State) : State := s.setCounts ⟨0, 0, 0, 0, 0, 0, 0, 0⟩

/-- A sound STATUS_REQ is answered for its part; the counts are cleared at the instant the reply is built, before
anything its hand-over counts (R180, R181). -/
def takeStatusReq (f : Frame) (s : State) : State :=
  match statusReqBody f.body with
  | .sound (part, clear) =>
    reply f.src .statusRep (s.statusBody part) .startUnit .plain (if clear then clearCounts s else s)
  | _ => s

/-- STATUS_REQ (R180, R181). -/
def execStatusReq (s : State) : Host.Outcome State Fault Refusal :=
  .next (whenPowered (takeHead .startUnit [.statusReq] takeStatusReq) s)

/-- IDENT_REQ (R182). -/
def execIdentReq (s : State) : Host.Outcome State Fault Refusal :=
  .next (whenPowered (takeHead .startUnit [.identReq] fun f s =>
    reply f.src .identRep s.identBody .startUnit .plain s) s)

/-- RESTART (R183): answered with an IDENT_REP at whose sending the restart is made (R205). -/
def execRestart (s : State) : Host.Outcome State Fault Refusal :=
  .next (whenPowered (takeHead .startUnit [.restart] fun f s =>
    reply f.src .identRep s.identBody .startUnit .restartReply s) s)

/-- The site time offset that makes site time `v` now (R184). -/
def offsetFor (v seconds : Nat) : Nat := (v + 4294967296 - seconds % 4294967296) % 4294967296

/-- A sound TIME sets the site time offset (R184). -/
def takeTime (f : Frame) (s : State) : State :=
  match timeBody f.body with
  | .sound v => s.setUnit { s.unit with siteOffset := some (offsetFor v s.unit.seconds) }
  | _ => s

/-- TIME (R184). -/
def execTime (s : State) : Host.Outcome State Fault Refusal :=
  .next (whenPowered (takeHead .startUnit [.time] takeTime) s)

/-- UNKNOWN_KIND_FRAME (R175; log 5). -/
def execUnknownKindFrame (s : State) : Host.Outcome State Fault Refusal := .next (whenPowered takeUnowned s)

end Sys2Proof.Machine
end

