-- ==== Sys2Proof/Machine/Peers.lean ====
section
/-! DEFINITION. The peer table's commands (chapter 9): PEER_TABLE_UPDATE, PEER_QUIET_EXPIRY, PEER_LOST_EXPIRY,
BEACON_TIMER_EXPIRY. -/

namespace Sys2Proof.Machine

/-! ## The table (R192, R193, R195) -/

/-- What a frame tells of its sender beside its liveness: the interval and tanks of a BEACON (R193). -/
def beaconNews (f : Frame) : Option BeaconBody :=
  if kindOfCode f.kind = some .beacon then
    match beaconBody f.body with
    | .sound b => some b
    | _ => none
  else none

/-- An entry at a sound frame from its peer (R193): HEARD now, timers restarted, a BEACON's interval and list taken. -/
def Peer.hear (p : Peer) (now : Nat) (news : Option BeaconBody) : Peer :=
  { p with
    lastHeard := now
    state := .heard
    quietTimer := some 0
    lostTimer := some 0
    interval := match news with
      | some b => b.interval
      | none => p.interval
    tanks := match news with
      | some b => b.tanks
      | none => p.tanks }

/-- A new entry before its first frame is taken into it (R193). -/
def newPeer (address ownInterval : Nat) : Peer := ⟨address, ownInterval, 0, .heard, [], none, none⟩

/-- An entry put in at the place its address gives (R192). -/
def insertPeer (p : Peer) : List Peer → List Peer
  | [] => [p]
  | q :: qs => if p.address < q.address then p :: q :: qs else q :: insertPeer p qs

/-- The LOST entry with the earliest last heard, the lower address where two have the same (R195); the table is in
ascending order of address. DESIGN CHOICE (log 33): the earliest is the least number of local seconds, also where these have
passed from 4,294,967,295 to 0 between two frames. -/
def oldestLost : List Peer → Option Peer
  | [] => none
  | p :: ps =>
    match p.state, oldestLost ps with
    | .lost, some q => if p.lastHeard ≤ q.lastHeard then some p else some q
    | .lost, none => some p
    | _, r => r

/-- The entry of an address changed, the others and the order kept. -/
def updatePeer (address : Nat) (f : Peer → Peer) (ps : List Peer) : List Peer :=
  ps.map fun p => if p.address = address then f p else p

/-- The entries without that of an address. -/
def removePeer (address : Nat) (ps : List Peer) : List Peer := ps.filter fun p => p.address != address

/-- One more frame from an address that found no place (R195). -/
def countPeerFull (s : State) : State := s.setCounts { s.counts with peerFull := countUp s.counts.peerFull }

/-- The peer table is told of a sound frame (R193, R195). -/
def hearPeer (f : Frame) (s : State) : State :=
  let now := s.unit.seconds
  let news := beaconNews f
  if s.peers.any (fun p => p.address == f.src) then
    s.setPeers (updatePeer f.src (fun p => p.hear now news) s.peers)
  else
    let fresh := (newPeer f.src s.cfg.beaconInterval).hear now news
    if s.peers.length < Config.peerCapacity then s.setPeers (insertPeer fresh s.peers)
    else
      match oldestLost s.peers with
      | some q => s.setPeers (insertPeer fresh (removePeer q.address s.peers))
      | none => countPeerFull s

/-- PEER_TABLE_UPDATE (R193, R176): the reports of stations. -/
def execPeerTableUpdate (s : State) : Host.Outcome State Fault Refusal :=
  .next (whenPowered (takeHead .peerTable [.beacon, .trip, .clear, .draw, .level] hearPeer) s)

/-! ## Liveness (R194, R196) -/

/-- The QUIET timer of an entry comes before its LOST timer (R194). -/
def quietComes (p : Peer) (lostTimeout : Nat) : Bool := decide (2 * p.interval < lostTimeout)

/-- An entry at the expiry of its QUIET timer (R194). -/
def Peer.quiet (p : Peer) (lostTimeout : Nat) : Peer :=
  if p.state = .heard ∧ ranOut p.quietTimer (secondsMs (2 * p.interval)) ∧ quietComes p lostTimeout then
    { p with state := .quiet, quietTimer := none }
  else p

/-- PEER_QUIET_EXPIRY (R194): nothing is handed to the tank book unit. After a frame that restarted the timers at the
same instant it does not happen. -/
def execPeerQuietExpiry (address : Nat) (s : State) (_ : Instant := ()) : Host.Outcome State Fault Refusal :=
  .next (whenPowered (fun s =>
    s.setPeers (updatePeer address (fun p => p.quiet s.cfg.lostTimeout) s.peers)) s)

/-- The entry of an address (R192). -/
def State.peer (s : State) (address : Nat) : Option Peer := s.peers.find? fun p => p.address == address

/-- An entry at its move to LOST (R194). -/
def Peer.lose (p : Peer) : Peer := { p with state := .lost, quietTimer := none, lostTimer := none }

/-- PEER_LOST_EXPIRY (R194, R196): the tanks of the list are handed to the tank book unit. After a frame that restarted
the timers at the same instant it does not happen. -/
def execPeerLostExpiry (address : Nat) (s : State) (_ : Instant := ()) : Host.Outcome State Fault Refusal :=
  .next (whenPowered (fun s =>
    match s.peer address with
    | none => s
    | some p =>
      if ranOut p.lostTimer (secondsMs s.cfg.lostTimeout) then
        ageLostTanks p.tanks (s.setPeers (updatePeer address Peer.lose s.peers))
      else s) s)

/-! ## The station's beacon (R188 to R190) -/

/-- A BEACON is built at an expiry now, of this zone: in JOINED, or in CONFIG_FAULT with a valid strap address and an
image that gives a zone (R188, R190). -/
def State.beaconZone (s : State) : Option Nat :=
  match s.link.join with
  | .joined => some (s.cfg.zone.getD 0)
  | .configFault => if strapValid s.unit.strap then s.cfg.zone else none
  | .listen => none
  | .isolated => none

/-- The beacon timer restarts, and a BEACON is handed over where one is built (R188 to R190). -/
def sendBeacon (s : State) : State :=
  let s1 := { s with beaconTimer := 0 }
  match s.beaconZone with
  | none => s1
  | some z => handOver ⟨0, .beacon, s.beaconBytes z, .peerTable, .plain⟩ s1

/-- BEACON_TIMER_EXPIRY (R188 to R190): the timer restarts at each expiry. -/
def execBeaconTimerExpiry (s : State) (_ : Instant := ()) : Host.Outcome State Fault Refusal :=
  .next (whenPowered (fun s =>
    if ranOut (some s.beaconTimer) (secondsMs s.cfg.beaconInterval) then sendBeacon s else s) s)

end Sys2Proof.Machine
end

