-- ==== Sys2Proof/Machine/Power.lean ====
section
/-! DEFINITION. The power commands (chapter 10): POWER_ON and MAIN_POWER_LOSS. -/

namespace Sys2Proof.Machine

/-- POWER_ON (R199 to R204). -/
def execPowerOn (strap : Nat) (image : List Byte) (domainHeld : Bool) (lostAfter : Option Nat) (s : State) :
    Host.Outcome State Fault Refusal :=
  .next (powerOn strap image domainHeld lostAfter s)

/-- MAIN_POWER_LOSS (R203). -/
def execMainPowerLoss (s : State) : Host.Outcome State Fault Refusal := .next (losePower s)

end Sys2Proof.Machine
end

