-- ==== Sys2Proof/Machine/Spill.lean ====
section
/-! DEFINITION. The trip unit's commands (chapter 5): SPILL_INPUT_CONFIRM, EMERGENCY_STOP, TRIP_RESET_KEY, KEY_RELEASE,
OVERRIDE_HOLD_EXPIRY, TRIP, CLEAR, BEACON. -/

namespace Sys2Proof.Machine

/-! ## Inputs (R115 to R117) -/

/-- The confirmed state a level gives by the input's active sense (R115). -/
def confirmed (senseOpen contactClosed : Bool) : SpillState := if contactClosed != senseOpen then .alarm else .atRest

/-- The cause of an input's function (R116). -/
def causeOfFunction : SpillFunction → Option Cause
  | .none => none
  | .sump => some .sump
  | .vapour => some .vapour

/-- A level is confirmed; an entry to ALARM raises the cause of the function, and an input of function NONE is not
watched (R115, R116). -/
def confirmInput (i : InputIx) (contactClosed : Bool) (s : State) : State :=
  let c := s.cfg.spill.get i
  let old := s.tripUnit.inputs.get i
  let new := confirmed c.senseOpen contactClosed
  match causeOfFunction c.function with
  | none => s
  | some cause =>
    let s1 := s.setTripUnit { s.tripUnit with inputs := s.tripUnit.inputs.set i new }
    if new = .alarm ∧ old ≠ .alarm then raise cause s1 else s1

/-- The spill confirmation time in ms; the setting is in tenths of a second (R115, R200). -/
def Settings.confirmMs (c : Settings) : Nat := c.spillConfirm * 100

/-- SPILL_INPUT_CONFIRM (R115, R116): taken when the level has been held for the confirmation time. -/
def execSpillInputConfirm (i : InputIx) (contactClosed : Bool) (heldMs : Nat) (s : State) :
    Host.Outcome State Fault Refusal :=
  .next (whenPowered (fun s => if heldMs < s.cfg.confirmMs then s else confirmInput i contactClosed s) s)

/-- The button's level is qualified; each change to PRESSED raises ESTOP, a first level of PRESSED too (R117). -/
def takeButton (pressed : Bool) (s : State) : State :=
  let new : Button := if pressed then .pressed else .released
  let s1 := s.setTripUnit { s.tripUnit with button := new }
  if s.tripUnit.button ≠ .pressed ∧ pressed then raise .estop s1 else s1

/-- EMERGENCY_STOP (R117): taken when the level has been held for 100 ms. -/
def execEmergencyStop (pressed : Bool) (heldMs : Nat) (s : State) : Host.Outcome State Fault Refusal :=
  .next (whenPowered (fun s => if heldMs < Config.qualifyMs then s else takeButton pressed s) s)

/-! ## The key operation (R129 to R131) -/

/-- One hose at a key operation (R53): it leaves OUT_OF_SERVICE with its proof CLOSED and its meter quiet for the
end-settle time, its phase error count cleared. -/
def returnToService (h : HoseIx) (s : State) : State :=
  match (s.hoses.get h).state with
  | .outOfService _ =>
    if (s.valves.get h).closed ∧ s.quietForSettle h then
      moveHose h (startState s.inConfigFault (s.hoses.get h).hook)
        (s.setMeter h { s.meters.get h with phaseErrors := 0 })
    else s
  | _ => s

/-- One pump at a key operation (R24). -/
def resetPump (p : PumpIx) (s : State) : State := if (s.pumps.get p).state = .faulted then coolPump p s else s

/-- An input of a function does not stand at rest, so the condition of its cause is present (R116). -/
def State.anyNotAtRest (s : State) (f : SpillFunction) : Bool :=
  InputIx.all.any fun i => (s.cfg.spill.get i).function == f && s.tripUnit.inputs.get i != .atRest

/-- The condition of a cause is present at a key operation (R116, R117, R118, R130). -/
def State.conditionPresent (s : State) : Cause → Bool
  | .sump => s.anyNotAtRest .sump
  | .vapour => s.anyNotAtRest .vapour
  | .estop => s.tripUnit.button != .released
  | .overfill => ProbeIx.all.any fun c => s.probeUsed c && (s.probes.get c).overfill
  | .hoseBreak => HoseIx.all.any fun h => overspeed (s.hoseCfg h) (s.meters.get h).rate
  | .creep => false
  | .powerUp => false
  | .valveStuck => HoseIx.all.any fun h => (s.hoses.get h).state == .outOfService .valveStuck

/-- The causes whose condition is present stay latched (R130). -/
def State.causesKept (s : State) : CauseSet :=
  let t := s.tripUnit.causes
  ⟨t.sump && s.conditionPresent .sump, t.vapour && s.conditionPresent .vapour, t.estop && s.conditionPresent .estop,
   t.overfill && s.conditionPresent .overfill, t.hoseBreak && s.conditionPresent .hoseBreak,
   t.creep && s.conditionPresent .creep, t.powerUp && s.conditionPresent .powerUp,
   t.valveStuck && s.conditionPresent .valveStuck⟩

/-- The episode ends when the last zone-wide cause has gone: no stamp, and a CLEAR when it was announced (R120, R123,
R131). -/
def endEpisode (s : State) : State :=
  match s.tripUnit.episode with
  | none => s
  | some stamp =>
    let s1 := s.setTripUnit { s.tripUnit with episode := none, announced := false }
    if s.tripUnit.announced then handOver (s.clearFrame stamp) s1 else s1

/-- The trip unit's part of a key operation (R130, R131). Every creep accumulator is cleared, whether CREEP was latched
or not: a step that the key has preceded finds a cleared accumulator and raises nothing (R130). -/
def removeCauses (s : State) : State :=
  let kept := s.causesKept
  let s2 := clearCreep (s.setTripUnit { s.tripUnit with causes := kept })
  if s.tripUnit.causes.zoneWide.any && !kept.zoneWide.any then endEpisode s2 else s2

/-- A key operation (R129): the hoses, the pumps, the causes, and the override hold timer started. -/
def keyOperation (s : State) : State :=
  let s1 := HoseIx.all.foldl (fun s h => returnToService h s) s
  let s2 := PumpIx.all.foldl (fun s p => resetPump p s) s1
  let s3 := withZone removeCauses s2
  s3.setTripUnit { s3.tripUnit with overrideTimer := some 0 }

/-- The keyswitch qualifies at RESET: a key operation, but for the first level after a start (R129). -/
def takeReset (s : State) : State :=
  let s1 := s.setTripUnit { s.tripUnit with keySwitch := .reset }
  match s.tripUnit.keySwitch with
  | .unqualified => s1
  | .atRest => keyOperation s1
  | .reset => s

/-- TRIP_RESET_KEY (R129): taken when the level has been held for 100 ms. -/
def execTripResetKey (heldMs : Nat) (s : State) : Host.Outcome State Fault Refusal :=
  .next (whenPowered (fun s => if heldMs < Config.qualifyMs then s else takeReset s) s)

/-- KEY_RELEASE (R129): the keyswitch qualifies at rest, and the override hold timer stops. -/
def execKeyRelease (heldMs : Nat) (s : State) : Host.Outcome State Fault Refusal :=
  .next (whenPowered (fun s =>
    if heldMs < Config.qualifyMs then s
    else s.setTripUnit { s.tripUnit with keySwitch := .atRest, overrideTimer := none }) s)

/-- An origin that the override removes: LOST or not held in the peer table (R133, R197). -/
def State.overridable (s : State) (o : Origin) : Bool :=
  match s.liveness o.address with
  | some .lost => true
  | none => true
  | _ => false

/-- OVERRIDE_HOLD_EXPIRY (R133). -/
def execOverrideHoldExpiry (s : State) (_ : Instant := ()) : Host.Outcome State Fault Refusal :=
  .next (whenPowered (fun s =>
    if ranOut s.tripUnit.overrideTimer Config.overrideHoldMs then
      let s1 := s.setTripUnit { s.tripUnit with overrideTimer := none }
      withZone (dropOrigins s1.overridable) s1
    else s) s)

/-! ## Peers' episodes (R125 to R127) -/

/-- A sound TRIP acts on the origin list when it is of this station's zone (R125). -/
def takeTrip (f : Frame) (s : State) : State :=
  match tripBody f.body with
  | .sound t =>
    if s.cfg.zone = some t.zone then withZone (enterOrigin ⟨f.src, t.stamp, t.causes⟩) s else s
  | _ => s

/-- TRIP (R125). -/
def execTrip (s : State) : Host.Outcome State Fault Refusal :=
  .next (whenPowered (takeHead .tripUnit [.trip] takeTrip) s)

/-- A sound CLEAR of this zone removes its source's entry when the stamps are equal (R126). -/
def takeClear (f : Frame) (s : State) : State :=
  match clearBody f.body with
  | .sound c =>
    if s.cfg.zone = some c.zone then
      withZone (dropOrigins fun o => o.address == f.src && o.stamp == c.stamp) s
    else s
  | _ => s

/-- CLEAR (R126). -/
def execClear (s : State) : Host.Outcome State Fault Refusal :=
  .next (whenPowered (takeHead .tripUnit [.clear] takeClear) s)

/-- A sound BEACON acts on the origin list by its zone and stamp (R127). -/
def takeBeacon (f : Frame) (s : State) : State :=
  match beaconBody f.body with
  | .sound b =>
    if s.cfg.zone = some b.zone ∧ 0 < b.stamp then withZone (enterOrigin ⟨f.src, b.stamp, b.causes⟩) s
    else withZone (dropOrigins fun o => o.address == f.src) s
  | _ => s

/-- BEACON (R127). -/
def execBeacon (s : State) : Host.Outcome State Fault Refusal :=
  .next (whenPowered (takeHead .tripUnit [.beacon] takeBeacon) s)

end Sys2Proof.Machine
end

