-- ==== Sys2Proof/Machine/Tanks.lean ====
section
/-! DEFINITION. The tank book unit's commands (chapter 4): DRAW_BOOK, RECEIPT, LEVEL, GAUGE_AGE_EXPIRY,
CONFLICT_TIMER_EXPIRY, SCAN_TIMER_EXPIRY, PROBE_GATE_CLOSE. -/

namespace Sys2Proof.Machine

/-- DRAW_BOOK (R92, R93, R95). -/
def execDrawBook (s : State) : Host.Outcome State Fault Refusal :=
  .next (whenPowered (takeHead .tankBooks [.draw] fun f s =>
    match drawBody f.body with
    | .sound d => deadLevelWatch d.tank (bookDraw f.src d s)
    | _ => s) s)

/-- RECEIPT (R92, R93, R96). -/
def execReceipt (s : State) : Host.Outcome State Fault Refusal :=
  .next (whenPowered (takeHead .tankBooks [.receipt] fun f s =>
    match receiptBody f.body with
    | .sound r => deadLevelWatch r.tank (bookReceipt f r s)
    | _ => s) s)

/-- A foreign LEVEL: the gauge-conflict flag is set and its timer restarts (R103). -/
def setConflict (s : State) : State := s.setGauging { s.gauging with conflict := true, conflictTimer := some 0 }

/-- A received LEVEL is weighed for acceptance (R97). -/
def takeLevel (l : LevelBody) (s : State) : State :=
  if (s.bookOf l.tank).isNone then s
  else if (s.probeOf l.tank).isSome then setConflict s
  else deadLevelWatch l.tank (bookLevel l.tank l.volume s)

/-- LEVEL (R97, R99, R103). -/
def execLevel (s : State) : Host.Outcome State Fault Refusal :=
  .next (whenPowered (takeHead .tankBooks [.level] fun f s =>
    match levelBody f.body with
    | .sound l => takeLevel l s
    | _ => s) s)

/-- GAUGE_AGE_EXPIRY (R101): after a LEVEL that restarted the timer at the same instant it does not happen. -/
def execGaugeAgeExpiry (k : BookIx) (s : State) (_ : Instant := ()) : Host.Outcome State Fault Refusal :=
  .next (whenPowered (fun s =>
    if ranOut (s.books.get k).ageTimer (secondsMs s.cfg.gaugeAgeLimit) then s.setBook k (s.books.get k).age
    else s) s)

/-- CONFLICT_TIMER_EXPIRY (R103). -/
def execConflictTimerExpiry (s : State) (_ : Instant := ()) : Host.Outcome State Fault Refusal :=
  .next (whenPowered (fun s =>
    if ranOut s.gauging.conflictTimer (secondsMs s.cfg.gaugeAgeLimit) then
      s.setGauging { s.gauging with conflict := false, conflictTimer := none }
    else s) s)

/-- The gate of a used channel opens for its gate time (R104). -/
def openGate (used : Bool) (p : Probe) : Probe := if used then { p with gate := some 0 } else p

/-- The scan timer restarts and every used channel opens its gate; in CONFIG_FAULT there is no scan (R104, R113). -/
def startScans (s : State) : State :=
  let s1 := s.setGauging { s.gauging with scanTimer := 0 }
  if s.inConfigFault then s1
  else { s1 with probes := .ofIx fun c => openGate (s1.probeUsed c) (s1.probes.get c) }

/-- SCAN_TIMER_EXPIRY (R104). -/
def execScanTimerExpiry (s : State) (_ : Instant := ()) : Host.Outcome State Fault Refusal :=
  .next (whenPowered (fun s =>
    if ranOut (some s.gauging.scanTimer) (secondsMs s.cfg.scanInterval) then startScans s else s) s)

/-! ## A scan (R104 to R110) -/

/-- The height of an in-window count (R105). -/
def heightOf (c : ProbeSetting) (count : Nat) : Nat :=
  (max 0 (min (c.span : Int)
    ((((count : Int) - c.countEmpty) * c.span) / ((c.countFull : Int) - c.countEmpty)))).toNat

/-- A height joins the history at the newest end, the oldest leaving when 4 are held (R106). -/
def appendHeight (hs : List Nat) (h : Nat) : List Nat :=
  (if hs.length < Config.historyCapacity then hs else hs.drop 1) ++ [h]

/-- The newest three heights of a history lie within the settle band (R107). -/
def settledHistory (hs : List Nat) (band : Nat) : Bool :=
  match hs.reverse with
  | a :: b :: c :: _ => decide (max a (max b c) - min a (min b c) ≤ band)
  | _ => false

/-- The volume a strapping table gives for a height (R109). -/
def strapVolume : List (Nat × Nat) → Nat → Nat
  | [], _ => 0
  | [p], _ => p.2
  | p :: q :: rest, h =>
    if h < q.1 then p.2 + (h - p.1) * (q.2 - p.2) / (q.1 - p.1) else strapVolume (q :: rest) h

/-- The body of a LEVEL (R108, R187). -/
def levelBytes (tank height volume : Nat) : List Byte := oneByte tank ++ beBytes 2 height ++ beBytes 4 volume

/-- The overfill test of a tracking scan (R110). -/
def overfillTest (c : ProbeIx) (height : Nat) (s : State) : State :=
  let high := ((s.bookOf (s.cfg.probes.get c).tank).map fun k => (s.cfg.books.get k).highHigh).getD 0
  let p := s.probes.get c
  if high ≤ height then raise .overfill (s.setProbe c { p with overfill := true })
  else s.setProbe c { p with overfill := false }

/-- A tracking scan (R108): the own book with its watch, the overfill test, the LEVEL frame. -/
def trackingScan (c : ProbeIx) (s : State) : State :=
  let cfg := s.cfg.probes.get c
  let height := ((s.probes.get c).reported).getD 0
  let vol := strapVolume cfg.points height
  let s1 := deadLevelWatch cfg.tank (bookLevel cfg.tank vol s)
  let s2 := overfillTest c height s1
  handOver ⟨0, .level, levelBytes cfg.tank height vol, .tankBooks, .plain⟩ s2

/-- A scan acts on its channel by the probe state (R107). -/
def scan (c : ProbeIx) (count : Nat) (s : State) : State :=
  let cfg := s.cfg.probes.get c
  let p := { s.probes.get c with gate := none }
  if within cfg.lower cfg.upper count then
    let h := heightOf cfg count
    let hs := appendHeight p.history h
    match p.state with
    | .fault => s.setProbe c { p with state := .acquiring, history := [h] }
    | .tracking => trackingScan c (s.setProbe c { p with history := hs })
    | .acquiring =>
      if settledHistory hs cfg.settleBand then
        trackingScan c (s.setProbe c { p with state := .tracking, history := hs })
      else s.setProbe c { p with history := hs }
  else s.setProbe c { p with state := .fault, history := [] }

/-- PROBE_GATE_CLOSE (R104, R107): the count of a gate that has been open for its gate time; no scan is made in
CONFIG_FAULT (R113). DESIGN CHOICE (log 23): the count is the world's, and the close comes with it. -/
def execProbeGateClose (c : ProbeIx) (count : Nat) (s : State) : Host.Outcome State Fault Refusal :=
  .next (whenPowered (fun s =>
    if ranOut (s.probes.get c).gate (s.cfg.probes.get c).gateMs ∧ s.probeUsed c ∧ s.inConfigFault = false then scan c count s else s) s)

end Sys2Proof.Machine
end

