-- ==== Sys2Proof/Machine/Dispatch.lean ====
section
/-! DEFINITION. The meaning of each command: one arm per constructor, in the table's order. -/

namespace Sys2Proof.Machine

def exec (i : Instr) (s : State) : Host.Outcome State Fault Refusal :=
  match i with
  | .qualifiedPhaseChange h levelA heldA levelB heldB => Sys2Proof.Machine.execQualifiedPhaseChange h levelA heldA levelB heldB s
  | .creepWindowExpiry now => Sys2Proof.Machine.execCreepWindowExpiry s now
  | .rateWindowExpiry h now => Sys2Proof.Machine.execRateWindowExpiry h s now
  | .meterSettled h now => Sys2Proof.Machine.execMeterSettled h s now
  | .drivePeriodStart h now => Sys2Proof.Machine.execDrivePeriodStart h s now
  | .dutyOnTimeEnd h now => Sys2Proof.Machine.execDutyOnTimeEnd h s now
  | .valveProofChange h closed heldMs => Sys2Proof.Machine.execValveProofChange h closed heldMs s
  | .zeroDutySettle h now => Sys2Proof.Machine.execZeroDutySettle h s now
  | .flowPastExpiry h now => Sys2Proof.Machine.execFlowPastExpiry h s now
  | .pumpSettleExpiry p now => Sys2Proof.Machine.execPumpSettleExpiry p s now
  | .pumpProofChange p present heldMs => Sys2Proof.Machine.execPumpProofChange p present heldMs s
  | .minimumOffExpiry p now => Sys2Proof.Machine.execMinimumOffExpiry p s now
  | .nozzleHookChange h offHook heldMs => Sys2Proof.Machine.execNozzleHookChange h offHook heldMs s
  | .tagFrame h checkGood machine hours => Sys2Proof.Machine.execTagFrame h checkGood machine hours s
  | .claimTimerExpiry h now => Sys2Proof.Machine.execClaimTimerExpiry h s now
  | .tagGraceExpiry h now => Sys2Proof.Machine.execTagGraceExpiry h s now
  | .noFlowTimeout h now => Sys2Proof.Machine.execNoFlowTimeout h s now
  | .lampFlashToggle h now => Sys2Proof.Machine.execLampFlashToggle h s now
  | .permitExpiry machine product now => Sys2Proof.Machine.execPermitExpiry machine product s now
  | .drawBook => Sys2Proof.Machine.execDrawBook s
  | .drawAccount => Sys2Proof.Machine.execDrawAccount s
  | .receipt => Sys2Proof.Machine.execReceipt s
  | .level => Sys2Proof.Machine.execLevel s
  | .gaugeAgeExpiry k now => Sys2Proof.Machine.execGaugeAgeExpiry k s now
  | .conflictTimerExpiry now => Sys2Proof.Machine.execConflictTimerExpiry s now
  | .scanTimerExpiry now => Sys2Proof.Machine.execScanTimerExpiry s now
  | .probeGateClose c count => Sys2Proof.Machine.execProbeGateClose c count s
  | .spillInputConfirm input contactClosed heldMs => Sys2Proof.Machine.execSpillInputConfirm input contactClosed heldMs s
  | .emergencyStop pressed heldMs => Sys2Proof.Machine.execEmergencyStop pressed heldMs s
  | .tripResetKey heldMs => Sys2Proof.Machine.execTripResetKey heldMs s
  | .keyRelease heldMs => Sys2Proof.Machine.execKeyRelease heldMs s
  | .overrideHoldExpiry now => Sys2Proof.Machine.execOverrideHoldExpiry s now
  | .trip => Sys2Proof.Machine.execTrip s
  | .clear => Sys2Proof.Machine.execClear s
  | .beacon => Sys2Proof.Machine.execBeacon s
  | .peerTableUpdate => Sys2Proof.Machine.execPeerTableUpdate s
  | .peerQuietExpiry address now => Sys2Proof.Machine.execPeerQuietExpiry address s now
  | .peerLostExpiry address now => Sys2Proof.Machine.execPeerLostExpiry address s now
  | .beaconTimerExpiry now => Sys2Proof.Machine.execBeaconTimerExpiry s now
  | .rosterSet => Sys2Proof.Machine.execRosterSet s
  | .rosterRemove => Sys2Proof.Machine.execRosterRemove s
  | .permit => Sys2Proof.Machine.execPermit s
  | .accountRead => Sys2Proof.Machine.execAccountRead s
  | .journalRead => Sys2Proof.Machine.execJournalRead s
  | .collect => Sys2Proof.Machine.execCollect s
  | .stopHose => Sys2Proof.Machine.execStopHose s
  | .statusReq => Sys2Proof.Machine.execStatusReq s
  | .identReq => Sys2Proof.Machine.execIdentReq s
  | .restart => Sys2Proof.Machine.execRestart s
  | .time => Sys2Proof.Machine.execTime s
  | .unknownKindFrame => Sys2Proof.Machine.execUnknownKindFrame s
  | .characterReceived data marked stopGood => Sys2Proof.Machine.execCharacterReceived data marked stopGood s
  | .characterTimeout waited => Sys2Proof.Machine.execCharacterTimeout s waited
  | .accessGapReached silence => Sys2Proof.Machine.execAccessGapReached silence s
  | .leadTimeEnd => Sys2Proof.Machine.execLeadTimeEnd s
  | .echoMismatch => Sys2Proof.Machine.execEchoMismatch s
  | .frameSent => Sys2Proof.Machine.execFrameSent s
  | .joinTimerExpiry now => Sys2Proof.Machine.execJoinTimerExpiry s now
  | .isolationHoldExpiry now => Sys2Proof.Machine.execIsolationHoldExpiry s now
  | .powerOn strap image domainHeld lostAfter => Sys2Proof.Machine.execPowerOn strap image domainHeld lostAfter s
  | .mainPowerLoss => Sys2Proof.Machine.execMainPowerLoss s

end Sys2Proof.Machine
end

