-- ==== Sys2Proof/Machine/Tick.lean ====
section
/-! DEFINITION. What the station does of itself when no command waits (log 2, DESIGN CHOICE): an attempt that may begin
at once is queued (R159), else the receive buffer passes its oldest frame on (R157), else one millisecond of the time
base passes (R206) and each timer that comes to its setting puts its expiry into the queue. -/

namespace Sys2Proof.Machine

/-! ## Passing a frame on (R157, R176) -/

/-- The command by which a block takes a frame of a kind. -/
def takeCommand (k : FrameKind) (b : Block) : Instr :=
  match b with
  | .peerTable => .peerTableUpdate
  | .accountTable =>
    match k with
    | .draw => .drawAccount
    | .rosterSet => .rosterSet
    | .rosterRemove => .rosterRemove
    | .permit => .permit
    | .accountRead => .accountRead
    | _ => .unknownKindFrame
  | .tankBooks =>
    match k with
    | .draw => .drawBook
    | .receipt => .receipt
    | .level => .level
    | _ => .unknownKindFrame
  | .tripUnit =>
    match k with
    | .trip => .trip
    | .clear => .clear
    | .beacon => .beacon
    | _ => .unknownKindFrame
  | .journal =>
    match k with
    | .journalRead => .journalRead
    | .collect => .collect
    | _ => .unknownKindFrame
  | .deliveryController => .stopHose
  | .startUnit =>
    match k with
    | .statusReq => .statusReq
    | .identReq => .identReq
    | .restart => .restart
    | .time => .time
    | _ => .unknownKindFrame

/-- The block first named for a kind, which makes the tests of a frame that reaches no owner. -/
def firstOwner (k : FrameKind) : Block := (mainOwners k).head?.getD .startUnit

/-- The commands that pass a buffered frame on to its owners that have not taken it, or that discard it (R175 to
R177). The order of the owners is log 2 (DESIGN CHOICE): R157 and R176 give none; here R175's owners take the frame in
R175's order and the peer table takes it last, so the trip unit weighs a TRIP or BEACON before the peer table does
(R124). -/
def passOn (e : RxEntry) (fault : Bool) : List Instr :=
  match kindOfCode e.frame.kind with
  | none => [.unknownKindFrame]
  | some k =>
    let owners := (ownersOf k e.frame.src fault).filter fun b => !e.taken.contains b
    if verdict e.frame = .sound ∧ owners ≠ [] then owners.map (takeCommand k) else [takeCommand k (firstOwner k)]

/-! ## One millisecond (R206) -/

/-- A running timer moves on. -/
def Timer.tick (t : Timer) : Timer := t.map fun n => n + 1

/-- The time base moves on (R206). -/
def StartUnit.tick (u : StartUnit) : StartUnit :=
  if u.millis + 1 < 1000 then { u with millis := u.millis + 1 }
  else { u with millis := 0, seconds := (u.seconds + 1) % 4294967296 }

/-- A channel's quiet timer and rate window (R5, R7). -/
def Meter.tick (m : Meter) : Meter := { m with quiet := m.quiet + 1, rateTimer := m.rateTimer + 1 }

/-- A valve's drive period, zero-duty time and flow-past timer (R12, R15, R16). -/
def Valve.tick (v : Valve) : Valve :=
  { v with
    periodTime := if v.periodDuty = 0 then v.periodTime else v.periodTime + 1
    zeroTime := if v.duty = 0 then v.zeroTime + 1 else v.zeroTime
    flowPast := Timer.tick v.flowPast }

/-- A pump's timer (R19 to R23). -/
def Pump.tick (p : Pump) : Pump := { p with timer := Timer.tick p.timer }

/-- A hose's timers (R26, R29, R30, R41). -/
def Hose.tick (x : Hose) : Hose :=
  { x with
    claimTimer := Timer.tick x.claimTimer
    tagTimer := Timer.tick x.tagTimer
    noFlow := Timer.tick x.noFlow
    flash := Timer.tick x.flash }

/-- A book's gauge-age timer (R98). -/
def Book.tick (b : Book) : Book := { b with ageTimer := Timer.tick b.ageTimer }

/-- An open gate (R104). -/
def Probe.tick (p : Probe) : Probe := { p with gate := Timer.tick p.gate }

/-- The scan and conflict timers (R103, R104). -/
def Gauging.tick (g : Gauging) : Gauging :=
  { g with scanTimer := g.scanTimer + 1, conflictTimer := Timer.tick g.conflictTimer }

/-- The join and isolation hold timers (R171, R172). -/
def Link.tick (l : Link) : Link :=
  { l with joinTimer := Timer.tick l.joinTimer, isolationTimer := Timer.tick l.isolationTimer }

/-- A peer's timers (R194). -/
def Peer.tick (p : Peer) : Peer :=
  { p with quietTimer := Timer.tick p.quietTimer, lostTimer := Timer.tick p.lostTimer }

/-- Every timer of the station moves on by one millisecond. -/
def advance (s : State) : State :=
  { s with
    unit := s.unit.tick
    creepTimer := s.creepTimer + 1
    meters := s.meters.map Meter.tick
    valves := s.valves.map Valve.tick
    pumps := s.pumps.map Pump.tick
    hoses := s.hoses.map Hose.tick
    books := s.books.map Book.tick
    probes := s.probes.map Probe.tick
    gauging := s.gauging.tick
    tripUnit := { s.tripUnit with overrideTimer := Timer.tick s.tripUnit.overrideTimer }
    link := s.link.tick
    peers := s.peers.map Peer.tick
    beaconTimer := s.beaconTimer + 1 }

/-! ## Expiries (log 2: the order within a millisecond) -/

/-- A command when its timer stands at its setting. -/
def due (t : Timer) (limit : Nat) (c : Instr) : List Instr := if t = some limit then [c] else []

/-- The expiries of one hose's meter channel and valve (R5, R7, R12, R15, R16). -/
def driveDue (s : State) (h : HoseIx) : List Instr :=
  let m := s.meters.get h
  let v := s.valves.get h
  let c := s.hoseCfg h
  due (some m.rateTimer) Config.rateWindowMs (.rateWindowExpiry h)
    ++ due (some m.quiet) (secondsMs s.cfg.endSettle) (.meterSettled h)
    ++ due v.period (onTime v.periodDuty c.drivePeriodMs) (.dutyOnTimeEnd h)
    ++ due v.period c.drivePeriodMs (.drivePeriodStart h)
    ++ due (if v.duty = 0 then some v.zeroTime else none) (secondsMs s.cfg.endSettle) (.zeroDutySettle h)
    ++ due v.flowPast (secondsMs s.cfg.endingLimit) (.flowPastExpiry h)

/-- The expiry of a pump's timer (R21, R22). -/
def pumpDue (s : State) (p : PumpIx) : List Instr :=
  let x := s.pumps.get p
  match x.state with
  | .starting => due x.timer (secondsMs s.cfg.pumpSettle) (.pumpSettleExpiry p)
  | .cooldown => due x.timer (secondsMs s.cfg.pumpMinimumOff) (.minimumOffExpiry p)
  | _ => []

/-- The expiries of one hose (R26, R30, R41, R42). -/
def hoseDue (s : State) (h : HoseIx) : List Instr :=
  let x := s.hoses.get h
  due x.claimTimer (secondsMs s.cfg.claimTime) (.claimTimerExpiry h)
    ++ due x.tagTimer (secondsMs s.cfg.tagGrace) (.tagGraceExpiry h)
    ++ due x.noFlow (secondsMs s.cfg.noFlowTime) (.noFlowTimeout h)
    ++ due x.flash Config.flashMs (.lampFlashToggle h)

/-- The permits whose expiry the local seconds reach (R85). -/
def permitsDue (s : State) : List Instr :=
  if s.unit.millis = 0 then
    (s.accounts.permits.filter fun q => q.expiry == s.unit.seconds).map fun q => .permitExpiry q.machine q.product
  else []

/-- The expiries of the peer table: moves to LOST, then to QUIET (R194). -/
def peersDue (s : State) : List Instr :=
  (s.peers.flatMap fun p => due p.lostTimer (secondsMs s.cfg.lostTimeout) (.peerLostExpiry p.address))
    ++ s.peers.flatMap fun p =>
      if p.state = .heard then due p.quietTimer (secondsMs (2 * p.interval)) (.peerQuietExpiry p.address) else []

/-- The expiries of the station's own timers (R6, R103, R104, R133, R171, R172, R188). -/
def stationDue (s : State) : List Instr :=
  due (some s.creepTimer) (secondsMs s.cfg.creepWindow) .creepWindowExpiry
    ++ due s.gauging.conflictTimer (secondsMs s.cfg.gaugeAgeLimit) .conflictTimerExpiry
    ++ due (some s.gauging.scanTimer) (secondsMs s.cfg.scanInterval) .scanTimerExpiry
    ++ due s.tripUnit.overrideTimer Config.overrideHoldMs .overrideHoldExpiry
    ++ due s.link.joinTimer (secondsMs s.cfg.joinTime) .joinTimerExpiry
    ++ due s.link.isolationTimer (secondsMs s.cfg.isolationHold) .isolationHoldExpiry
    ++ due (some s.beaconTimer) (secondsMs s.cfg.beaconInterval) .beaconTimerExpiry

/-- Every expiry due at this millisecond. The timer of an open probe gate queues none: its close comes from outside with
its count (log 23). -/
def expiries (s : State) : List Instr :=
  HoseIx.all.flatMap (driveDue s) ++ PumpIx.all.flatMap (pumpDue s) ++ HoseIx.all.flatMap (hoseDue s)
    ++ permitsDue s
    ++ (BookIx.all.flatMap fun k =>
      due (s.books.get k).ageTimer (secondsMs s.cfg.gaugeAgeLimit) (.gaugeAgeExpiry k))
    ++ stationDue s ++ peersDue s

/-- The queue with commands behind those it holds. -/
def State.enqueue (s : State) (cs : List Instr) : State := { s with pending := s.pending ++ cs }

/-- What the station does of itself (log 2): without power, nothing (log 7). -/
def idle (s : State) : State :=
  if s.unit.powered then
    match s.attemptDue, s.link.buffer with
    | some n, _ => s.enqueue [.accessGapReached n]
    | none, e :: _ => s.enqueue (passOn e s.inConfigFault)
    | none, [] => (advance s).enqueue (expiries (advance s))
  else s

end Sys2Proof.Machine
end

