-- ==== Sys2Proof/Machine/Step.lean ====
section
/-! DEFINITION. The step of the station: the command at the front of the queue, or, with none waiting, what the
station does of itself (log 2). -/

namespace Sys2Proof.Machine

/-- One step: the front command is executed with the queue's rest; on an empty queue the station idles (log 2). -/
def step (s : State) : Host.Outcome State Fault Refusal :=
  match s.pending with
  | [] => .next (idle s)
  | c :: rest => exec c { s with pending := rest }

/-- The state with the command that a word spells put at the front of its queue; a word that spells none changes
nothing (no row of the table gives bits). -/
def State.withFetchWord (s : State) (nbits w : Nat) : State :=
  match decodeTableWord nbits w with
  | some c => { s with pending := c :: s.pending }
  | none => s

end Sys2Proof.Machine
end

