-- ==== Sys2Proof/Safety.lean ====
section
/-! DEFINITION. What claims about the station are stated in: the parts of the state and what a command leaves
unchanged, and the invariants a safe run keeps. -/

namespace Sys2Proof.Machine

/-! ## Frames -/

/-- The parts of the state, one for each field, but that the read in progress stands apart from the journal and the
transmit queue from the rest of the link unit. -/
inductive Part where
  | unit | creepTimer | meters | valves | pumps | hoses | retained | accounts | books | probes | gauging | tripUnit
  | journal | read | link | queue | counts | peers | beaconTimer | choices | pending
  deriving DecidableEq, Repr

/-- Two states agree on a part. -/
def State.sameAt (s t : State) : Part → Prop
  | .unit => t.unit = s.unit
  | .creepTimer => t.creepTimer = s.creepTimer
  | .meters => t.meters = s.meters
  | .valves => t.valves = s.valves
  | .pumps => t.pumps = s.pumps
  | .hoses => t.hoses = s.hoses
  | .retained => t.retained = s.retained
  | .accounts => t.accounts = s.accounts
  | .books => t.books = s.books
  | .probes => t.probes = s.probes
  | .gauging => t.gauging = s.gauging
  | .tripUnit => t.tripUnit = s.tripUnit
  | .journal => { t.journal with read := s.journal.read } = s.journal
  | .read => t.journal.read = s.journal.read
  | .link => { t.link with ordinary := s.link.ordinary, reserved := s.link.reserved } = s.link
  | .queue => t.link.ordinary = s.link.ordinary ∧ t.link.reserved = s.link.reserved
  | .counts => t.counts = s.counts
  | .peers => t.peers = s.peers
  | .beaconTimer => t.beaconTimer = s.beaconTimer
  | .choices => t.choices = s.choices
  | .pending => t.pending = s.pending

/-- `t` agrees with `s` on every part but those listed: the frame of what led from `s` to `t`. -/
def sameOutside (ps : List Part) (s t : State) : Prop := ∀ p, p ∉ ps → s.sameAt t p

/-- A command is taken and has an effect that holds of the state before and the next state. -/
def Takes (c : Instr) (s : State) (effect : State → Prop) : Prop := ∃ t, exec c s = .next t ∧ effect t

/-- What handing a frame over can touch: the queue, the drop count, and a read that loses a frame (R164 to R169). -/
def handing : List Part := [.queue, .counts, .read]

/-- What a move of a hose can touch (R11, R18, R26). -/
def moving : List Part := [.hoses, .valves, .meters, .pumps]

/-- What a close can touch: hoses, valves, meters, pumps, and what the hand-off reaches (R48, R50). -/
def closing : List Part := [.accounts, .journal, .books] ++ moving ++ handing

/-- What taking a frame and answering it can touch. -/
def replying : List Part := .link :: handing

/-- The parts of the state that a command can touch. Every other part is as before: no command but POWER_ON and
MAIN_POWER_LOSS touches the retained deliveries, and none touches the queue of commands. -/
def touches : Instr → List Part
  | .qualifiedPhaseChange _ _ _ _ _ => .tripUnit :: .choices :: closing
  | .creepWindowExpiry _ => [.creepTimer, .meters]
  | .rateWindowExpiry _ _ => .tripUnit :: closing
  | .meterSettled _ _ => closing
  | .drivePeriodStart _ _ => [.valves]
  | .dutyOnTimeEnd _ _ => [.valves]
  | .valveProofChange _ _ _ => .tripUnit :: closing
  | .zeroDutySettle _ _ => .tripUnit :: closing
  | .flowPastExpiry _ _ => .tripUnit :: closing
  | .pumpSettleExpiry _ _ => closing
  | .pumpProofChange _ _ _ => closing
  | .minimumOffExpiry _ _ => [.pumps]
  | .nozzleHookChange _ _ _ => closing
  | .tagFrame _ _ _ _ => closing
  | .claimTimerExpiry _ _ => moving
  | .tagGraceExpiry _ _ => closing
  | .noFlowTimeout _ _ => closing
  | .lampFlashToggle _ _ => [.hoses]
  | .permitExpiry _ _ _ => [.accounts]
  | .drawBook => .link :: closing
  | .drawAccount => .accounts :: replying
  | .receipt => .link :: closing
  | .level => .link :: .gauging :: closing
  | .gaugeAgeExpiry _ _ => [.books]
  | .conflictTimerExpiry _ => [.gauging]
  | .scanTimerExpiry _ => [.gauging, .probes]
  | .probeGateClose _ _ => .probes :: .tripUnit :: closing
  | .spillInputConfirm _ _ _ => .tripUnit :: closing
  | .emergencyStop _ _ => .tripUnit :: closing
  | .tripResetKey _ => .tripUnit :: closing
  | .keyRelease _ => [.tripUnit]
  | .overrideHoldExpiry _ => .tripUnit :: closing
  | .trip => .link :: .tripUnit :: closing
  | .clear => .link :: .tripUnit :: closing
  | .beacon => .link :: .tripUnit :: closing
  | .peerTableUpdate => .peers :: replying
  | .peerQuietExpiry _ _ => [.peers]
  | .peerLostExpiry _ _ => [.peers, .books]
  | .beaconTimerExpiry _ => .beaconTimer :: replying
  | .rosterSet => .accounts :: replying
  | .rosterRemove => .accounts :: replying
  | .permit => .accounts :: replying
  | .accountRead => replying
  | .journalRead => replying
  | .collect => .journal :: replying
  | .stopHose => .link :: closing
  | .statusReq => replying
  | .identReq => replying
  | .restart => replying
  | .time => .unit :: replying
  | .unknownKindFrame => replying
  | .characterReceived _ _ _ => .books :: replying
  | .characterTimeout _ => [.link, .counts]
  | .accessGapReached _ => [.link, .queue]
  | .leadTimeEnd => [.link]
  | .echoMismatch => .books :: replying
  | .frameSent =>
    [.link, .unit, .creepTimer, .probes, .gauging, .tripUnit, .peers, .beaconTimer] ++ closing
  | .joinTimerExpiry _ => [.link]
  | .isolationHoldExpiry _ => [.link]
  | .powerOn _ _ _ _ =>
    [.link, .unit, .creepTimer, .retained, .probes, .gauging, .tripUnit, .peers, .beaconTimer] ++ closing
  | .mainPowerLoss =>
    [.link, .unit, .creepTimer, .retained, .probes, .gauging, .tripUnit, .peers, .beaconTimer] ++ closing

/-- The hoses other than one are as before. -/
def otherHosesSame (h : HoseIx) (s t : State) : Prop := ∀ g, g ≠ h → t.hoses.get g = s.hoses.get g

/-! ## Frames taken from the receive buffer (R157, R176) -/

/-- A sound frame of a kind stands at the head of the receive buffer of a powered station, and a block it goes to has
not taken it. -/
def State.offers (s : State) (k : FrameKind) (b : Block) (e : RxEntry) (rest : List RxEntry) : Prop :=
  s.unit.powered = true ∧ s.link.buffer = e :: rest ∧ kindOfCode e.frame.kind = some k ∧ verdict e.frame = .sound
    ∧ b ∈ ownersOf k e.frame.src s.inConfigFault ∧ b ∉ e.taken

/-- The receive buffer once one more owner has taken its oldest frame: it leaves when every owner has (R157). -/
def bufferAfter (owners : List Block) (b : Block) (e : RxEntry) (rest : List RxEntry) : List RxEntry :=
  if owners.all fun o => (b :: e.taken).contains o then rest else { e with taken := b :: e.taken } :: rest

/-- The state with that buffer. -/
def State.took (s : State) (k : FrameKind) (b : Block) (e : RxEntry) (rest : List RxEntry) : State :=
  s.setLink { s.link with buffer := bufferAfter (ownersOf k e.frame.src s.inConfigFault) b e rest }

/-! ## Layouts (R187) -/

/-- A body holds a value in the field of so many characters at an offset, most significant first (R187); of a value wider
than its field the low characters stand there (log 34). -/
def Holds (b : List Byte) (offset size v : Nat) : Prop := field b offset size = v % 256 ^ size

/-! ## Settling (R5, R12, R45) -/

/-- The meter of a hose is not quiet for the end settle once its valve is shut, so that an ending settles first (R5,
R12, R45). -/
def State.settlesLater (s : State) (h : HoseIx) : Prop :=
  0 < s.cfg.endSettle ∧ ((s.valves.get h).duty ≠ 0 ∨ s.quietForSettle h = false)

/-! ## Lost frames (R169) -/

/-- The owner of a frame that leaves the queue unsent has been told (R169): a read that loses a frame ends (R149); a RESTART
is given up with its reply (R205) and the other owners do nothing, so that the state stays. -/
def State.toldLost (s : State) : Purpose → State
  | .readFrame => s.setJournal { s.journal with read := none }
  | .restartReply => s
  | .plain => s

/-! ## Closes (R48, R50, R142, R143) -/

/-- A closed delivery with quantity above 0 has been handed on (R50): the account table has applied it, the journal
has written its record with the next sequence over the reservation (R142, R144), the tank's book has given its
quantity (R94), and its DRAW has taken a free ordinary entry (R168), with a quantity of DRAW's range (R186) that is the
delivery's own wherever that lies in it. -/
def HandedOn (c : Closed) (s t : State) : Prop :=
  t.accounts = (accountClose c s).2.accounts
    ∧ t.journal.records
      = (if s.journal.records.length < 128 then s.journal.records else s.journal.records.drop 1) ++
        [{ sequence := s.journal.counter, hose := c.hose, product := c.product, tank := c.tank, machine := c.machine,
           hours := c.hours, limit := c.limit, quantity := c.quantity, reason := c.reason,
           flags := c.flags.union (accountClose c s).1, startTime := c.startTime, endTime := c.endTime,
           siteTime := s.siteTime, collected := false }]
    ∧ t.journal.counter = (if s.journal.counter < 4294967295 then s.journal.counter + 1 else 1)
    ∧ t.journal.reserved = s.journal.reserved - 1 ∧ t.journal.mark = s.journal.mark
    ∧ (∀ k, s.bookOf c.tank = some k → t.books
      = s.books.set k { s.books.get k with value := (s.books.get k).value.map fun v => v - c.quantity })
    ∧ ∃ q, 1 ≤ q ∧ q ≤ 4294967295 ∧ (c.quantity ≤ 4294967295 → q = c.quantity)
      ∧ (s.inConfigFault = false → s.link.ordinary.length < 6 → t.link.ordinary = s.link.ordinary ++
        [s.entryOf ⟨0, .draw,
          beBytes 4 s.journal.counter ++ oneByte c.tank ++ oneByte (productCode c.product) ++ beBytes 3 c.machine
            ++ beBytes 3 (c.hours.getD 16777215) ++ beBytes 4 q, .deliveryController, .plain⟩])

/-- A closed delivery with quantity 0 has been handed to the journal alone (R50, R143): its reservation is given back,
and no record, book, machine record or frame comes of it. -/
def OnlyReleased (s t : State) : Prop :=
  t.journal = { s.journal with reserved := s.journal.reserved - 1 } ∧ t.accounts = s.accounts ∧ t.books = s.books
    ∧ t.link = s.link ∧ t.counts = s.counts

/-- The closed delivery of a live record has been handed on, by its quantity. -/
def ClosedAs (h : HoseIx) (l : Live) (r : EndReason) (s t : State) : Prop :=
  (0 < volume (s.hoseCfg h).meterK (s.meters.get h).net → HandedOn (closedOf h l (s.meters.get h).net r s) s t)
    ∧ (volume (s.hoseCfg h).meterK (s.meters.get h).net = 0 → OnlyReleased s t)

/-! ## Endings (R43 to R45, R92) -/

/-- A delivery has entered ENDING with a reason and settles there (R44): the reason and P_close in the record, SHUT commanded and the
duty 0, the flow-past timer started, the pump off when no hose of the tank draws (R20), nothing else touched. -/
def EntersEnding (h : HoseIx) (l : Live) (r : EndReason) (s t : State) : Prop :=
  (t.hoses.get h).state = .ending
    ∧ (t.hoses.get h).live
      = some { l with endReason := some r, closeCount := some (l.closeCount.getD (s.meters.get h).net) }
    ∧ (t.valves.get h).commanded = .shut ∧ (t.valves.get h).duty = 0 ∧ (t.valves.get h).flowPast = some 0
    ∧ (∀ p, s.pumpOf (s.hoseCfg h).tank = some p → t.runCount (s.hoseCfg h).tank = 0 →
      (t.pumps.get p).state.contactor = false)
    ∧ otherHosesSame h s t ∧ sameOutside moving s t

/-- A delivery ended with a reason has closed at its entry to ENDING, its meter already quiet (R45): the hose has left
ENDING by its mark or its hook, a PRESET close has taught its overrun (R48, R49), the valve is SHUT with its flow-past
timer stopped, and the closed delivery has been handed on by its quantity. -/
def ClosesAtEntry (h : HoseIx) (l : Live) (r : EndReason) (s t : State) : Prop :=
  (t.hoses.get h).state
      = (if (s.hoses.get h).meterMark then .outOfService .meter
        else if (s.hoses.get h).hook = some .offHook then .done r else .idle)
    ∧ (t.hoses.get h).live = none ∧ (t.hoses.get h).meterMark = false
    ∧ (t.hoses.get h).overrun
      = (if r = .preset then learned l.overrunUsed
          (observedOverrun (s.hoseCfg h).meterK (l.closeCount.getD (s.meters.get h).net) (s.meters.get h).net)
        else (s.hoses.get h).overrun)
    ∧ (t.meters.get h).net = (s.meters.get h).net
    ∧ (t.valves.get h).commanded = .shut ∧ (t.valves.get h).duty = 0 ∧ (t.valves.get h).flowPast = none
    ∧ (∀ p, s.pumpOf (s.hoseCfg h).tank = some p → t.runCount (s.hoseCfg h).tank = 0 →
      (t.pumps.get p).state.contactor = false)
    ∧ ClosedAs h l r s t ∧ otherHosesSame h s t ∧ sameOutside closing s t

/-- The one delivery of its tank has been ended with a reason: it settles in ENDING, or closes at its entry (R43 to
R45). -/
def Ended (h : HoseIx) (l : Live) (r : EndReason) (s t : State) : Prop :=
  (s.settlesLater h → EntersEnding h l r s t)
    ∧ (¬s.settlesLater h → (∀ g, g ≠ h → s.liveTank g ≠ some l.tank) → ClosesAtEntry h l r s t)

/-- What a request that may end several deliveries at once has done to the one of a hose (R43 to R45): it settles in
ENDING with the reason and P_close, or has closed at its entry, its record in the journal where the quantity is above 0;
either way the valve is SHUT at duty 0. -/
def HoseEnded (h : HoseIx) (l : Live) (r : EndReason) (s t : State) : Prop :=
  (t.valves.get h).commanded = .shut ∧ (t.valves.get h).duty = 0 ∧ (t.meters.get h).net = (s.meters.get h).net
    ∧ (s.settlesLater h → (t.hoses.get h).state = .ending ∧ (t.valves.get h).flowPast = some 0
      ∧ (t.hoses.get h).live
        = some { l with endReason := some r, closeCount := some (l.closeCount.getD (s.meters.get h).net) })
    ∧ (¬s.settlesLater h →
      (t.hoses.get h).state
          = (if (s.hoses.get h).meterMark then .outOfService .meter
            else if (s.hoses.get h).hook = some .offHook then .done r else .idle)
        ∧ (t.hoses.get h).live = none ∧ (t.valves.get h).flowPast = none
        ∧ (r ≠ .preset → (t.hoses.get h).overrun = (s.hoses.get h).overrun)
        ∧ (0 < volume (s.hoseCfg h).meterK (s.meters.get h).net → ∃ d ∈ t.journal.records,
          d.hose = h ∧ d.machine = l.machine ∧ d.hours = l.hours ∧ d.product = l.product ∧ d.tank = l.tank
            ∧ d.limit = l.limit ∧ d.quantity = volume (s.hoseCfg h).meterK (s.meters.get h).net ∧ d.reason = r
            ∧ d.startTime = l.startTime ∧ d.collected = false))

/-- The dead-level watch has ended the deliveries of a tank (R92): each hose in PRIMING, FLOWING or TRIMMING on it ends
with STOCK, its one delivery with all that the ending does; every other hose is as before. -/
def StockEnds (tank : Nat) (s t : State) : Prop :=
  (∀ h l, runState (s.hoses.get h).state = true → (s.hoses.get h).live = some l → l.tank = tank →
    HoseEnded h l .stock s t ∧ ((∀ g, g ≠ h → s.liveTank g ≠ some tank) → Ended h l .stock s t))
    ∧ (∀ h, runState (s.hoses.get h).state = false ∨ s.liveTank h ≠ some tank → t.hoses.get h = s.hoses.get h)
    ∧ sameOutside closing s t

/-- What this station's live deliveries have drawn from a tank, in mL (R90). -/
def State.drawnFrom (s : State) (tank : Nat) : Nat :=
  ((HoseIx.all.filter fun h => s.liveTank h == some tank).map fun h =>
    volume (s.hoseCfg h).meterK (s.meters.get h).net).sum

/-! ## Claims (R29, R31) -/

/-- A valid tag frame at a hose in WAITING of a powered station (R29). -/
def State.claims (s : State) (h : HoseIx) (machine : Nat) (hours : Option Nat) : Prop :=
  s.unit.powered = true ∧ (s.hoses.get h).state = .waiting ∧ 1 ≤ machine ∧ machine ≤ 16777214
    ∧ (∀ v, hours = some v → v ≤ 999999)

/-- A claim has been refused with a reason (R31): its hose holds the reason with its lamp lit, nothing is reserved and
the account table is left so, no permit used. -/
def Refused (h : HoseIx) (r : RefusalReason) (a : Accounts) (s t : State) : Prop :=
  (t.hoses.get h).state = .refused r ∧ (t.hoses.get h).lamp = true ∧ (t.hoses.get h).claimTimer = none
    ∧ (t.hoses.get h).live = (s.hoses.get h).live ∧ t.accounts = a ∧ otherHosesSame h s t
    ∧ sameOutside (.accounts :: moving) s t

/-- An accepted claim has taken effect (R35, R37, R38): the live record with its limit and thresholds, the reservation,
the cleared meter channel, the tag timer, PRIMING. -/
def Accepted (h : HoseIx) (machine : Nat) (hours : Option Nat) (limit : Nat) (flags : RecordFlags) (s t : State) : Prop :=
  (t.hoses.get h).state = .priming ∧ (t.hoses.get h).tagTimer = some 0 ∧ (t.hoses.get h).claimTimer = none
    ∧ (t.hoses.get h).live = some
      { machine := machine, hours := hours, product := (s.hoseCfg h).product, tank := (s.hoseCfg h).tank
        flags := flags, limit := limit, overrunUsed := (s.hoses.get h).overrun
        stopVolume := limit - (s.hoses.get h).overrun
        trimVolume := limit - (s.hoses.get h).overrun - (s.hoseCfg h).trimAllowance
        stopCount := ((limit - (s.hoses.get h).overrun) * (s.hoseCfg h).meterK + 9999) / 10000
        trimCount :=
          ((limit - (s.hoses.get h).overrun - (s.hoseCfg h).trimAllowance) * (s.hoseCfg h).meterK + 9999) / 10000
        closeCount := none, endReason := none, startTime := s.unit.seconds }
    ∧ t.journal = { s.journal with reserved := s.journal.reserved + 1 }
    ∧ t.meters.get h
      = { s.meters.get h with net := 0, creep := 0, phaseErrors := 0, quiet := 0 }
    ∧ (t.valves.get h).commanded = .shut ∧ (t.valves.get h).duty = 0
    ∧ (∀ p, s.pumpOf (s.hoseCfg h).tank = some p → (s.pumps.get p).state = .off → s.runCount (s.hoseCfg h).tank = 0 →
      t.pumps.get p = { s.pumps.get p with state := .starting, timer := some 0 })
    ∧ otherHosesSame h s t ∧ sameOutside (.journal :: .accounts :: moving) s t

/-! ## Leaving PRIMING (R39) -/

/-- A hose has gone on from PRIMING to a flowing state with its stage commanded and its no-flow timer started (R39, R41);
nothing else is touched. -/
def FlowsOn (h : HoseIx) (l : Live) (st : HoseState) (stage : Stage) (duty : Nat) (s t : State) : Prop :=
  (t.hoses.get h).state = st ∧ (t.hoses.get h).live = some l ∧ (t.hoses.get h).noFlow = some 0
    ∧ (t.valves.get h).commanded = stage
    ∧ (s.tripped = false → s.inConfigFault = false → (t.valves.get h).duty = duty)
    ∧ otherHosesSame h s t ∧ sameOutside moving s t

/-- A hose in PRIMING whose pump is RUNNING has left it by the first row of R39 whose condition holds: the count at
Pstop, the tag timer at the grace, the count at Ptrim, or none of these. -/
def LeftPriming (h : HoseIx) (l : Live) (s t : State) : Prop :=
  (l.stopCount = 0 ∨ (l.stopCount : Int) ≤ (s.meters.get h).net → Ended h l .preset s t)
  ∧ (0 < l.stopCount → (s.meters.get h).net < l.stopCount →
    (∀ n, (s.hoses.get h).tagTimer = some n → s.cfg.tagGrace * 1000 ≤ n → Ended h l .tagLost s t)
    ∧ ((∀ n, (s.hoses.get h).tagTimer = some n → n < s.cfg.tagGrace * 1000) →
      ((l.trimCount : Int) ≤ (s.meters.get h).net → FlowsOn h l .trimming .trim (s.hoseCfg h).trimDuty s t)
      ∧ ((s.meters.get h).net < l.trimCount → FlowsOn h l .flowing .full (s.hoseCfg h).fullDuty s t)))

/-- A passed claim has taken effect: with the pump not RUNNING the hose is left in PRIMING; with it RUNNING the hose has
entered PRIMING so and left it at once (R35, R39). -/
def ClaimTakes (h : HoseIx) (machine : Nat) (hours : Option Nat) (limit : Nat) (flags : RecordFlags) (s t : State) :
    Prop :=
  ((∀ p, s.pumpOf (s.hoseCfg h).tank = some p → (s.pumps.get p).state ≠ .running) →
    Accepted h machine hours limit flags s t)
  ∧ ((∃ p, s.pumpOf (s.hoseCfg h).tank = some p ∧ (s.pumps.get p).state = .running) →
    ∃ m l, Accepted h machine hours limit flags s m ∧ (m.hoses.get h).live = some l ∧ LeftPriming h l m t)

/-! ## Phase moves (R1, R2) -/

/-- The phase inputs of a used channel of a powered station complete a move that leaves the levels `a` and `b`, judged
so: both levels stood qualified before (R10), and each presented level was taken where it was held for the minimum
phase width (R1). -/
def State.phaseMoves (s : State) (h : HoseIx) (levelA : Bool) (heldA : Nat) (levelB : Bool) (heldB : Nat) (a b : Bool)
    (move : PhaseMove) : Prop :=
  s.unit.powered = true ∧ (s.hoseCfg h).meterUsable = true
    ∧ (s.meters.get h).levelA.isSome ∧ (s.meters.get h).levelB.isSome
    ∧ qualifyLevel (s.meters.get h).levelA levelA heldA (s.hoseCfg h).phaseWidthUs = some a
    ∧ qualifyLevel (s.meters.get h).levelB levelB heldB (s.hoseCfg h).phaseWidthUs = some b
    ∧ judgeMove (phasePosition ((s.meters.get h).levelA.getD false) ((s.meters.get h).levelB.getD false))
        (phasePosition a b) = move

/-- The move of a step of +1 or of −1 (R2). -/
def stepMove (forward : Bool) : PhaseMove := if forward then .forward else .reverse

/-- The count a step adds (R2). -/
def stepCount (forward : Bool) : Int := if forward then 1 else -1

/-- A channel after a move to the levels `a` and `b`, whose quiet timer has restarted (R5). -/
def Meter.moved (m : Meter) (a b : Bool) : Meter := { m with levelA := some a, levelB := some b, quiet := 0 }

/-- A hose at a move of its meter: a running no-flow timer restarts (R41). -/
def Hose.moved (x : Hose) : Hose := { x with noFlow := x.noFlow.map fun _ => 0 }

/-- The channel after a step of a live delivery: the net count and the window count move on (R3, R7). -/
def Meter.stepped (m : Meter) (a b forward : Bool) : Meter :=
  { m.moved a b with
    window := m.window + stepCount forward
    net := max (-2147483648) (min 2147483647 (m.net + stepCount forward)) }

/-! ## Trips (R114 to R118, R129, R130) -/

/-- A spill input of a function is newly confirmed in alarm (R115, R116), or the EMERGENCY STOP button newly pressed
(R117). -/
def State.alarms (s : State) (c : Instr) (cause : Cause) : Prop :=
  (∃ i n, c = .spillInputConfirm i (!(s.cfg.spill.get i).senseOpen) n ∧ s.cfg.spillConfirm * 100 ≤ n
      ∧ s.tripUnit.inputs.get i ≠ .alarm ∧ ((s.cfg.spill.get i).function = .sump ∧ cause = .sump
        ∨ (s.cfg.spill.get i).function = .vapour ∧ cause = .vapour))
    ∨ ∃ n, c = .emergencyStop true n ∧ 100 ≤ n ∧ s.tripUnit.button ≠ .pressed ∧ cause = .estop

/-- A forward step of a hose without a live delivery brings its creep accumulator to the creep limit (R3, R6); `m` is the
channel after it. -/
def State.creeps (s : State) (c : Instr) (h : HoseIx) (m : Meter) : Prop :=
  ∃ la ha lb hb a b, c = .qualifiedPhaseChange h la ha lb hb ∧ s.phaseMoves h la ha lb hb a b .forward
    ∧ liveState (s.hoses.get h).state = false ∧ s.cfg.creepUsable = true
    ∧ m = { (s.meters.get h).moved a b with
        window := (s.meters.get h).window + 1, creep := min ((s.meters.get h).creep + 1) 4294967295 }
    ∧ s.cfg.creepLimit ≤ volume (s.hoseCfg h).meterK (m.creep : Nat)

/-- A rate window of a hose in FLOWING gives a rate above 125 % of the hose maximum flow (R7, R8); `m` is the channel
after it. -/
def State.bursts (s : State) (c : Instr) (h : HoseIx) (m : Meter) : Prop :=
  c = .rateWindowExpiry h ∧ 1000 ≤ (s.meters.get h).rateTimer ∧ (s.hoses.get h).state = .flowing
    ∧ m = { s.meters.get h with
        rate := if 0 < (s.meters.get h).window
          then ((s.meters.get h).window.toNat * 10000 + (s.hoseCfg h).meterK / 2) / (s.hoseCfg h).meterK else 0
        window := 0, rateTimer := 0 }
    ∧ 125 * (s.hoseCfg h).maxFlow < 100 * m.rate

/-- A tracking scan reports a height at or above the high-high level of the tank (R104 to R110); `b` is the tank's book once
it has taken the gauged volume. -/
def State.overfills (s : State) (c : Instr) (d : ProbeIx) (k : BookIx) (b : Book) : Prop :=
  ∃ count hs, c = .probeGateClose d count ∧ s.inConfigFault = false
    ∧ (∃ n, (s.probes.get d).gate = some n ∧ (s.cfg.probes.get d).gateMs ≤ n) ∧ (s.cfg.probes.get d).lower ≤ count ∧ count ≤ (s.cfg.probes.get d).upper
    ∧ s.bookOf (s.cfg.probes.get d).tank = some k
    ∧ hs = appendHeight (s.probes.get d).history (heightOf (s.cfg.probes.get d) count)
    ∧ ((s.probes.get d).state = .tracking ∨ (s.probes.get d).state = .acquiring
      ∧ settledHistory hs (s.cfg.probes.get d).settleBand = true)
    ∧ (s.cfg.books.get k).highHigh ≤ hs.sum / hs.length
    ∧ b = (s.books.get k).gauge
      (min (strapVolume (s.cfg.probes.get d).points (hs.sum / hs.length)) (s.cfg.books.get k).capacity)
      (s.cfg.books.get k).tolerance (s.link.join == .isolated)

/-- A command raises a zone-wide cause; `s1` is the state with what its own step first leaves in the meter channel
(R114 to R118). -/
def State.raises (s : State) (c : Instr) (cause : Cause) (s1 : State) : Prop :=
  s.unit.powered = true
    ∧ (s.alarms c cause ∧ s1 = s
      ∨ (∃ h m, s.creeps c h m ∧ cause = .creep ∧ s1 = (s.setMeter h m).setHose h (s.hoses.get h).moved)
      ∨ (∃ h m, s.bursts c h m ∧ cause = .hoseBreak ∧ s1 = s.setMeter h m)
      ∨ (∃ d k b, s.overfills c d k b) ∧ cause = .overfill ∧ s1 = s)

/-- A TRIP, or a BEACON with a stamp, of this zone stands to be taken by the trip unit, so that its sender's episode
enters the origin list (R124, R125, R127). -/
def State.bringsOrigin (s : State) (c : Instr) : Prop :=
  ∃ e rest, (∃ b, c = .trip ∧ s.offers .trip .tripUnit e rest ∧ tripBody e.frame.body = .sound b
      ∧ s.cfg.zone = some b.zone)
    ∨ ∃ b, c = .beacon ∧ s.offers .beacon .tripUnit e rest ∧ beaconBody e.frame.body = .sound b
      ∧ s.cfg.zone = some b.zone ∧ 0 < b.stamp

/-- The zone has entered TRIPPED (R13, R23, R55, R121): every valve is at duty 0, every contactor off with its
minimum-off timer started anew, a WAITING hose refused with TRIPPED, a delivery in PRIMING, FLOWING or TRIMMING ended with
TRIP, and every other hose as before. -/
def ShutDown (s t : State) : Prop :=
  t.tripped = true
    ∧ (∀ h, (t.valves.get h).duty = 0 ∧ ((s.valves.get h).duty ≠ 0 → (t.valves.get h).output = false))
    ∧ (∀ p, t.pumps.get p = (if (s.pumps.get p).state = .off ∨ (s.pumps.get p).state = .faulted then s.pumps.get p
        else { s.pumps.get p with state := .cooldown, timer := some 0 }))
    ∧ ∀ h, ((s.hoses.get h).state = .waiting →
        (t.hoses.get h).state = .refused .tripped ∧ (t.hoses.get h).lamp = true ∧ (t.hoses.get h).claimTimer = none)
      ∧ (∀ l, runState (s.hoses.get h).state = true → (s.hoses.get h).live = some l → HoseEnded h l .trip s t)
      ∧ ((s.hoses.get h).state ≠ .waiting → runState (s.hoses.get h).state = false →
        t.hoses.get h = s.hoses.get h)

/-- A command is a key operation: the keyswitch, qualified at rest, has stood at RESET for 100 ms (R129). -/
def State.keyTurned (s : State) (c : Instr) : Prop :=
  s.unit.powered = true ∧ s.tripUnit.keySwitch = .atRest ∧ ∃ n, c = .tripResetKey n ∧ 100 ≤ n

/-- A hose's proof is CLOSED and its meter quiet for the end-settle time, so that a key operation may return it to
service (R53). -/
def State.atRest (s : State) (h : HoseIx) : Prop :=
  (s.valves.get h).closed = true ∧ s.cfg.endSettle * 1000 ≤ (s.meters.get h).quiet

/-- The condition of a latched cause is present at a key operation, once the hoses that may have returned to service
(R130). -/
def State.stillPresent (s : State) : Cause → Prop
  | .sump => ∃ i, (s.cfg.spill.get i).function = .sump ∧ s.tripUnit.inputs.get i ≠ .atRest
  | .vapour => ∃ i, (s.cfg.spill.get i).function = .vapour ∧ s.tripUnit.inputs.get i ≠ .atRest
  | .estop => s.tripUnit.button ≠ .released
  | .overfill => ∃ c, (s.cfg.probes.get c).tank ≠ 0 ∧ (s.probes.get c).overfill = true
  | .hoseBreak => ∃ h, 125 * (s.hoseCfg h).maxFlow < 100 * (s.meters.get h).rate
  | .creep => False
  | .powerUp => False
  | .valveStuck => ∃ h, (s.hoses.get h).state = .outOfService .valveStuck ∧ ¬s.atRest h

/-- The commands that complete the condition of R15 at a hose: the proof becoming NOT_CLOSED with the zero-duty time at
the end-settle time, or the zero-duty time reaching it with the proof NOT_CLOSED. -/
def State.stuckBy (s : State) (h : HoseIx) (c : Instr) : Prop :=
  s.unit.powered = true ∧ (s.valves.get h).duty = 0 ∧ (s.valves.get h).stuckGiven = false
    ∧ ((∃ n, c = .valveProofChange h false n ∧ 100 ≤ n ∧ (s.valves.get h).closed = true
        ∧ s.cfg.endSettle * 1000 ≤ (s.valves.get h).zeroTime)
      ∨ c = .zeroDutySettle h ∧ (s.valves.get h).closed = false
        ∧ s.cfg.endSettle * 1000 ≤ (s.valves.get h).zeroTime)

/-- The peer table holds an address that is not LOST, so that the override keeps its origin entry (R133). -/
def State.heardFrom (s : State) (address : Nat) : Bool :=
  (s.peers.find? fun p => p.address == address).any fun p => p.state != .lost

/-- An origin list once a new episode has been entered or updated (R124): in the place of the entry of its address, at
the newest end, or there over the oldest LOST origin of a full list. -/
def Entered (s : State) (o : Origin) (os : List Origin) : Prop :=
  ((∃ q ∈ s.tripUnit.origins, q.address = o.address) →
    os = s.tripUnit.origins.map fun q => if q.address = o.address then o else q)
  ∧ ((∀ q ∈ s.tripUnit.origins, q.address ≠ o.address) →
    (s.tripUnit.origins.length < 16 → os = s.tripUnit.origins ++ [o])
    ∧ (16 ≤ s.tripUnit.origins.length →
      (∀ a q b, s.tripUnit.origins = a ++ q :: b → s.liveness q.address = some .lost →
        (∀ p ∈ a, s.liveness p.address ≠ some .lost) → os = a ++ b ++ [o])
      ∧ ((∀ q ∈ s.tripUnit.origins, s.liveness q.address ≠ some .lost) → os = s.tripUnit.origins)))

/-- A new origin finds the origin list full with no LOST origin to replace (R124). -/
def State.noPlaceFor (s : State) (address : Nat) : Prop :=
  16 ≤ s.tripUnit.origins.length
    ∧ ∀ q ∈ s.tripUnit.origins, q.address ≠ address ∧ s.liveness q.address ≠ some .lost

/-- An episode has been entered in the origin list as R124 gives, in a zone already TRIPPED with nothing else touched, and
an origin that found no place has been counted as a malformed frame and nothing more (R124, R185). -/
def EpisodeTaken (o : Origin) (s s1 t : State) : Prop :=
  t.tripped = true ∧ t.tripUnit = { s.tripUnit with origins := t.tripUnit.origins } ∧ Entered s o t.tripUnit.origins
    ∧ (s.tripped = true → sameOutside [.tripUnit, .counts] s1 t)
    ∧ (s.noPlaceFor o.address →
      t = s1.setCounts { s.counts with malformed := min (s.counts.malformed + 1) 65535 })
    ∧ (s.tripped = true → ¬s.noPlaceFor o.address → t.counts = s.counts)

/-! ## Outputs (R11 to R13, R18 to R23, R58) -/

/-- A hose's valve is driven as the manual gives: the commanded stage is that of the hose state (R11), the applied
duty that of the stage, 0 while the zone is TRIPPED or the station in CONFIG_FAULT (R13), and at duty 0 the output is
off (R12). -/
def State.drivenRight (s : State) (h : HoseIx) : Prop :=
  (s.valves.get h).commanded = stageOf (s.hoses.get h).state ∧ (s.valves.get h).duty = s.dutyFor h
    ∧ ((s.valves.get h).duty = 0 → (s.valves.get h).periodDuty = 0 ∧ (s.valves.get h).output = false)

/-- A pump's contactor is on only with the zone NORMAL (R23) and a run count above 0 on its tank (R18 to R22). -/
def State.pumpedRight (s : State) (p : PumpIx) : Prop :=
  (s.pumps.get p).state.contactor = true →
    s.tripped = false ∧ (s.pumpOf (s.cfg.pumpTanks.get p) = some p → 0 < s.runCount (s.cfg.pumpTanks.get p))

/-- In CONFIG_FAULT a hose is held in REFUSED with CONFIG or OUT_OF_SERVICE (R58). -/
def State.heldRight (s : State) (h : HoseIx) : Prop :=
  s.inConfigFault = true →
    (s.hoses.get h).state = .refused .config ∨ ∃ f, (s.hoses.get h).state = .outOfService f

/-- The outputs are safe: every valve, pump and held hose is as the manual gives. -/
def State.OutputsSafe (s : State) : Prop :=
  (∀ h, s.drivenRight h) ∧ (∀ p, s.pumpedRight p) ∧ (∀ h, s.heldRight h)

/-! ## Deliveries and the journal (R27, R139 to R143) -/

/-- The hoses that hold a live record. -/
def State.liveRecords (s : State) : List HoseIx := HoseIx.all.filter fun h => (s.hoses.get h).live.isSome

/-- A hose holds a live record exactly in PRIMING, FLOWING, TRIMMING and ENDING (R27), and the record an ending reason
exactly in ENDING (R27, R43). -/
def State.recordRight (s : State) (h : HoseIx) : Prop :=
  liveState (s.hoses.get h).state = (s.hoses.get h).live.isSome
    ∧ ∀ l, (s.hoses.get h).live = some l → (l.endReason.isSome ↔ (s.hoses.get h).state = .ending)

/-- Deliveries and the journal agree: each live delivery holds one reservation (R139); the places taken by uncollected
records, live deliveries and retained deliveries are at most 128 (R139, R151), and so are the records (R137); a
station with power and no CONFIG_FAULT retains no delivery, for its start has closed them (R57, R204); and in
CONFIG_FAULT no RESTART is being answered (R173, R176). -/
def State.DeliveriesKept (s : State) : Prop :=
  (∀ h, s.recordRight h) ∧ s.journal.reserved = s.liveRecords.length
    ∧ s.journal.uncollected + s.journal.reserved + s.retainedCount ≤ Config.journalCapacity
    ∧ s.journal.records.length ≤ Config.journalCapacity
    ∧ (s.unit.powered = true → s.inConfigFault = false → s.retainedCount = 0)
    ∧ (s.inConfigFault = true → ∀ e ∈ s.link.ordinary ++ s.link.reserved, e.purpose ≠ .restartReply)

/-! ## Collections (R59, R61, R83, R93, R106, R124, R157, R164, R167, R192) -/

/-- The roster: at most 256 records in ascending order of id, none repeated (R59). -/
def rosterInOrder (rs : List MachineRecord) : Prop :=
  rs.length ≤ Config.rosterCapacity ∧ rs.Pairwise fun a b => a.id < b.id

/-- The permits: at most 8, one for each machine and product (R83). -/
def permitsInOrder (ps : List Permit) : Prop :=
  ps.length ≤ Config.permitCapacity ∧ ps.Pairwise fun a b => ¬(a.machine = b.machine ∧ a.product = b.product)

/-- A recent-entry list: at most 16 keys, none twice (R93). -/
def keysInOrder (ks : List Key) : Prop := ks.length ≤ Config.recentCapacity ∧ ks.Nodup

/-- The origin list: at most 16 entries, one for each address (R124). -/
def originsInOrder (os : List Origin) : Prop :=
  os.length ≤ Config.originCapacity ∧ os.Pairwise fun a b => a.address ≠ b.address

/-- The peer table: at most 32 entries in ascending order of address (R192). -/
def peersInOrder (ps : List Peer) : Prop :=
  ps.length ≤ Config.peerCapacity ∧ ps.Pairwise fun a b => a.address < b.address

/-- The service windows of a record: at most 4, one for each product (R60, R61). -/
def windowsInOrder (ws : List ServiceWindow) : Prop :=
  ws.length ≤ 4 ∧ ws.Pairwise fun a b => a.product ≠ b.product

/-- The tanks a peer gauges: at most 4, each 1 to 64 (R192, R187). -/
def tanksInRange (ts : List Nat) : Prop := ts.length ≤ 4 ∧ ∀ t ∈ ts, 1 ≤ t ∧ t ≤ 64

/-- Every collection of the station keeps its capacity, its order and its rule on duplicates. -/
def State.CollectionsKept (s : State) : Prop :=
  rosterInOrder s.accounts.roster ∧ permitsInOrder s.accounts.permits
    ∧ (∀ k, keysInOrder (s.books.get k).recent)
    ∧ (∀ c, (s.probes.get c).history.length ≤ Config.historyCapacity)
    ∧ originsInOrder s.tripUnit.origins ∧ peersInOrder s.peers
    ∧ s.link.buffer.length ≤ Config.receiveCapacity
    ∧ s.link.ordinary.length ≤ Config.ordinaryCapacity ∧ s.link.reserved.length ≤ Config.reservedCapacity
    ∧ (∀ r ∈ s.accounts.roster, windowsInOrder r.windows) ∧ (∀ p ∈ s.peers, tanksInRange p.tanks)
    ∧ (s.link.ordinary.filter fun e => e.kind == .beacon).length ≤ 1

/-! ## Widths (8.3, R3, R4, R49, R62, R88, R206) -/

/-- The eight counts are 16 bits wide (8.3). -/
def Counts.fit (c : Counts) : Prop :=
  c.framing ≤ 65535 ∧ c.check ≤ 65535 ∧ c.overrun ≤ 65535 ∧ c.collision ≤ 65535 ∧ c.drop ≤ 65535
    ∧ c.malformed ≤ 65535 ∧ c.peerFull ≤ 65535 ∧ c.rosterFull ≤ 65535

/-- The anomaly counts of a record saturate at 255 (R62). -/
def Anomalies.fit (a : Anomalies) : Prop :=
  a.highBurn ≤ 255 ∧ a.hourJump ≤ 255 ∧ a.hoursBack ≤ 255 ∧ a.early ≤ 255 ∧ a.overdue ≤ 255

/-- A net count is signed, 32 bits (R3). -/
def netFits (n : Int) : Prop := -2147483648 ≤ n ∧ n ≤ 2147483647

/-- The counts that saturate keep their widths: the eight counts (8.3), net counts, phase errors and creep
accumulators (R3, R4), the retained net counts, learned overruns (R49), the anomaly counts of the records (R62), variance
counts (R88), local seconds (R206); and the fill quantities of the records their range (R60). -/
def State.WidthsKept (s : State) : Prop :=
  s.counts.fit
    ∧ (∀ h, netFits (s.meters.get h).net ∧ (s.meters.get h).phaseErrors ≤ 65535
      ∧ (s.meters.get h).creep ≤ 4294967295)
    ∧ (∀ h r, s.retained.get h = some r → netFits r.net)
    ∧ (∀ h, (s.hoses.get h).overrun ≤ 5000)
    ∧ (∀ r ∈ s.accounts.roster, r.anomalies.fit ∧ ∀ f, r.lastFill = some f → f.quantity ≤ 4294967295)
    ∧ (∀ k, (s.books.get k).varianceCount ≤ 65535)
    ∧ s.unit.seconds < 4294967296 ∧ s.unit.millis < 1000

end Sys2Proof.Machine
end

