-- ==== Sys2Proof/Certificates/Slice0/Obligations.lean ====
section
/-! DEFINITION. The statements about the station, chapter by chapter. "log <n>" marks what is the model's choice
(notes/assumptions/<n>.md). Throughout, the commands are events as the model presents them: an expiry acts once its timer
has come to its setting, and before that not at all (log 1); an input comes with its level and the time it was held (log
3); a frame command takes the oldest frame of the receive buffer (log 4). -/

open Sys2Proof Sys2Proof.Machine

/-! ## The machine -/

/-- A step takes the command at the front of the queue, on the state with the queue's rest. -/
def Obligations.StepTakesTheFrontCommand : Prop :=
  ∀ (c : Instr) (rest : List Instr) (s : State), s.pending = c :: rest → step s = exec c { s with pending := rest }

/-- With no command waiting the station acts of itself (the model's choice, log 2): without power nothing changes; where
the silence held has passed the first frame's access gap its attempt is queued (R159); else the commands that pass the
oldest buffered frame on are queued, one for each owner, or the one that discards it (R157, R175, R176); else the time base
moves on by one millisecond (R206), each running timer with it, and the expiries whose timers stand at their settings are
queued: those listed, and each only then. (That the on-time of a duty is rounded up to whole milliseconds: log 17.) -/
def Obligations.IdleStationPassesFramesAndTime : Prop :=
  (∀ s : State, s.pending = [] →
    (s.unit.powered = false → step s = .next s)
    ∧ (∀ n e, s.unit.powered = true → s.link.driver = .released → s.mayDrive = true → s.link.silence = some n →
      s.link.first = some e → accessGap s.ownAddress e ≤ n → step s = .next { s with pending := [.accessGapReached n] })
    ∧ (s.unit.powered = true →
      (s.link.driver ≠ .released ∨ s.mayDrive = false ∨ s.link.silence = none ∨ s.link.first = none
        ∨ ∃ n e, s.link.silence = some n ∧ s.link.first = some e ∧ n < accessGap s.ownAddress e) →
      (∀ e rest, s.link.buffer = e :: rest → step s = .next { s with pending := passOn e s.inConfigFault })
      ∧ (s.link.buffer = [] → s.unit.millis < 1000 → s.unit.seconds < 4294967296 →
        ∃ t, step s = .next t ∧ t.clock = (s.clock + 1) % 4294967296000 ∧ t.pending = expiries t
          ∧ (∀ h, (t.meters.get h).quiet = (s.meters.get h).quiet + 1
            ∧ (t.meters.get h).rateTimer = (s.meters.get h).rateTimer + 1
            ∧ (t.meters.get h).net = (s.meters.get h).net)
          ∧ (∀ h, (t.valves.get h).flowPast = (s.valves.get h).flowPast.map (· + 1)
            ∧ ((s.valves.get h).duty = 0 → (t.valves.get h).zeroTime = (s.valves.get h).zeroTime + 1)
            ∧ ((s.valves.get h).periodDuty ≠ 0 → (t.valves.get h).periodTime = (s.valves.get h).periodTime + 1))
          ∧ (∀ p, t.pumps.get p = { s.pumps.get p with timer := (s.pumps.get p).timer.map (· + 1) })
          ∧ (∀ h, t.hoses.get h = { s.hoses.get h with
              claimTimer := (s.hoses.get h).claimTimer.map (· + 1), tagTimer := (s.hoses.get h).tagTimer.map (· + 1)
              noFlow := (s.hoses.get h).noFlow.map (· + 1), flash := (s.hoses.get h).flash.map (· + 1) })
          ∧ (∀ k, t.books.get k = { s.books.get k with ageTimer := (s.books.get k).ageTimer.map (· + 1) })
          ∧ (∀ c, t.probes.get c = { s.probes.get c with gate := (s.probes.get c).gate.map (· + 1) })
          ∧ t.creepTimer = s.creepTimer + 1 ∧ t.beaconTimer = s.beaconTimer + 1
          ∧ t.gauging = { s.gauging with
              scanTimer := s.gauging.scanTimer + 1, conflictTimer := s.gauging.conflictTimer.map (· + 1) }
          ∧ t.tripUnit = { s.tripUnit with overrideTimer := s.tripUnit.overrideTimer.map (· + 1) }
          ∧ t.link = { s.link with
              joinTimer := s.link.joinTimer.map (· + 1), isolationTimer := s.link.isolationTimer.map (· + 1) }
          ∧ t.peers = (s.peers.map fun p => { p with
              quietTimer := p.quietTimer.map (· + 1), lostTimer := p.lostTimer.map (· + 1) })
          ∧ sameOutside [.unit, .creepTimer, .meters, .valves, .pumps, .hoses, .books, .probes, .gauging, .tripUnit,
              .link, .peers, .beaconTimer, .pending] s t)))
  ∧ (∀ (e : RxEntry) (fault : Bool),
    (kindOfCode e.frame.kind = none → passOn e fault = [.unknownKindFrame])
    ∧ ∀ k, kindOfCode e.frame.kind = some k →
      (familyOf k = .reply → passOn e fault = [.unknownKindFrame])
      ∧ (verdict e.frame ≠ .sound → familyOf k ≠ .reply → ∃ b ∈ mainOwners k, passOn e fault = [takeCommand k b])
      ∧ (verdict e.frame = .sound → e.taken = [] →
        (k = .beacon → passOn e false = [.beacon, .peerTableUpdate] ∧ passOn e true = [.peerTableUpdate])
        ∧ (k = .trip → passOn e false = [.trip, .peerTableUpdate])
        ∧ (k = .clear → passOn e false = [.clear, .peerTableUpdate])
        ∧ (k = .draw → passOn e false = [.drawBook, .drawAccount, .peerTableUpdate])
        ∧ (k = .level → passOn e false = if e.frame.src ≤ 47 then [.level, .peerTableUpdate] else [.level])
        ∧ (k = .receipt → passOn e false = [.receipt]) ∧ (k = .rosterSet → passOn e false = [.rosterSet])
        ∧ (k = .rosterRemove → passOn e false = [.rosterRemove]) ∧ (k = .permit → passOn e false = [.permit])
        ∧ (k = .accountRead → passOn e false = [.accountRead]) ∧ (k = .journalRead → passOn e false = [.journalRead])
        ∧ (k = .collect → passOn e false = [.collect]) ∧ (k = .stopHose → passOn e false = [.stopHose])
        ∧ (k = .restart → passOn e false = [.restart]) ∧ (k = .statusReq → passOn e fault = [.statusReq])
        ∧ (k = .identReq → passOn e fault = [.identReq]) ∧ (k = .time → passOn e fault = [.time])))
  ∧ ∀ t : State,
    (∀ h, (.rateWindowExpiry h ∈ expiries t ↔ (t.meters.get h).rateTimer = 1000)
      ∧ (.meterSettled h ∈ expiries t ↔ (t.meters.get h).quiet = t.cfg.endSettle * 1000)
      ∧ (.dutyOnTimeEnd h ∈ expiries t ↔ (t.valves.get h).periodDuty ≠ 0 ∧ (t.valves.get h).periodTime
        = ((t.valves.get h).periodDuty * (t.hoseCfg h).drivePeriodMs + 99) / 100)
      ∧ (.drivePeriodStart h ∈ expiries t ↔ (t.valves.get h).periodDuty ≠ 0
        ∧ (t.valves.get h).periodTime = (t.hoseCfg h).drivePeriodMs)
      ∧ (.zeroDutySettle h ∈ expiries t ↔ (t.valves.get h).duty = 0
        ∧ (t.valves.get h).zeroTime = t.cfg.endSettle * 1000)
      ∧ (.flowPastExpiry h ∈ expiries t ↔ (t.valves.get h).flowPast = some (t.cfg.endingLimit * 1000))
      ∧ (.claimTimerExpiry h ∈ expiries t ↔ (t.hoses.get h).claimTimer = some (t.cfg.claimTime * 1000))
      ∧ (.tagGraceExpiry h ∈ expiries t ↔ (t.hoses.get h).tagTimer = some (t.cfg.tagGrace * 1000))
      ∧ (.noFlowTimeout h ∈ expiries t ↔ (t.hoses.get h).noFlow = some (t.cfg.noFlowTime * 1000))
      ∧ (.lampFlashToggle h ∈ expiries t ↔ (t.hoses.get h).flash = some 500))
    ∧ (∀ p, (.pumpSettleExpiry p ∈ expiries t ↔
        (t.pumps.get p).state = .starting ∧ (t.pumps.get p).timer = some (t.cfg.pumpSettle * 1000))
      ∧ (.minimumOffExpiry p ∈ expiries t ↔
        (t.pumps.get p).state = .cooldown ∧ (t.pumps.get p).timer = some (t.cfg.pumpMinimumOff * 1000)))
    ∧ (∀ k, .gaugeAgeExpiry k ∈ expiries t ↔ (t.books.get k).ageTimer = some (t.cfg.gaugeAgeLimit * 1000))
    ∧ (∀ m p, .permitExpiry m p ∈ expiries t ↔ t.unit.millis = 0
      ∧ ∃ q ∈ t.accounts.permits, q.machine = m ∧ q.product = p ∧ q.expiry = t.unit.seconds)
    ∧ (∀ a, (.peerQuietExpiry a ∈ expiries t ↔ ∃ p ∈ t.peers, p.address = a ∧ p.state = .heard
        ∧ p.quietTimer = some (2 * p.interval * 1000))
      ∧ (.peerLostExpiry a ∈ expiries t ↔
        ∃ p ∈ t.peers, p.address = a ∧ p.lostTimer = some (t.cfg.lostTimeout * 1000)))
    ∧ (.creepWindowExpiry ∈ expiries t ↔ t.creepTimer = t.cfg.creepWindow * 1000)
    ∧ (.conflictTimerExpiry ∈ expiries t ↔ t.gauging.conflictTimer = some (t.cfg.gaugeAgeLimit * 1000))
    ∧ (.scanTimerExpiry ∈ expiries t ↔ t.gauging.scanTimer = t.cfg.scanInterval * 1000)
    ∧ (.overrideHoldExpiry ∈ expiries t ↔ t.tripUnit.overrideTimer = some 5000)
    ∧ (.joinTimerExpiry ∈ expiries t ↔ t.link.joinTimer = some (t.cfg.joinTime * 1000))
    ∧ (.isolationHoldExpiry ∈ expiries t ↔ t.link.isolationTimer = some (t.cfg.isolationHold * 1000))
    ∧ (.beaconTimerExpiry ∈ expiries t ↔ t.beaconTimer = t.cfg.beaconInterval * 1000)

/-- Every command is taken in every state with a next state, and changes only the parts its `touches` list names: no
command stops the station. (One that finds no power, no timer at its setting or no frame for it is taken without effect:
logs 7, 1 and 4.) -/
def Obligations.EveryCommandCompletesInItsFrame : Prop :=
  ∀ (c : Instr) (s : State), Takes c s (sameOutside (touches c) s)

/-! ## Invariants -/

/-- Every step keeps the outputs safe: valves at the stage of the hose state and shut while TRIPPED or in CONFIG_FAULT
(R11 to R13), contactors on only in NORMAL with a run count (R18 to R23), hoses of CONFIG_FAULT held (R58). -/
def Obligations.EveryStepKeepsTheOutputsSafe : Prop :=
  ∀ s t : State, s.OutputsSafe → step s = .next t → t.OutputsSafe

/-- Every step keeps the accounting of deliveries: a live record exactly in the live states (R27), one reservation for
each, and at most 128 places taken (R139). -/
def Obligations.EveryStepKeepsTheDeliveries : Prop :=
  ∀ s t : State, s.DeliveriesKept → step s = .next t → t.DeliveriesKept

/-- Every step keeps each collection within its capacity, in its order and without duplicates: the roster and each record's
service windows, permits, recent entries, heights, origins, the peer table and each peer's tanks, the receive buffer, the
transmit queue with at most one BEACON in it (R59 to R61, R83, R93, R106, R124, R157, R164, R167, R192). -/
def Obligations.EveryStepKeepsTheCollections : Prop :=
  ∀ s t : State, s.CollectionsKept → step s = .next t → t.CollectionsKept

/-- Every step keeps the widths of the counts that saturate (8.3, R3, R4, R49, R62, R88) and of local seconds
(R206), and the range of the records' fill quantities (R60; a fill above it is a free value of the range: log 34). -/
def Obligations.EveryStepKeepsTheWidths : Prop :=
  ∀ s t : State, s.WidthsKept → step s = .next t → t.WidthsKept

/-- The station before its first power-on (the model's reset, log 6) meets the four invariants. -/
def Obligations.ResetMeetsTheInvariants : Prop :=
  State.reset.OutputsSafe ∧ State.reset.DeliveriesKept ∧ State.reset.CollectionsKept ∧ State.reset.WidthsKept

/-! ## Metering (1.1) -/

/-- QUALIFIED_PHASE_CHANGE: a step of a hose without a live delivery moves the window count and the creep accumulator,
a reverse step leaving 0 at 0, and restarts the quiet timer; nothing else changes below the creep limit. A forward step
that brings V of the accumulator to the limit latches CREEP, and the zone is TRIPPED. -/
def Obligations.StepOutsideADeliveryMovesTheCreepAccumulator : Prop :=
  (∀ (s : State) (h : HoseIx) (la : Bool) (ha : Nat) (lb : Bool) (hb : Nat) (a b forward : Bool),
    s.phaseMoves h la ha lb hb a b (stepMove forward) → liveState (s.hoses.get h).state = false →
    (forward = true → s.cfg.creepUsable = true →
      volume (s.hoseCfg h).meterK (min ((s.meters.get h).creep + 1) 4294967295 : Nat) < s.cfg.creepLimit) →
    exec (.qualifiedPhaseChange h la ha lb hb) s = .next
      ((s.setMeter h { (s.meters.get h).moved a b with
          window := (s.meters.get h).window + stepCount forward
          creep := if forward then min ((s.meters.get h).creep + 1) 4294967295
            else (s.meters.get h).creep - 1 }).setHose h (s.hoses.get h).moved))
  ∧ (∀ (s : State) (h : HoseIx) (la : Bool) (ha : Nat) (lb : Bool) (hb : Nat) (a b : Bool),
    s.phaseMoves h la ha lb hb a b .forward → liveState (s.hoses.get h).state = false → s.cfg.creepUsable = true →
    s.cfg.creepLimit ≤ volume (s.hoseCfg h).meterK (min ((s.meters.get h).creep + 1) 4294967295 : Nat) →
    Takes (.qualifiedPhaseChange h la ha lb hb) s fun t =>
      t.tripUnit.causes.creep = true ∧ t.tripped = true
        ∧ (t.meters.get h).creep = min ((s.meters.get h).creep + 1) 4294967295
        ∧ (t.meters.get h).window = (s.meters.get h).window + stepCount true)

/-- QUALIFIED_PHASE_CHANGE: a step of a live delivery adds to its net count, saturating, and to the window count, and
changes nothing else below the thresholds of its state. At or above Pstop in FLOWING or TRIMMING the delivery ends with
PRESET and P_close the count reached; at or above Ptrim alone in FLOWING it enters TRIMMING at the trim stage. A step after which the
available stock of the tank's CURRENT book is at or below the dead level ends every delivery in PRIMING, FLOWING or
TRIMMING on the tank with STOCK; where the step brings Pstop too, which of the two reasons its own delivery has is free
(log 13). -/
def Obligations.StepsOfALiveDeliveryMeetItsThresholds : Prop :=
  (∀ (s : State) (h : HoseIx) (la : Bool) (ha : Nat) (lb : Bool) (hb : Nat) (a b forward : Bool) (l : Live),
    s.phaseMoves h la ha lb hb a b (stepMove forward) → (s.hoses.get h).live = some l →
    ((s.hoses.get h).state = .priming ∨ (s.hoses.get h).state = .ending
      ∨ (s.hoses.get h).state = .flowing ∧ ((s.meters.get h).stepped a b forward).net < l.trimCount
        ∧ ((s.meters.get h).stepped a b forward).net < l.stopCount
      ∨ (s.hoses.get h).state = .trimming ∧ ((s.meters.get h).stepped a b forward).net < l.stopCount) →
    ((s.setMeter h ((s.meters.get h).stepped a b forward)).stockGone l.tank = false
      ∨ (s.hoses.get h).state = .ending ∧ ∀ g, g ≠ h → s.liveTank g ≠ some l.tank) →
    exec (.qualifiedPhaseChange h la ha lb hb) s = .next
      ((s.setMeter h ((s.meters.get h).stepped a b forward)).setHose h (s.hoses.get h).moved))
  ∧ (∀ (s : State) (h : HoseIx) (la : Bool) (ha : Nat) (lb : Bool) (hb : Nat) (a b forward : Bool) (l : Live),
    s.phaseMoves h la ha lb hb a b (stepMove forward) → (s.hoses.get h).live = some l →
    (s.setMeter h ((s.meters.get h).stepped a b forward)).stockGone l.tank = false →
    (((s.hoses.get h).state = .flowing ∨ (s.hoses.get h).state = .trimming) → 0 < s.cfg.endSettle →
      (l.stopCount : Int) ≤ ((s.meters.get h).stepped a b forward).net →
      Takes (.qualifiedPhaseChange h la ha lb hb) s fun t =>
        (t.hoses.get h).state = .ending
          ∧ (t.hoses.get h).live = some { l with
              endReason := some .preset
              closeCount := some (l.closeCount.getD ((s.meters.get h).stepped a b forward).net) }
          ∧ (t.valves.get h).commanded = .shut ∧ (t.valves.get h).duty = 0 ∧ (t.valves.get h).flowPast = some 0
          ∧ otherHosesSame h s t ∧ sameOutside moving s t)
    ∧ ((s.hoses.get h).state = .flowing → (l.trimCount : Int) ≤ ((s.meters.get h).stepped a b forward).net →
      ((s.meters.get h).stepped a b forward).net < l.stopCount →
      Takes (.qualifiedPhaseChange h la ha lb hb) s fun t =>
        (t.hoses.get h).state = .trimming ∧ (t.hoses.get h).live = some l
          ∧ (t.valves.get h).commanded = .trim
          ∧ (s.tripped = false → s.inConfigFault = false → (t.valves.get h).duty = (s.hoseCfg h).trimDuty)
          ∧ t.meters.get h = (s.meters.get h).stepped a b forward
          ∧ otherHosesSame h s t ∧ sameOutside moving s t))
  ∧ (∀ (s s1 : State) (h : HoseIx) (la : Bool) (ha : Nat) (lb : Bool) (hb : Nat) (a b forward : Bool) (l : Live)
    (k : BookIx) (v : Nat),
    s.phaseMoves h la ha lb hb a b (stepMove forward) → (s.hoses.get h).live = some l →
    s1 = (s.setMeter h ((s.meters.get h).stepped a b forward)).setHose h (s.hoses.get h).moved →
    s.bookOf l.tank = some k → (s.books.get k).state = .current → (s.books.get k).value = some v →
    v - s1.drawnFrom l.tank ≤ (s.cfg.books.get k).dead →
    ((s.hoses.get h).state = .priming ∨ (s.hoses.get h).state = .ending
        ∨ ((s.hoses.get h).state = .flowing ∨ (s.hoses.get h).state = .trimming)
          ∧ (s1.meters.get h).net < l.stopCount →
      Takes (.qualifiedPhaseChange h la ha lb hb) s (StockEnds l.tank s1))
    ∧ (((s.hoses.get h).state = .flowing ∨ (s.hoses.get h).state = .trimming) → 0 < s.cfg.endSettle →
      (l.stopCount : Int) ≤ (s1.meters.get h).net →
      Takes (.qualifiedPhaseChange h la ha lb hb) s fun t =>
        (t.hoses.get h).state = .ending
          ∧ (t.hoses.get h).live = some { l with
              endReason := some (if Config.stockWatchFirst s.choices then .stock else .preset)
              closeCount := some (l.closeCount.getD (s1.meters.get h).net) }
          ∧ (t.valves.get h).duty = 0 ∧ t.choices = s.choices + 1
          ∧ (∀ g m, g ≠ h → runState (s.hoses.get g).state = true → (s.hoses.get g).live = some m → m.tank = l.tank →
            HoseEnded g m .stock s1 t)
          ∧ (∀ g, g ≠ h → runState (s.hoses.get g).state = false ∨ s.liveTank g ≠ some l.tank →
            t.hoses.get g = s.hoses.get g)
          ∧ ((∀ g, g ≠ h → s.liveTank g ≠ some l.tank) → sameOutside (.choices :: moving) s t)))

/-- QUALIFIED_PHASE_CHANGE: an invalid transition adds no step; the phase error count rises by 1, saturating, and only
at the transition that takes it above the limit a meter fault is signalled: a hose in IDLE, WAITING, DONE or REFUSED goes
to OUT_OF_SERVICE with METER (that its lamp begins lit is the model's choice, log 16), a run delivery ends with METER and
its hose is marked, a hose in ENDING is only marked, and one in OUT_OF_SERVICE is not changed. -/
def Obligations.InvalidTransitionsRaiseThePhaseErrorCount : Prop :=
  ∀ (s : State) (h : HoseIx) (la : Bool) (ha : Nat) (lb : Bool) (hb : Nat) (a b : Bool) (m : Meter),
    s.phaseMoves h la ha lb hb a b .invalid →
    m = { (s.meters.get h).moved a b with phaseErrors := min ((s.meters.get h).phaseErrors + 1) 65535 } →
    (¬((s.meters.get h).phaseErrors ≤ (s.hoseCfg h).phaseErrorLimit ∧ (s.hoseCfg h).phaseErrorLimit < m.phaseErrors) →
      exec (.qualifiedPhaseChange h la ha lb hb) s = .next ((s.setMeter h m).setHose h (s.hoses.get h).moved))
    ∧ ((s.meters.get h).phaseErrors ≤ (s.hoseCfg h).phaseErrorLimit → (s.hoseCfg h).phaseErrorLimit < m.phaseErrors →
      ((s.hoses.get h).state = .idle ∨ (s.hoses.get h).state = .waiting ∨ (∃ r, (s.hoses.get h).state = .done r)
          ∨ (∃ r, (s.hoses.get h).state = .refused r) →
        Takes (.qualifiedPhaseChange h la ha lb hb) s fun t =>
          (t.hoses.get h).state = .outOfService .meter ∧ (t.hoses.get h).lamp = true
            ∧ (t.hoses.get h).flash = some 0
            ∧ (t.hoses.get h).claimTimer = none ∧ (t.meters.get h).phaseErrors = m.phaseErrors
            ∧ (t.meters.get h).net = (s.meters.get h).net ∧ otherHosesSame h s t ∧ sameOutside moving s t)
      ∧ (runState (s.hoses.get h).state = true → 0 < s.cfg.endSettle → ∀ l, (s.hoses.get h).live = some l →
        Takes (.qualifiedPhaseChange h la ha lb hb) s fun t =>
          (t.hoses.get h).state = .ending ∧ (t.hoses.get h).meterMark = true
            ∧ (t.hoses.get h).live = some { l with
                endReason := some .meter, closeCount := some (l.closeCount.getD (s.meters.get h).net) }
            ∧ (t.meters.get h).phaseErrors = m.phaseErrors ∧ otherHosesSame h s t ∧ sameOutside moving s t)
      ∧ ((s.hoses.get h).state = .ending → exec (.qualifiedPhaseChange h la ha lb hb) s
        = .next ((s.setMeter h m).setHose h { (s.hoses.get h).moved with meterMark := true }))
      ∧ ((∃ f, (s.hoses.get h).state = .outOfService f) → exec (.qualifiedPhaseChange h la ha lb hb) s
        = .next ((s.setMeter h m).setHose h (s.hoses.get h).moved)))

/-- CREEP_WINDOW_EXPIRY clears every creep accumulator and restarts the window; a latched CREEP stays. At
RATE_WINDOW_EXPIRY the rate becomes V of a positive window count and 0 otherwise, and the window starts again; 100 times
a rate above 125 times the maximum flow in FLOWING latches HOSE_BREAK, and in no other hose state. -/
def Obligations.MeterWindowsExpire : Prop :=
  (∀ s : State, s.unit.powered = true →
    (s.cfg.creepWindow * 1000 ≤ s.creepTimer → exec .creepWindowExpiry s
      = .next { s with creepTimer := 0, meters := s.meters.map fun m => { m with creep := 0 } })
    ∧ (s.creepTimer < s.cfg.creepWindow * 1000 → exec .creepWindowExpiry s = .next s))
  ∧ (∀ (s : State) (h : HoseIx) (m : Meter), s.unit.powered = true →
    m = { s.meters.get h with
      rate := if 0 < (s.meters.get h).window
        then ((s.meters.get h).window.toNat * 10000 + (s.hoseCfg h).meterK / 2) / (s.hoseCfg h).meterK else 0
      window := 0, rateTimer := 0 } →
    ((s.meters.get h).rateTimer < 1000 → exec (.rateWindowExpiry h) s = .next s)
    ∧ (1000 ≤ (s.meters.get h).rateTimer →
      (¬((s.hoses.get h).state = .flowing ∧ 125 * (s.hoseCfg h).maxFlow < 100 * m.rate) →
        exec (.rateWindowExpiry h) s = .next (s.setMeter h m))
      ∧ ((s.hoses.get h).state = .flowing → 125 * (s.hoseCfg h).maxFlow < 100 * m.rate →
        Takes (.rateWindowExpiry h) s fun t =>
          t.tripUnit.causes.hoseBreak = true ∧ t.tripped = true ∧ (t.meters.get h).rate = m.rate
            ∧ (t.meters.get h).window = 0)))

/-- The conversions between counts and volumes: V is the volume to the nearest millilitre, an exact half rounded up, and
0 below 0 (R9); the step threshold of a volume is the least count whose exact volume reaches it (R38); a PRESET close
moves the learned overrun a quarter of the way to the observed one, truncated, within 0 to 5,000 (R49). -/
def Obligations.VolumesThresholdsAndLearning : Prop :=
  (∀ (k : Nat) (p : Int), 0 < k →
    (p < 0 → volume k p = 0)
    ∧ (0 ≤ p → 2 * (volume k p * k) ≤ 2 * (p.toNat * 10000) + k ∧ 2 * (p.toNat * 10000) + k < 2 * ((volume k p + 1) * k)))
  ∧ (∀ k v : Nat, v * k ≤ stepsFor k v * 10000 ∧ ∀ p, v * k ≤ p * 10000 → stepsFor k v ≤ p)
  ∧ (∀ o obs : Nat, o ≤ 5000 →
    (o ≤ obs → learned o obs = min 5000 (o + (obs - o) / 4)) ∧ (obs ≤ o → learned o obs = o - (o - obs) / 4))

/-! ## Closes (1.1, 2.6) -/

/-- METER_SETTLED at the end-settle time: a delivery in ENDING closes with the count as it stands and is handed on by its
quantity; the hose goes to OUT_OF_SERVICE where marked, else to DONE or IDLE by the hook, and a PRESET close teaches its
overrun. In any other hose state the quiet meter stops the flow-past timer and no more. A meter whose quiet time has
started again is not settled, and nothing happens. -/
def Obligations.MeterSettledClosesTheDelivery : Prop :=
  (∀ (s : State) (h : HoseIx) (l : Live) (r : EndReason), s.unit.powered = true →
    s.cfg.endSettle * 1000 ≤ (s.meters.get h).quiet →
    (s.hoses.get h).state = .ending → (s.hoses.get h).live = some l → l.endReason = some r →
    (∀ g, g ≠ h → s.liveTank g ≠ some l.tank) →
    Takes (.meterSettled h) s fun t =>
      (t.hoses.get h).state
          = (if (s.hoses.get h).meterMark then .outOfService .meter
            else if (s.hoses.get h).hook = some .offHook then .done r else .idle)
        ∧ (t.hoses.get h).live = none ∧ (t.hoses.get h).meterMark = false
        ∧ (t.hoses.get h).overrun
          = (if r = .preset then learned l.overrunUsed
              (observedOverrun (s.hoseCfg h).meterK (l.closeCount.getD (s.meters.get h).net) (s.meters.get h).net)
            else (s.hoses.get h).overrun)
        ∧ (t.meters.get h).net = (s.meters.get h).net ∧ (t.valves.get h).flowPast = none
        ∧ ClosedAs h l r s t ∧ otherHosesSame h s t ∧ sameOutside closing s t)
  ∧ (∀ (s : State) (h : HoseIx), s.unit.powered = true →
    ((s.hoses.get h).state ≠ .ending → s.cfg.endSettle * 1000 ≤ (s.meters.get h).quiet →
      exec (.meterSettled h) s = .next (s.setValve h { s.valves.get h with flowPast := none }))
    ∧ ((s.meters.get h).quiet < s.cfg.endSettle * 1000 → exec (.meterSettled h) s = .next s))

/-! ## Valve drive (1.2) -/

/-- DRIVE_PERIOD_START and DUTY_ON_TIME_END: where no period is in progress, or at the end of the one that is, a period
begins with the duty applied and its output on; the output goes off at the end of the on-time and stays on at 100 %; at
duty 0 no period begins. (That the on-time, the duty's fraction of the period, is rounded up to whole milliseconds is the
model's choice: log 17.) -/
def Obligations.DrivePeriodsSwitchTheOutput : Prop :=
  ∀ (s : State) (h : HoseIx), s.unit.powered = true →
    ((s.valves.get h).duty ≠ 0 →
      ((s.valves.get h).periodDuty = 0 ∨ (s.hoseCfg h).drivePeriodMs ≤ (s.valves.get h).periodTime) →
      exec (.drivePeriodStart h) s = .next
        (s.setValve h { s.valves.get h with periodDuty := (s.valves.get h).duty, periodTime := 0, output := true }))
    ∧ ((s.valves.get h).duty = 0 ∨ (s.valves.get h).periodDuty ≠ 0
        ∧ (s.valves.get h).periodTime < (s.hoseCfg h).drivePeriodMs →
      exec (.drivePeriodStart h) s = .next s)
    ∧ (0 < (s.valves.get h).periodDuty → (s.valves.get h).periodDuty < 100 →
      ((s.valves.get h).periodDuty * (s.hoseCfg h).drivePeriodMs + 99) / 100 ≤ (s.valves.get h).periodTime →
      exec (.dutyOnTimeEnd h) s = .next (s.setValve h { s.valves.get h with output := false }))
    ∧ ((s.valves.get h).periodDuty = 0 ∨ 100 ≤ (s.valves.get h).periodDuty ∨ (s.valves.get h).periodTime
        < ((s.valves.get h).periodDuty * (s.hoseCfg h).drivePeriodMs + 99) / 100 →
      exec (.dutyOnTimeEnd h) s = .next s)

/-- VALVE_PROOF_CHANGE, ZERO_DUTY_SETTLE and FLOW_PAST_EXPIRY: a proof held for 100 ms is taken, CLOSED ending the
condition of R15, and one held for less is discarded; a NOT_CLOSED proof that does not complete the condition is only
recorded, and a zero-duty time that does not has no effect; the condition's completion takes a hose to OUT_OF_SERVICE with
VALVE_STUCK, which is latched, closing a delivery in ENDING with its first reason and one in PRIMING with VALVE; valve
stuck by flow does so to one in ENDING; before their settings the two timers do nothing. The hose learns nothing. (The held
time is the command's: log 3; that the lamp begins lit: log 16.) -/
def Obligations.StuckValvesLeaveService : Prop :=
  ((∀ (s : State) (h : HoseIx) (n : Nat), s.unit.powered = true →
    (n < 100 → ∀ c, exec (.valveProofChange h c n) s = .next s)
    ∧ (100 ≤ n → (s.valves.get h).closed = false →
      exec (.valveProofChange h true n) s
        = .next (s.setValve h { s.valves.get h with closed := true, stuckGiven := false }))
    ∧ (100 ≤ n → exec (.valveProofChange h (s.valves.get h).closed n) s = .next s)
    ∧ (100 ≤ n → (s.valves.get h).closed = true →
      ((s.valves.get h).duty ≠ 0 ∨ (s.valves.get h).zeroTime < s.cfg.endSettle * 1000
        ∨ (s.valves.get h).stuckGiven = true ∨ ∃ f, (s.hoses.get h).state = .outOfService f) →
      exec (.valveProofChange h false n) s = .next (s.setValve h { s.valves.get h with closed := false }))
    ∧ ((s.valves.get h).duty ≠ 0 ∨ (s.valves.get h).zeroTime < s.cfg.endSettle * 1000
        ∨ (s.valves.get h).closed = true ∨ (s.valves.get h).stuckGiven = true
        ∨ (∃ f, (s.hoses.get h).state = .outOfService f) →
      exec (.zeroDutySettle h) s = .next s)
    ∧ ((∀ m, (s.valves.get h).flowPast = some m → m < s.cfg.endingLimit * 1000) →
      exec (.flowPastExpiry h) s = .next s))
  ∧ (∀ (s : State) (h : HoseIx) (c : Instr), s.stuckBy h c →
    ((s.hoses.get h).state = .idle ∨ (s.hoses.get h).state = .waiting ∨ (∃ r, (s.hoses.get h).state = .done r)
      ∨ ∃ r, (s.hoses.get h).state = .refused r) →
    Takes c s fun t =>
      (t.hoses.get h).state = .outOfService .valveStuck ∧ (t.hoses.get h).lamp = true
        ∧ (t.hoses.get h).flash = some 0 ∧ (t.hoses.get h).claimTimer = none
        ∧ (t.valves.get h).closed = false ∧ (t.valves.get h).stuckGiven = true
        ∧ t.tripUnit.causes.valveStuck = true ∧ t.tripped = true))
  ∧ (∀ (s : State) (h : HoseIx) (c : Instr) (l : Live) (r : EndReason),
    (s.hoses.get h).live = some l → (∀ g, g ≠ h → liveState (s.hoses.get g).state = false) →
    ((s.hoses.get h).state = .ending ∧ l.endReason = some r
        ∧ (s.stuckBy h c ∨ s.unit.powered = true ∧ ∃ m, (s.valves.get h).flowPast = some m
          ∧ s.cfg.endingLimit * 1000 ≤ m ∧ c = .flowPastExpiry h)
      ∨ (s.hoses.get h).state = .priming ∧ r = .valve ∧ s.stuckBy h c) →
    Takes c s fun t =>
      (t.hoses.get h).state = .outOfService .valveStuck ∧ (t.hoses.get h).live = none
        ∧ (t.hoses.get h).overrun = (s.hoses.get h).overrun ∧ (t.valves.get h).flowPast = none
        ∧ t.tripUnit.causes.valveStuck = true ∧ t.tripped = true ∧ ClosedAs h l r s t)

/-! ## Pumps (1.3) -/

/-- PUMP_SETTLE_EXPIRY with proof present: the pump enters RUNNING, and a hose of its tank waiting in PRIMING leaves it by
the first row of R39 whose condition holds: to ENDING with PRESET, to ENDING with TAG_LOST, to TRIMMING, or to FLOWING at
full duty with its no-flow timer started. An ending whose meter has been quiet for the end-settle time closes at its entry
to ENDING. Before the settle time, and in any other state of the pump, nothing happens. -/
def Obligations.PumpSettleWithProofStartsTheFlow : Prop :=
  (∀ (s : State) (p : PumpIx) (m : Nat), s.unit.powered = true → (s.pumps.get p).state = .starting →
    (s.pumps.get p).timer = some m → s.cfg.pumpSettle * 1000 ≤ m → (s.pumps.get p).proof = true →
    ((∀ h, (s.hoseCfg h).tank = s.cfg.pumpTanks.get p → (s.hoses.get h).state ≠ .priming) →
      exec (.pumpSettleExpiry p) s = .next (s.setPump p { s.pumps.get p with state := .running, timer := none }))
    ∧ ∀ (h : HoseIx) (l : Live), (s.hoseCfg h).tank = s.cfg.pumpTanks.get p → s.cfg.pumpTanks.get p ≠ 0 →
      (s.hoses.get h).state = .priming → (s.hoses.get h).live = some l →
      (∀ g, g ≠ h → (s.hoseCfg g).tank = s.cfg.pumpTanks.get p → (s.hoses.get g).state ≠ .priming) →
      Takes (.pumpSettleExpiry p) s
        (LeftPriming h l (s.setPump p { s.pumps.get p with state := .running, timer := none })))
  ∧ ∀ (s : State) (p : PumpIx), s.unit.powered = true →
    ((s.pumps.get p).state ≠ .starting ∨ ∀ m, (s.pumps.get p).timer = some m → m < s.cfg.pumpSettle * 1000) →
    exec (.pumpSettleExpiry p) s = .next s

/-- PUMP_SETTLE_EXPIRY without proof and PUMP_PROOF_CHANGE in RUNNING fault the pump, and each delivery in PRIMING,
FLOWING or TRIMMING of its tank ends with PUMP, one whose meter has been quiet for the end-settle time closing at its
entry to ENDING; every other qualified proof is only recorded, and one held for less than 100 ms discarded (the held time
is the command's: log 3). -/
def Obligations.PumpFaultEndsTheDeliveriesOfItsTank : Prop :=
  (∀ (s : State) (p : PumpIx) (c : Instr), s.unit.powered = true →
    ((∃ m, c = .pumpSettleExpiry p ∧ (s.pumps.get p).state = .starting ∧ (s.pumps.get p).timer = some m
        ∧ s.cfg.pumpSettle * 1000 ≤ m ∧ (s.pumps.get p).proof = false)
      ∨ ∃ n, c = .pumpProofChange p false n ∧ 100 ≤ n ∧ (s.pumps.get p).state = .running) →
    Takes c s fun t =>
      t.pumps.get p = { s.pumps.get p with state := .faulted, timer := none, proof := false }
        ∧ ∀ (h : HoseIx) (l : Live), (s.hoseCfg h).tank = s.cfg.pumpTanks.get p → s.cfg.pumpTanks.get p ≠ 0 →
          runState (s.hoses.get h).state = true → (s.hoses.get h).live = some l → HoseEnded h l .pump s t)
  ∧ (∀ (s : State) (p : PumpIx) (b : Bool) (n : Nat), s.unit.powered = true →
    (n < 100 → exec (.pumpProofChange p b n) s = .next s)
    ∧ (100 ≤ n → (s.pumps.get p).state ≠ .running ∨ b = true →
      exec (.pumpProofChange p b n) s = .next (s.setPump p { s.pumps.get p with proof := b })))

/-- MINIMUM_OFF_EXPIRY in COOLDOWN: with a run count above 0 and the zone NORMAL the contactor goes on, the settle
timer starts and the pump enters STARTING; in every other case it enters OFF. Before the minimum-off time, and in any other
state of the pump, nothing happens: that is the model's reading of an expiry command (log 1). -/
def Obligations.MinimumOffExpiryStartsOrStopsThePump : Prop :=
  (∀ (s : State) (p : PumpIx) (m : Nat), s.unit.powered = true → (s.pumps.get p).state = .cooldown →
    (s.pumps.get p).timer = some m → s.cfg.pumpMinimumOff * 1000 ≤ m →
    (0 < s.runCount (s.cfg.pumpTanks.get p) ∧ s.tripped = false →
      exec (.minimumOffExpiry p) s
          = .next (s.setPump p { s.pumps.get p with state := .starting, timer := some 0 })
        ∧ PumpState.starting.contactor = true)
    ∧ (¬(0 < s.runCount (s.cfg.pumpTanks.get p) ∧ s.tripped = false) →
      exec (.minimumOffExpiry p) s = .next (s.setPump p { s.pumps.get p with state := .off, timer := none })))
  ∧ ∀ (s : State) (p : PumpIx), s.unit.powered = true →
    ((s.pumps.get p).state ≠ .cooldown ∨ ∀ m, (s.pumps.get p).timer = some m → m < s.cfg.pumpMinimumOff * 1000) →
    exec (.minimumOffExpiry p) s = .next s

/-! ## Hoses (chapter 2) -/

/-- NOZZLE_HOOK_CHANGE to OFF_HOOK: a lift in IDLE enters WAITING with the claim timer started and has no other effect
elsewhere; a first level after a start that is OFF_HOOK refuses the hose with NOT_HUNG; a level held for less than 100
ms is discarded (the held time is the command's: log 3; where a first level acts: log 15). -/
def Obligations.LiftEntersWaiting : Prop :=
  ∀ (s : State) (h : HoseIx) (n : Nat), s.unit.powered = true →
    (n < 100 → exec (.nozzleHookChange h true n) s = .next s)
    ∧ (100 ≤ n → s.inConfigFault = false → (s.hoses.get h).state = .idle → (s.hoses.get h).hook = some .onHook →
      Takes (.nozzleHookChange h true n) s fun t =>
        t.hoses.get h = { s.hoses.get h with
            state := .waiting, hook := some .offHook, claimTimer := some 0, tagTimer := none, noFlow := none
            lamp := false, flash := none }
          ∧ otherHosesSame h s t ∧ sameOutside moving s t)
    ∧ (100 ≤ n → s.inConfigFault = false → (s.hoses.get h).state = .idle → (s.hoses.get h).hook = none →
      Takes (.nozzleHookChange h true n) s fun t =>
        (t.hoses.get h).state = .refused .notHung ∧ (t.hoses.get h).hook = some .offHook
          ∧ (t.hoses.get h).lamp = true ∧ otherHosesSame h s t ∧ sameOutside moving s t)
    ∧ (100 ≤ n → (s.hoses.get h).state ≠ .idle → (s.hoses.get h).hook = some .onHook →
      exec (.nozzleHookChange h true n) s
        = .next (s.setHose h { s.hoses.get h with hook := some .offHook }))

/-- NOZZLE_HOOK_CHANGE to ON_HOOK: a hang takes WAITING, DONE and REFUSED to IDLE, ends a delivery in PRIMING, FLOWING
or TRIMMING with HUNG, closing it at its entry to ENDING where its meter has been quiet for the end-settle time, and is
only kept in the hook state in IDLE, ENDING and OUT_OF_SERVICE. -/
def Obligations.HangEndsWhatTheHoseDoes : Prop :=
  ∀ (s : State) (h : HoseIx) (n : Nat), s.unit.powered = true → 100 ≤ n → s.inConfigFault = false →
    (s.hoses.get h).hook = some .offHook →
    (((s.hoses.get h).state = .waiting ∨ (∃ r, (s.hoses.get h).state = .done r)
        ∨ ∃ r, (s.hoses.get h).state = .refused r) →
      Takes (.nozzleHookChange h false n) s fun t =>
        t.hoses.get h = { s.hoses.get h with
            state := .idle, hook := some .onHook, claimTimer := none, tagTimer := none, noFlow := none
            lamp := false, flash := none }
          ∧ otherHosesSame h s t ∧ sameOutside moving s t)
    ∧ (∀ l, runState (s.hoses.get h).state = true → (s.hoses.get h).live = some l →
      Takes (.nozzleHookChange h false n) s fun t =>
        Ended h l .hung (s.setHose h { s.hoses.get h with hook := some .onHook }) t
          ∧ (t.hoses.get h).hook = some .onHook)
    ∧ ((s.hoses.get h).state = .idle ∨ (s.hoses.get h).state = .ending
        ∨ (∃ f, (s.hoses.get h).state = .outOfService f) →
      exec (.nozzleHookChange h false n) s
        = .next (s.setHose h { s.hoses.get h with hook := some .onHook }))

/-- TAG_FRAME in WAITING: the first check that fails, in the order of R31, refuses the claim with its reason; the
counts of check 5 stand whatever the later checks decide, and no permit is used. -/
def Obligations.FirstFailingCheckRefusesTheClaim : Prop :=
  ∀ (s : State) (h : HoseIx) (machine : Nat) (hours : Option Nat), s.claims h machine hours →
    ((s.link.join = .listen ∨ s.link.join = .configFault) →
      Takes (.tagFrame h true machine hours) s (Refused h .notJoined s.accounts s))
    ∧ (s.link.join = .joined ∨ s.link.join = .isolated →
      (s.tripped = true → Takes (.tagFrame h true machine hours) s (Refused h .tripped s.accounts s))
      ∧ (s.tripped = false →
        (128 ≤ s.journal.uncollected + s.journal.reserved →
          Takes (.tagFrame h true machine hours) s (Refused h .journalFull s.accounts s))
        ∧ (s.journal.uncollected + s.journal.reserved < 128 →
          (∀ e, lookup s.accounts machine (s.hoseCfg h).product = .refused e →
            Takes (.tagFrame h true machine hours) s (Refused h e s.accounts s))
          ∧ (∀ r e, lookup s.accounts machine (s.hoseCfg h).product = .given (.record r) →
            (hoursCheck s.cfg (s.hoseCfg h) r hours).answer = .refused e →
            Takes (.tagFrame h true machine hours) s
              (Refused h e (s.accounts.putRecord (hoursCheck s.cfg (s.hoseCfg h) r hours).record) s))
          ∧ ∀ allowance priority a,
            ((∃ r flags, lookup s.accounts machine (s.hoseCfg h).product = .given (.record r)
                ∧ (hoursCheck s.cfg (s.hoseCfg h) r hours).answer = .given (allowance, flags)
                ∧ priority = decide (r.cls = .priority)
                ∧ a = s.accounts.putRecord (hoursCheck s.cfg (s.hoseCfg h) r hours).record)
              ∨ ∃ p, lookup s.accounts machine (s.hoseCfg h).product = .given (.permit p)
                ∧ allowance = p.limit ∧ priority = false ∧ a = s.accounts) →
            (∀ e, stockGate (s.hoseCfg h).tank priority s = .refused e →
              Takes (.tagFrame h true machine hours) s (Refused h e a s))
            ∧ ∀ term blind, stockGate (s.hoseCfg h).tank priority s = .given (term, blind) →
              ((∃ p, s.pumpOf (s.hoseCfg h).tank = some p ∧ (s.pumps.get p).state = .faulted) →
                Takes (.tagFrame h true machine hours) s (Refused h .pumpFault a s))
              ∧ ((∀ p, s.pumpOf (s.hoseCfg h).tank = some p → (s.pumps.get p).state ≠ .faulted) →
                min (s.hoseCfg h).maxDelivery (min allowance term) < 1000 →
                Takes (.tagFrame h true machine hours) s (Refused h .limitTooSmall a s)))))

/-- TAG_FRAME in WAITING: a claim that passes every check takes effect with A the least of the hose's maximum
delivery, the machine allowance and the tank term. Served by a record, the record keeps the counts of the hours check;
served by a permit, the permit is used up. The hose enters PRIMING, and where its pump is already RUNNING it leaves it at
once by the rows of R39. -/
def Obligations.PassedClaimTakesEffect : Prop :=
  ∀ (s : State) (h : HoseIx) (machine : Nat) (hours : Option Nat), s.claims h machine hours →
    s.link.join = .joined ∨ s.link.join = .isolated → s.tripped = false →
    s.journal.uncollected + s.journal.reserved < 128 →
    (∀ p, s.pumpOf (s.hoseCfg h).tank = some p → (s.pumps.get p).state ≠ .faulted) →
    (∀ r o allowance flags term blind, lookup s.accounts machine (s.hoseCfg h).product = .given (.record r) →
      hoursCheck s.cfg (s.hoseCfg h) r hours = o → o.answer = .given (allowance, flags) →
      stockGate (s.hoseCfg h).tank (decide (r.cls = .priority)) s = .given (term, blind) →
      1000 ≤ min (s.hoseCfg h).maxDelivery (min allowance term) →
      Takes (.tagFrame h true machine hours) s fun t =>
        ClaimTakes h machine hours (min (s.hoseCfg h).maxDelivery (min allowance term)) { flags with blind := blind } s t
          ∧ t.accounts = s.accounts.putRecord o.record)
    ∧ (∀ p term blind, lookup s.accounts machine (s.hoseCfg h).product = .given (.permit p) →
      stockGate (s.hoseCfg h).tank false s = .given (term, blind) →
      1000 ≤ min (s.hoseCfg h).maxDelivery (min p.limit term) →
      Takes (.tagFrame h true machine hours) s fun t =>
        ClaimTakes h machine hours (min (s.hoseCfg h).maxDelivery (min p.limit term))
            { noFlags with permit := true, blind := blind } s t
          ∧ t.accounts = { s.accounts with
              permits := s.accounts.permits.filter fun q =>
                !(q.machine == machine && q.product == (s.hoseCfg h).product) })

/-- The stock gate: on a CURRENT book the available stock at or below the dead level is refused, at or below the
reserve level refused but to a PRIORITY machine, and else the tank term is the stock above the dead level; on an AGED
or UNKNOWN book the tank term is the blind cap, a cap of 0 refusing. -/
def Obligations.StockGateWeighsTheBook : Prop :=
  ∀ (s : State) (tank : Nat) (k : BookIx) (priority : Bool), s.bookOf tank = some k →
    (∀ a, (s.books.get k).state = .current → s.available k = some a →
      (a ≤ (s.cfg.books.get k).dead → stockGate tank priority s = .refused .stockDead)
      ∧ ((s.cfg.books.get k).dead < a → a ≤ (s.cfg.books.get k).reserve →
        stockGate tank priority s
          = if priority then .given (a - (s.cfg.books.get k).dead, false) else .refused .stockReserve)
      ∧ ((s.cfg.books.get k).dead < a → (s.cfg.books.get k).reserve < a →
        stockGate tank priority s = .given (a - (s.cfg.books.get k).dead, false)))
    ∧ ((s.books.get k).state ≠ .current →
      stockGate tank priority s
        = if (s.cfg.books.get k).blindCap = 0 then .refused .stockDead
          else .given ((s.cfg.books.get k).blindCap, true))

/-- TAG_FRAME outside WAITING: a valid frame of the live delivery's machine restarts the tag timer in PRIMING, FLOWING
and TRIMMING; another machine's frame, a frame in any other state and an invalid frame have no effect. -/
def Obligations.TagFramesRestartTheTagTimer : Prop :=
  ∀ (s : State) (h : HoseIx) (good : Bool) (machine : Nat) (hours : Option Nat), s.unit.powered = true →
    (∀ l, runState (s.hoses.get h).state = true → (s.hoses.get h).live = some l → good = true → 1 ≤ machine →
      machine ≤ 16777214 → (∀ v, hours = some v → v ≤ 999999) →
      (l.machine = machine → exec (.tagFrame h good machine hours) s
        = .next (s.setHose h { s.hoses.get h with tagTimer := some 0 }))
      ∧ (l.machine ≠ machine → exec (.tagFrame h good machine hours) s = .next s))
    ∧ ((s.hoses.get h).state ≠ .waiting → runState (s.hoses.get h).state = false →
      exec (.tagFrame h good machine hours) s = .next s)
    ∧ (good = false ∨ machine = 0 ∨ 16777214 < machine ∨ (∃ v, hours = some v ∧ 999999 < v) →
      exec (.tagFrame h good machine hours) s = .next s)

/-- CLAIM_TIMER_EXPIRY in WAITING refuses the hose with NO_TAG; LAMP_FLASH_TOGGLE changes the lamp of a hose in
OUT_OF_SERVICE and starts the next half second; TAG_GRACE_EXPIRY and NO_FLOW_TIMEOUT end a delivery in FLOWING or
TRIMMING with TAG_LOST and NO_FLOW, and in PRIMING and every other state have no effect. Before its setting, or not
running, none of the four timers does anything. -/
def Obligations.HoseTimersExpire : Prop :=
  (∀ (s : State) (h : HoseIx) (n : Nat), s.unit.powered = true →
    ((s.hoses.get h).state = .waiting → (s.hoses.get h).claimTimer = some n → s.cfg.claimTime * 1000 ≤ n →
      Takes (.claimTimerExpiry h) s fun t =>
        t.hoses.get h = { s.hoses.get h with
            state := .refused .noTag, claimTimer := none, tagTimer := none, noFlow := none, lamp := true
            flash := none }
          ∧ otherHosesSame h s t ∧ sameOutside moving s t)
    ∧ (∀ f, (s.hoses.get h).state = .outOfService f → (s.hoses.get h).flash = some n → 500 ≤ n →
      exec (.lampFlashToggle h) s
        = .next (s.setHose h { s.hoses.get h with lamp := !(s.hoses.get h).lamp, flash := some 0 })))
  ∧ (∀ (s : State) (h : HoseIx) (l : Live) (n : Nat), s.unit.powered = true → (s.hoses.get h).live = some l →
    ((s.hoses.get h).state = .flowing ∨ (s.hoses.get h).state = .trimming →
      ((s.hoses.get h).tagTimer = some n → s.cfg.tagGrace * 1000 ≤ n →
        Takes (.tagGraceExpiry h) s (Ended h l .tagLost s))
      ∧ ((s.hoses.get h).noFlow = some n → s.cfg.noFlowTime * 1000 ≤ n →
        Takes (.noFlowTimeout h) s (Ended h l .noFlow s))))
  ∧ (∀ (s : State) (h : HoseIx), s.unit.powered = true →
    ((∀ n, (s.hoses.get h).claimTimer = some n → n < s.cfg.claimTime * 1000) →
      exec (.claimTimerExpiry h) s = .next s)
    ∧ ((∀ n, (s.hoses.get h).flash = some n → n < 500) → exec (.lampFlashToggle h) s = .next s)
    ∧ ((∀ n, (s.hoses.get h).tagTimer = some n → n < s.cfg.tagGrace * 1000) →
      exec (.tagGraceExpiry h) s = .next s)
    ∧ ((s.hoses.get h).state ≠ .flowing → (s.hoses.get h).state ≠ .trimming →
      exec (.tagGraceExpiry h) s = .next s ∧ exec (.noFlowTimeout h) s = .next s)
    ∧ ((∀ n, (s.hoses.get h).noFlow = some n → n < s.cfg.noFlowTime * 1000) →
      exec (.noFlowTimeout h) s = .next s))

/-- STOP_HOSE: a hose in PRIMING, FLOWING or TRIMMING ends with OFFICE_STOP and no reply is sent; it closes at its entry to
ENDING where its meter has been quiet for the end-settle time. In any other state the hose is not changed and the reply is
REFUSED with NOT_LIVE. -/
def Obligations.StopHoseEndsOrIsRefused : Prop :=
  ∀ (s : State) (e : RxEntry) (rest : List RxEntry) (h : HoseIx),
    s.offers .stopHose .deliveryController e rest → stopHoseBody e.frame.body = .sound h.number →
    (∀ l, runState (s.hoses.get h).state = true → (s.hoses.get h).live = some l →
      Takes .stopHose s (Ended h l .officeStop (s.took .stopHose .deliveryController e rest)))
    ∧ (runState (s.hoses.get h).state = false →
      exec .stopHose s = .next (refuse e.frame.src e.frame.kind .notLive .deliveryController
        (s.took .stopHose .deliveryController e rest)))

/-! ## Account table (chapter 3) -/

/-- PERMIT and PERMIT_EXPIRY: a permit takes the place of one for the same machine and product at the newest end, or
joins while fewer than 8 are held, and is refused with FULL otherwise; at its expiry it leaves the list, and before it
does not. (That the expiry, the local seconds plus the lifetime, is counted modulo 2^32: log 21.) -/
def Obligations.PermitsArriveAndExpire : Prop :=
  (∀ (s : State) (e : RxEntry) (rest : List RxEntry) (b : PermitBody) (others : List Permit),
    s.offers .permit .accountTable e rest → permitBody e.frame.body = .sound b →
    others = s.accounts.permits.filter (fun q => !(q.machine == b.machine && q.product == b.product)) →
    (others.length < 8 → exec .permit s = .next ((s.took .permit .accountTable e rest).setAccounts { s.accounts with
      permits := others ++
        [⟨b.machine, b.product, b.limit, (s.unit.seconds + b.lifetime) % 4294967296⟩] }))
    ∧ (8 ≤ others.length → exec .permit s
      = .next (refuse e.frame.src e.frame.kind .full .accountTable (s.took .permit .accountTable e rest))))
  ∧ (∀ (s : State) (machine : Nat) (product : Product), s.unit.powered = true →
    (∀ q, s.accounts.findPermit machine product = some q →
      s.unit.seconds = q.expiry →
      exec (.permitExpiry machine product) s = .next (s.setAccounts { s.accounts with
        permits := s.accounts.permits.filter fun q => !(q.machine == machine && q.product == product) }))
    ∧ ((∀ q, s.accounts.findPermit machine product = some q → s.unit.seconds ≠ q.expiry) →
      exec (.permitExpiry machine product) s = .next s))

/-- DRAW_ACCOUNT: a peer's DRAW of new key with hours within the maximum step of the record's is taken into it: last
hours, the fill of a DIESEL draw, the moved window of a lube draw, the draw key; any other DRAW is ignored. -/
def Obligations.PeerDrawsMoveTheRecord : Prop :=
  ∀ (s : State) (e : RxEntry) (rest : List RxEntry) (d : DrawBody),
    s.offers .draw .accountTable e rest → drawBody e.frame.body = .sound d →
    (∀ r h, s.accounts.find d.machine = some r → d.hours = some h → r.lastDraw ≠ some ⟨e.frame.src, d.sequence⟩ →
      (∀ l, r.lastHours = some l → (h + 1000000 - l) % 1000000 ≤ s.cfg.maxHourStep) →
      exec .drawAccount s = .next ((s.took .draw .accountTable e rest).setAccounts (s.accounts.putRecord { r with
        lastHours := some h
        lastFill := if d.product = .diesel then some ⟨h, d.quantity⟩ else r.lastFill
        windows := if d.product = .diesel then r.windows else r.windows.map fun w =>
          if w.product = d.product then { w with
            dueFrom := (h + w.interval + 1000000 - w.tolerance) % 1000000
            dueUntil := (h + w.interval + w.tolerance) % 1000000 } else w
        lastDraw := some ⟨e.frame.src, d.sequence⟩ })))
    ∧ (s.accounts.find d.machine = none ∨ d.hours = none
        ∨ (∃ r, s.accounts.find d.machine = some r ∧ (r.lastDraw = some ⟨e.frame.src, d.sequence⟩
          ∨ ∃ l h, r.lastHours = some l ∧ d.hours = some h ∧ s.cfg.maxHourStep < (h + 1000000 - l) % 1000000)) →
      exec .drawAccount s = .next (s.took .draw .accountTable e rest))

/-- ROSTER_SET and ROSTER_REMOVE: the record of a held id takes the frame's settings and keeps fill, key and counts; a
new one is put in by its id; a 257th sets the roster-full flag, is counted and, addressed to this station, is refused
with FULL. A removed record leaves the roster and the flag clears; an id that is not held is ignored, or refused with
NOT_FOUND. A roster in order holds under each id the record put in last, and the others as they were. -/
def Obligations.RosterFramesWriteTheRoster : Prop :=
  (∀ (s : State) (e : RxEntry) (rest : List RxEntry) (b : RosterSetBody) (ws : List ServiceWindow),
    s.offers .rosterSet .accountTable e rest → rosterSetBody e.frame.body = .sound b →
    ws = b.windows.map (fun w => ⟨productOfCode w.product, w.interval, w.tolerance,
      (w.due + 1000000 - w.tolerance) % 1000000, (w.due + w.tolerance) % 1000000, w.quantity⟩) →
    (∀ r, s.accounts.find b.id = some r →
      exec .rosterSet s = .next ((s.took .rosterSet .accountTable e rest).setAccounts (s.accounts.putRecord { r with
        cls := b.cls, suspended := b.suspended, burnCeiling := b.burnCeiling, perFillMax := b.perFillMax
        slack := b.slack, windows := ws, lastHours := b.lastHours.or r.lastHours })))
    ∧ (s.accounts.find b.id = none → s.accounts.roster.length < 256 →
      exec .rosterSet s = .next ((s.took .rosterSet .accountTable e rest).setAccounts (s.accounts.putRecord
        { id := b.id, cls := b.cls, suspended := b.suspended, lastHours := b.lastHours, lastFill := none
          burnCeiling := b.burnCeiling, perFillMax := b.perFillMax, slack := b.slack, windows := ws
          anomalies := ⟨0, 0, 0, 0, 0⟩, lastDraw := none })))
    ∧ (∀ full, s.accounts.find b.id = none → 256 ≤ s.accounts.roster.length →
      full = ((s.took .rosterSet .accountTable e rest).setAccounts { s.accounts with rosterFull := true }).setCounts
        { s.counts with rosterFull := min (s.counts.rosterFull + 1) 65535 } →
      exec .rosterSet s = .next (if e.frame.dest = 0 then full
        else refuse e.frame.src e.frame.kind .full .accountTable full)))
  ∧ (∀ (a : Accounts) (r : MachineRecord), rosterInOrder a.roster →
    (a.putRecord r).find r.id = some r ∧ (∀ id, id ≠ r.id → (a.putRecord r).find id = a.find id)
      ∧ (a.putRecord r).roster.Pairwise (fun p q => p.id < q.id))
  ∧ (∀ (s : State) (e : RxEntry) (rest : List RxEntry) (id : Nat),
    s.offers .rosterRemove .accountTable e rest → rosterRemoveBody e.frame.body = .sound id →
    (∀ r, s.accounts.find id = some r →
      exec .rosterRemove s = .next ((s.took .rosterRemove .accountTable e rest).setAccounts { s.accounts with
        roster := s.accounts.roster.filter fun q => q.id != id, rosterFull := false }))
    ∧ (s.accounts.find id = none → exec .rosterRemove s = .next (if e.frame.dest = 0
        then s.took .rosterRemove .accountTable e rest
        else refuse e.frame.src e.frame.kind .notFound .accountTable (s.took .rosterRemove .accountTable e rest))))

/-- ACCOUNT_READ: the record of the id, or the first above it, is answered by its part; where there is none the reply
is REFUSED with NOT_FOUND. No record is changed. (What the parts carry: RepliesCarryTheirLayouts.) -/
def Obligations.AccountReadAnswersFromTheRoster : Prop :=
  ∀ (s : State) (e : RxEntry) (rest : List RxEntry) (b : AccountReadBody),
    s.offers .accountRead .accountTable e rest → accountReadBody e.frame.body = .sound b → rosterInOrder s.accounts.roster →
    (∀ r ∈ s.accounts.roster,
      (b.next = false ∧ r.id = b.id ∨ b.next = true ∧ b.id < r.id ∧ ∀ q ∈ s.accounts.roster, b.id < q.id → r.id ≤ q.id) →
      exec .accountRead s = .next (reply e.frame.src .accountRep
        (if b.windows then accountWindows r else accountHead r s.accounts.roster.length) .accountTable .plain
        (s.took .accountRead .accountTable e rest)))
    ∧ ((∀ r ∈ s.accounts.roster, if b.next then r.id ≤ b.id else r.id ≠ b.id) →
      exec .accountRead s = .next (refuse e.frame.src e.frame.kind .notFound .accountTable
        (s.took .accountRead .accountTable e rest)))

/-- Checks 4 and 5: an ACTIVE record serves, else a permit for the machine and product, else the claim is refused with
SUSPENDED or UNKNOWN_MACHINE; a reading within the step is accepted, one within the back tolerance accepted with
HOURS_BACK, and any other counted and refused with HOURS_JUMP but for a PRIORITY machine, served at its slack. A tag
without hours is accepted uncounted, with NO_HISTORY where the record has no last hours. -/
def Obligations.AccountChecksDecideTheClaim : Prop :=
  (∀ (a : Accounts) (machine : Nat) (p : Product),
    (∀ r, a.find machine = some r → r.suspended = false → lookup a machine p = .given (.record r))
    ∧ (∀ q, a.findPermit machine p = some q → (∀ r, a.find machine = some r → r.suspended = true) →
      lookup a machine p = .given (.permit q))
    ∧ (a.findPermit machine p = none →
      (a.find machine = none → lookup a machine p = .refused .unknownMachine)
      ∧ ∀ r, a.find machine = some r → r.suspended = true → lookup a machine p = .refused .suspended))
  ∧ (∀ (cfg : Settings) (c : HoseSetting) (r : MachineRecord), (hoursCheck cfg c r none).record = r
    ∧ ∃ a, (hoursCheck cfg c r none).answer
      = .given (a, if r.lastHours = none then { noFlags with noHistory := true } else noFlags))
  ∧ (∀ (cfg : Settings) (c : HoseSetting) (r : MachineRecord) (h : Nat),
    (r.lastHours = none → (hoursCheck cfg c r (some h)).record = r
      ∧ ∃ a, (hoursCheck cfg c r (some h)).answer = .given (a, { noFlags with noHistory := true }))
    ∧ (∀ l, r.lastHours = some l →
      ((h + 1000000 - l) % 1000000 ≤ cfg.maxHourStep → (hoursCheck cfg c r (some h)).record = r
        ∧ ∃ a, (hoursCheck cfg c r (some h)).answer = .given (a, noFlags))
      ∧ (cfg.maxHourStep < (h + 1000000 - l) % 1000000 →
        ((l + 1000000 - h) % 1000000 ≤ cfg.backTolerance →
          (hoursCheck cfg c r (some h)).record
            = { r with anomalies := { r.anomalies with hoursBack := min (r.anomalies.hoursBack + 1) 255 } }
          ∧ ∃ a, (hoursCheck cfg c r (some h)).answer = .given (a, { noFlags with hoursBack := true }))
        ∧ (cfg.backTolerance < (l + 1000000 - h) % 1000000 →
          (hoursCheck cfg c r (some h)).record
            = { r with anomalies := { r.anomalies with hourJump := min (r.anomalies.hourJump + 1) 255 } }
          ∧ (hoursCheck cfg c r (some h)).answer = (if r.cls = .priority
              then .given (r.slack, { noFlags with hoursJump := true }) else .refused .hoursJump)))))
  ∧ (∀ (cfg : Settings) (c : HoseSetting) (r : MachineRecord) (hours : Option Nat) (a : Nat) (fl : RecordFlags),
    (hoursCheck cfg c r hours).answer = .given (a, fl) → fl.hoursJump = false →
    (c.product = .diesel → r.lastFill = none → a = r.perFillMax)
    ∧ (∀ f, c.product = .diesel → r.lastFill = some f →
      a = min r.perFillMax (r.slack + r.burnCeiling * (match hours with
        | some h => if fl.hoursBack then 0 else (h + 1000000 - f.hours) % 1000000
        | none => 0)))
    ∧ (c.product ≠ .diesel → a = ((r.window c.product).map fun w => w.quantity).getD c.topUpLimit))

/-- The close of a delivery on its record: a trusted reading sets the last hours; a fuel close is weighed for a high
burn and sets the fill; a lube close is classified against its window, which moves on; a reading that is not trusted
moves nothing; without a record, without hours or served by a permit, nothing is applied. (Of a fill above
4,294,967,295 mL only the range is said: log 34.) -/
def Obligations.ClosesMoveTheRecord : Prop :=
  (∀ (cfg : Settings) (r : MachineRecord) (c : Closed) (h : Nat), c.product = .diesel →
    (trusted cfg r c.flags h = true →
      (closeRecord cfg r c h).1.lastHours = some h
      ∧ ∃ q, (closeRecord cfg r c h).1.lastFill = some ⟨h, q⟩ ∧ q ≤ 4294967295
        ∧ (c.quantity ≤ 4294967295 → q = c.quantity))
    ∧ (trusted cfg r c.flags h = false →
      (closeRecord cfg r c h).1.lastHours = r.lastHours ∧ (closeRecord cfg r c h).1.lastFill = r.lastFill)
    ∧ ((closeRecord cfg r c h).2.highBurn = true ↔ ∃ f, r.lastFill = some f
      ∧ (if trusted cfg r c.flags h = true ∧ (h + 1000000 - f.hours) % 1000000 ≠ 0
          then r.burnCeiling < c.quantity / ((h + 1000000 - f.hours) % 1000000) else r.slack < c.quantity))
    ∧ (closeRecord cfg r c h).1.anomalies
      = (if (closeRecord cfg r c h).2.highBurn
          then { r.anomalies with highBurn := min (r.anomalies.highBurn + 1) 255 } else r.anomalies)
    ∧ (closeRecord cfg r c h).1.windows = r.windows)
  ∧ (∀ (cfg : Settings) (r : MachineRecord) (c : Closed) (h : Nat), c.product ≠ .diesel →
    (trusted cfg r c.flags h = false → closeRecord cfg r c h = (r, noFlags))
    ∧ (trusted cfg r c.flags h = true → r.window c.product = none →
      closeRecord cfg r c h = ({ r with lastHours := some h }, noFlags))
    ∧ (∀ w, trusted cfg r c.flags h = true → r.window c.product = some w →
      (closeRecord cfg r c h).1.lastHours = some h ∧ (closeRecord cfg r c h).1.lastFill = r.lastFill
        ∧ (closeRecord cfg r c h).1.windows = (r.windows.map fun w => if w.product = c.product then { w with
            dueFrom := (h + w.interval + 1000000 - w.tolerance) % 1000000
            dueUntil := (h + w.interval + w.tolerance) % 1000000 } else w)
        ∧ (if w.holds h then (closeRecord cfg r c h).2 = { noFlags with scheduled := true }
              ∧ (closeRecord cfg r c h).1.anomalies = r.anomalies
            else if 2 * ((h + 1000000 - w.dueUntil) % 1000000) ≤ w.interval
              then (closeRecord cfg r c h).2 = { noFlags with overdue := true }
                ∧ (closeRecord cfg r c h).1.anomalies
                  = { r.anomalies with overdue := min (r.anomalies.overdue + 1) 255 }
            else (closeRecord cfg r c h).2 = { noFlags with early := true }
                ∧ (closeRecord cfg r c h).1.anomalies
                  = { r.anomalies with early := min (r.anomalies.early + 1) 255 })))
  ∧ (∀ (s : State) (c : Closed),
    (∀ r h, s.accounts.find c.machine = some r → c.hours = some h → c.flags.permit = false →
      accountClose c s = ((closeRecord s.cfg r c h).2,
        s.setAccounts (s.accounts.putRecord (closeRecord s.cfg r c h).1)))
    ∧ (s.accounts.find c.machine = none ∨ c.hours = none ∨ c.flags.permit = true → accountClose c s = (noFlags, s)))

/-! ## Tank books and gauging (chapter 4) -/

/-- DRAW_BOOK and RECEIPT: a key not yet in the recent-entry list takes the quantity from the book, or adds it up to the
capacity, and joins the list over the oldest of 16; a key in the list, and a tank without a book, change nothing, an
addressed RECEIPT of such a tank being refused with NOT_FOUND. The dead-level watch follows: where the available stock of
a CURRENT book is then at or below the dead level, each hose in PRIMING, FLOWING or TRIMMING on the tank ends with STOCK;
else no delivery is touched. -/
def Obligations.DrawsAndReceiptsMoveTheBook : Prop :=
  ((∀ (s : State) (e : RxEntry) (rest : List RxEntry) (d : DrawBody),
    s.offers .draw .tankBooks e rest → drawBody e.frame.body = .sound d →
    (∀ k t, s.bookOf d.tank = some k → ⟨e.frame.src, d.sequence⟩ ∉ (s.books.get k).recent →
      t = (s.took .draw .tankBooks e rest).setBook k { s.books.get k with
        value := (s.books.get k).value.map fun v => v - d.quantity
        recent := (if (s.books.get k).recent.length < 16 then (s.books.get k).recent
          else (s.books.get k).recent.drop 1) ++ [⟨e.frame.src, d.sequence⟩] } →
      (∀ h, s.liveTank h ≠ some d.tank) ∨ t.stockGone d.tank = false → exec .drawBook s = .next t)
    ∧ ((∀ h, s.liveTank h ≠ some d.tank) ∨ s.stockGone d.tank = false →
      s.bookOf d.tank = none
        ∨ (∃ k, s.bookOf d.tank = some k ∧ ⟨e.frame.src, d.sequence⟩ ∈ (s.books.get k).recent) →
      exec .drawBook s = .next (s.took .draw .tankBooks e rest)))
  ∧ (∀ (s : State) (e : RxEntry) (rest : List RxEntry) (d : ReceiptBody),
    s.offers .receipt .tankBooks e rest → receiptBody e.frame.body = .sound d →
    (∀ k t, s.bookOf d.tank = some k → ⟨e.frame.src, d.number⟩ ∉ (s.books.get k).recent →
      t = (s.took .receipt .tankBooks e rest).setBook k { s.books.get k with
        value := (s.books.get k).value.map fun v => min (v + d.quantity) (s.cfg.books.get k).capacity
        recent := (if (s.books.get k).recent.length < 16 then (s.books.get k).recent
          else (s.books.get k).recent.drop 1) ++ [⟨e.frame.src, d.number⟩] } →
      (∀ h, s.liveTank h ≠ some d.tank) ∨ t.stockGone d.tank = false → exec .receipt s = .next t)
    ∧ (∀ k, (∀ h, s.liveTank h ≠ some d.tank) ∨ s.stockGone d.tank = false →
      s.bookOf d.tank = some k → ⟨e.frame.src, d.number⟩ ∈ (s.books.get k).recent →
      exec .receipt s = .next (s.took .receipt .tankBooks e rest))
    ∧ (s.bookOf d.tank = none → exec .receipt s = .next (if e.frame.dest = 0 then s.took .receipt .tankBooks e rest
        else refuse e.frame.src e.frame.kind .notFound .tankBooks (s.took .receipt .tankBooks e rest)))))
  ∧ (∀ (s : State) (e : RxEntry) (rest : List RxEntry) (tank : Nat) (k : BookIx) (v : Nat),
    s.bookOf tank = some k → (s.books.get k).state = .current → (s.books.get k).value = some v →
    (∀ (d : DrawBody) (b : Book), s.offers .draw .tankBooks e rest → drawBody e.frame.body = .sound d → d.tank = tank →
      ⟨e.frame.src, d.sequence⟩ ∉ (s.books.get k).recent →
      v - d.quantity - s.drawnFrom tank ≤ (s.cfg.books.get k).dead →
      b = { s.books.get k with
        value := some (v - d.quantity)
        recent := (if (s.books.get k).recent.length < 16 then (s.books.get k).recent
          else (s.books.get k).recent.drop 1) ++ [⟨e.frame.src, d.sequence⟩] } →
      Takes .drawBook s (StockEnds tank ((s.took .draw .tankBooks e rest).setBook k b)))
    ∧ (∀ (d : ReceiptBody) (b : Book), s.offers .receipt .tankBooks e rest → receiptBody e.frame.body = .sound d →
      d.tank = tank → ⟨e.frame.src, d.number⟩ ∉ (s.books.get k).recent →
      min (v + d.quantity) (s.cfg.books.get k).capacity - s.drawnFrom tank ≤ (s.cfg.books.get k).dead →
      b = { s.books.get k with
        value := some (min (v + d.quantity) (s.cfg.books.get k).capacity)
        recent := (if (s.books.get k).recent.length < 16 then (s.books.get k).recent
          else (s.books.get k).recent.drop 1) ++ [⟨e.frame.src, d.number⟩] } →
      Takes .receipt s (StockEnds tank ((s.took .receipt .tankBooks e rest).setBook k b))))

/-- LEVEL: one of a tank whose book is kept and which is not gauged here is accepted on the book; one of a tank gauged
here sets the gauge conflict and its timer; one of a tank without a book is ignored. On an accepted LEVEL a CURRENT book
keeps its value within the tolerance, else takes the gauged volume and counts; an AGED one takes it; an UNKNOWN one takes
it with variance 0. The book becomes CURRENT with its gauge-age timer restarted, or is AGED with the timer stopped while
the station is ISOLATED. The dead-level watch follows: where the book is then CURRENT with its available stock at or below
the dead level, each hose in PRIMING, FLOWING or TRIMMING on the tank ends with STOCK; else no delivery is touched. -/
def Obligations.LevelsSettleTheBook : Prop :=
  (∀ (s : State) (e : RxEntry) (rest : List RxEntry) (l : LevelBody),
    s.offers .level .tankBooks e rest → levelBody e.frame.body = .sound l →
    (s.bookOf l.tank = none → exec .level s = .next (s.took .level .tankBooks e rest))
    ∧ (∀ k, s.bookOf l.tank = some k →
      ((s.probeOf l.tank).isSome → exec .level s = .next ((s.took .level .tankBooks e rest).setGauging
        { s.gauging with conflict := true, conflictTimer := some 0 }))
      ∧ (∀ b t, s.probeOf l.tank = none →
        b = (s.books.get k).gauge (min l.volume (s.cfg.books.get k).capacity) (s.cfg.books.get k).tolerance
          (s.link.join == .isolated) →
        t = (s.took .level .tankBooks e rest).setBook k b →
        ((∀ h, s.liveTank h ≠ some l.tank) ∨ t.stockGone l.tank = false → exec .level s = .next t)
        ∧ ∀ v, b.state = .current → b.value = some v → v - s.drawnFrom l.tank ≤ (s.cfg.books.get k).dead →
          Takes .level s (StockEnds l.tank t))))
  ∧ (∀ (b : Book) (g tolerance : Nat),
    (∀ v, b.value = some v → b.state = .current →
      (((g : Int) - (v : Int)).natAbs ≤ tolerance → b.gauge g tolerance false
        = { b with variance := (g : Int) - (v : Int), ageTimer := some 0 })
      ∧ (tolerance < ((g : Int) - (v : Int)).natAbs → b.gauge g tolerance false
        = { b with
            value := some g, variance := (g : Int) - (v : Int), varianceCount := min (b.varianceCount + 1) 65535
            ageTimer := some 0 }))
    ∧ (∀ v, b.value = some v → b.state = .aged → b.gauge g tolerance false
      = { b with value := some g, variance := (g : Int) - (v : Int), state := .current, ageTimer := some 0 })
    ∧ (∀ v, b.value = some v → b.state ≠ .unknown → b.gauge g tolerance true
      = { b with value := some g, variance := (g : Int) - (v : Int), state := .aged, ageTimer := none })
    ∧ (b.value = none → b.gauge g tolerance false
      = { b with value := some g, variance := 0, state := .current, ageTimer := some 0 })
    ∧ (b.value = none → b.gauge g tolerance true
      = { b with value := some g, variance := 0, state := .aged, ageTimer := none }))

/-- GAUGE_AGE_EXPIRY, CONFLICT_TIMER_EXPIRY and SCAN_TIMER_EXPIRY: the CURRENT book enters AGED, the gauge conflict
clears, every used channel opens its gate but in CONFIG_FAULT. Before its setting no timer does anything: a gauge-age
timer that a LEVEL has restarted ages no book, and a PROBE_GATE_CLOSE before the gate time, or without an open gate, takes
no count (log 23). -/
def Obligations.TankTimersExpire : Prop :=
  ∀ (s : State) (n : Nat), s.unit.powered = true →
    (∀ k, (s.books.get k).ageTimer = some n →
      (s.cfg.gaugeAgeLimit * 1000 ≤ n → (s.books.get k).state = .current →
        exec (.gaugeAgeExpiry k) s = .next (s.setBook k { s.books.get k with state := .aged, ageTimer := none }))
      ∧ (n < s.cfg.gaugeAgeLimit * 1000 → exec (.gaugeAgeExpiry k) s = .next s))
    ∧ (s.gauging.conflictTimer = some n →
      (s.cfg.gaugeAgeLimit * 1000 ≤ n → exec .conflictTimerExpiry s
        = .next (s.setGauging { s.gauging with conflict := false, conflictTimer := none }))
      ∧ (n < s.cfg.gaugeAgeLimit * 1000 → exec .conflictTimerExpiry s = .next s))
    ∧ (s.gauging.scanTimer < s.cfg.scanInterval * 1000 → exec .scanTimerExpiry s = .next s)
    ∧ (s.cfg.scanInterval * 1000 ≤ s.gauging.scanTimer →
      (s.inConfigFault = true →
        exec .scanTimerExpiry s = .next (s.setGauging { s.gauging with scanTimer := 0 }))
      ∧ (s.inConfigFault = false → Takes .scanTimerExpiry s fun t =>
          t = { s with gauging := { s.gauging with scanTimer := 0 }, probes := t.probes }
            ∧ ∀ c, t.probes.get c = if (s.cfg.probes.get c).tank = 0 then s.probes.get c
              else { s.probes.get c with gate := some 0 }))
    ∧ ∀ c count, (∀ m, (s.probes.get c).gate = some m → m < (s.cfg.probes.get c).gateMs) →
      exec (.probeGateClose c count) s = .next s

/-- PROBE_GATE_CLOSE: an in-window count converts to a height, floored and clamped to 0 to the span, which joins the
history; an out-of-window count gives none, and puts the channel in FAULT with its history empty. An in-window count
takes a channel in FAULT to ACQUIRING with one height, and leaves one there whose newest three heights are not within the
settle band. -/
def Obligations.GateClosesMoveTheProbe : Prop :=
  (∀ (c : ProbeSetting) (count : Nat), c.countEmpty < c.countFull →
    (count < c.countEmpty → heightOf c count = 0) ∧ (c.countFull ≤ count → heightOf c count = c.span)
    ∧ (c.countEmpty ≤ count → count < c.countFull →
      heightOf c count * (c.countFull - c.countEmpty) ≤ (count - c.countEmpty) * c.span
        ∧ (count - c.countEmpty) * c.span < (heightOf c count + 1) * (c.countFull - c.countEmpty)))
  ∧ (∀ (s : State) (c : ProbeIx) (count h n : Nat), s.unit.powered = true → s.inConfigFault = false →
    (s.probes.get c).gate = some n → (s.cfg.probes.get c).gateMs ≤ n → (s.cfg.probes.get c).tank ≠ 0 →
    h = heightOf (s.cfg.probes.get c) count →
    (count < (s.cfg.probes.get c).lower ∨ (s.cfg.probes.get c).upper < count →
      exec (.probeGateClose c count) s
        = .next (s.setProbe c { s.probes.get c with state := .fault, history := [], gate := none }))
    ∧ ((s.cfg.probes.get c).lower ≤ count → count ≤ (s.cfg.probes.get c).upper →
      Takes (.probeGateClose c count) s (fun t => (t.probes.get c).history.getLast? = some h)
      ∧ ((s.probes.get c).state = .fault → exec (.probeGateClose c count) s
        = .next (s.setProbe c { s.probes.get c with state := .acquiring, history := [h], gate := none }))
      ∧ ((s.probes.get c).state = .acquiring →
        settledHistory (appendHeight (s.probes.get c).history h) (s.cfg.probes.get c).settleBand = false →
        exec (.probeGateClose c count) s = .next (s.setProbe c { s.probes.get c with
          history := (if (s.probes.get c).history.length < 4 then (s.probes.get c).history
            else (s.probes.get c).history.drop 1) ++ [h]
          gate := none }))))

/-- PROBE_GATE_CLOSE with a tracking scan: the channel tracks, its own book takes the volume of the reported height,
and a LEVEL is queued; at or above the high-high level the overfill flag is set and OVERFILL is latched. The dead-level
watch follows the book: where its available stock is at or below the dead level, each hose in PRIMING, FLOWING or TRIMMING
on the tank ends with STOCK before the rest of the scan; else the scan touches no delivery below the high-high level. -/
def Obligations.TrackingScansGaugeTheTank : Prop :=
  ∀ (s : State) (c : ProbeIx) (count mean n : Nat) (hs : List Nat) (k : BookIx) (b : Book),
    s.unit.powered = true → s.inConfigFault = false → (s.probes.get c).gate = some n →
    (s.cfg.probes.get c).gateMs ≤ n →
    (s.cfg.probes.get c).lower ≤ count → count ≤ (s.cfg.probes.get c).upper →
    s.bookOf (s.cfg.probes.get c).tank = some k →
    hs = appendHeight (s.probes.get c).history (heightOf (s.cfg.probes.get c) count) →
    ((s.probes.get c).state = .tracking ∨ (s.probes.get c).state = .acquiring
      ∧ settledHistory hs (s.cfg.probes.get c).settleBand = true) →
    mean = hs.sum / hs.length →
    b = (s.books.get k).gauge (min (strapVolume (s.cfg.probes.get c).points mean) (s.cfg.books.get k).capacity)
      (s.cfg.books.get k).tolerance (s.link.join == .isolated) →
    ((∀ h, s.liveTank h ≠ some (s.cfg.probes.get c).tank)
        ∨ (s.setBook k b).stockGone (s.cfg.probes.get c).tank = false →
      (mean < (s.cfg.books.get k).highHigh → s.link.ordinary.length < 6 →
        Takes (.probeGateClose c count) s fun t =>
          t.probes.get c = ⟨.tracking, hs, false, none⟩ ∧ t.books = s.books.set k b
            ∧ t.link.ordinary = s.link.ordinary ++ [s.entryOf ⟨0, .level, oneByte (s.cfg.probes.get c).tank
                ++ beBytes 2 mean ++ beBytes 4 (strapVolume (s.cfg.probes.get c).points mean), .tankBooks, .plain⟩]
            ∧ t.link.reserved = s.link.reserved ∧ (∀ d, d ≠ c → t.probes.get d = s.probes.get d)
            ∧ sameOutside [.probes, .books, .queue] s t)
      ∧ ((s.cfg.books.get k).highHigh ≤ mean →
        Takes (.probeGateClose c count) s fun t =>
          t.probes.get c = ⟨.tracking, hs, true, none⟩ ∧ t.tripUnit.causes.overfill = true ∧ t.tripped = true
            ∧ (s.tripped = true → t.books = s.books.set k b)))
    ∧ ∀ v, b.state = .current → b.value = some v →
      v - s.drawnFrom (s.cfg.probes.get c).tank ≤ (s.cfg.books.get k).dead →
      ∃ m, StockEnds (s.cfg.probes.get c).tank
          ((s.setProbe c { s.probes.get c with state := .tracking, history := hs, gate := none }).setBook k b) m
        ∧ (mean < (s.cfg.books.get k).highHigh → Takes (.probeGateClose c count) s fun t =>
          t.probes.get c = ⟨.tracking, hs, false, none⟩ ∧ sameOutside (.probes :: handing) m t)
        ∧ ((s.cfg.books.get k).highHigh ≤ mean → Takes (.probeGateClose c count) s fun t =>
          t.probes.get c = ⟨.tracking, hs, true, none⟩ ∧ t.tripUnit.causes.overfill = true ∧ t.tripped = true
            ∧ ∀ h l, runState (s.hoses.get h).state = true → (s.hoses.get h).live = some l →
              l.tank = (s.cfg.probes.get c).tank → t.hoses.get h = m.hoses.get h)

/-! ## Spill shutdown (chapter 5) -/

/-- A zone-wide cause raised, by a spill input, the EMERGENCY STOP, the creep accumulator, a hose's rate or a probe, is
latched and the zone is TRIPPED; the first one begins an episode with the next stamp, and outside CONFIG_FAULT a TRIP with
the stamp and the zone-wide causes is queued and the announced flag set, at the first and at each further one. A cause
already latched changes nothing in the record. VALVE_STUCK is latched without an episode or a TRIP. -/
def Obligations.RaisedCausesAreLatchedAndAnnounced : Prop :=
  (∀ (s s1 : State) (c : Instr) (cause : Cause), s.raises c cause s1 →
    (s.tripUnit.causes.has cause = false → Takes c s fun t =>
      t.tripUnit.causes = s.tripUnit.causes.put cause true ∧ t.tripped = true
        ∧ t.tripUnit.origins = s.tripUnit.origins
        ∧ (s.tripUnit.causes.zoneWide.any = false →
          t.tripUnit.stampCounter = (if s.tripUnit.stampCounter < 65535 then s.tripUnit.stampCounter + 1 else 1)
            ∧ t.tripUnit.episode = some t.tripUnit.stampCounter)
        ∧ (s.tripUnit.causes.zoneWide.any = true →
          t.tripUnit.stampCounter = s.tripUnit.stampCounter ∧ t.tripUnit.episode = s.tripUnit.episode)
        ∧ (s.inConfigFault = true → t.link.reserved = s.link.reserved)
        ∧ (s.inConfigFault = false → t.tripUnit.announced = true
          ∧ ∀ z stamp, s.cfg.zone = some z → t.tripUnit.episode = some stamp → s.link.reserved = [] →
            t.link.reserved = [s.entryOf ⟨0, .trip, oneByte z ++ beBytes 2 stamp
              ++ oneByte (causeSetCode t.tripUnit.causes.zoneWide), .tripUnit, .plain⟩]))
    ∧ (s.tripUnit.causes.has cause = true → Takes c s fun t =>
      t.tripUnit.causes = s.tripUnit.causes ∧ t.tripped = true ∧ t.tripUnit.origins = s.tripUnit.origins
        ∧ t.tripUnit.stampCounter = s.tripUnit.stampCounter ∧ t.tripUnit.episode = s.tripUnit.episode
        ∧ t.tripUnit.announced = s.tripUnit.announced ∧ t.link.reserved = s.link.reserved))
  ∧ ∀ (s : State) (h : HoseIx) (c : Instr),
    (s.stuckBy h c ∧ (s.hoses.get h).state ≠ .flowing ∧ (s.hoses.get h).state ≠ .trimming
        ∧ (∀ f, (s.hoses.get h).state ≠ .outOfService f)
      ∨ s.unit.powered = true ∧ (s.hoses.get h).state = .ending ∧ ∃ m, (s.valves.get h).flowPast = some m
          ∧ s.cfg.endingLimit * 1000 ≤ m ∧ c = .flowPastExpiry h) →
    Takes c s fun t =>
      t.tripUnit = { s.tripUnit with causes := s.tripUnit.causes.put .valveStuck true } ∧ t.tripped = true
        ∧ t.link.reserved = s.link.reserved

/-- SPILL_INPUT_CONFIRM, EMERGENCY_STOP, TRIP_RESET_KEY and KEY_RELEASE that raise nothing and turn no key: a level not
held long enough is discarded, an input of function NONE is not watched, a level at rest and a released button are
recorded, the first key level after a start is only recorded, and the key at rest stops the override hold. (The held
times are the commands': log 3.) -/
def Obligations.InputsAndKeysAreQualified : Prop :=
  (∀ s : State, s.unit.powered = true →
    (∀ i b n, n < s.cfg.spillConfirm * 100 → exec (.spillInputConfirm i b n) s = .next s)
    ∧ (∀ i b n, (s.cfg.spill.get i).function = .none → exec (.spillInputConfirm i b n) s = .next s)
    ∧ (∀ i n, s.cfg.spillConfirm * 100 ≤ n → (s.cfg.spill.get i).function ≠ .none →
      exec (.spillInputConfirm i (s.cfg.spill.get i).senseOpen n) s
        = .next (s.setTripUnit { s.tripUnit with inputs := s.tripUnit.inputs.set i .atRest }))
    ∧ (∀ b n, n < 100 → exec (.emergencyStop b n) s = .next s)
    ∧ (∀ n, 100 ≤ n → exec (.emergencyStop false n) s
      = .next (s.setTripUnit { s.tripUnit with button := .released })))
  ∧ (∀ (s : State) (n : Nat), s.unit.powered = true →
    (n < 100 → exec (.tripResetKey n) s = .next s ∧ exec (.keyRelease n) s = .next s)
    ∧ (100 ≤ n → s.tripUnit.keySwitch = .unqualified →
      exec (.tripResetKey n) s = .next (s.setTripUnit { s.tripUnit with keySwitch := .reset }))
    ∧ (100 ≤ n → s.tripUnit.keySwitch = .reset → exec (.tripResetKey n) s = .next s)
    ∧ (100 ≤ n →
      exec (.keyRelease n) s = .next (s.setTripUnit { s.tripUnit with keySwitch := .atRest, overrideTimer := none })))

/-- The entry to TRIPPED, by a cause raised here (VALVE_STUCK of a hose without a live delivery among them) or by a peer's
TRIP or BEACON: every valve is driven to 0, every contactor is off and its minimum-off timer started anew, a WAITING hose is
refused with TRIPPED, a delivery in PRIMING, FLOWING or TRIMMING ends with TRIP (at once where its meter has been quiet for
the end-settle time), and every other hose is unchanged. (With OVERFILL the scan's own dead-level watch comes first: here it
finds no delivery to end. That the lamp of a hose out of service with VALVE_STUCK begins to flash lit: log 16.) -/
def Obligations.EnteringTrippedShutsTheStationDown : Prop :=
  ∀ (s s1 : State) (c : Instr), s.tripped = false →
    ((∃ cause, s.raises c cause s1
        ∧ ∀ d k b, s.overfills c d k b → (∀ h, s.liveTank h ≠ some (s.cfg.probes.get d).tank)
          ∨ (s.setBook k b).stockGone (s.cfg.probes.get d).tank = false)
      ∨ s.bringsOrigin c ∧ s1 = s
      ∨ ∃ h, s.stuckBy h c ∧ liveState (s.hoses.get h).state = false
          ∧ (∀ f, (s.hoses.get h).state ≠ .outOfService f)
          ∧ s1 = s.setHose h { s.hoses.get h with
              state := .outOfService .valveStuck, claimTimer := none, tagTimer := none, noFlow := none, lamp := true
              flash := some 0 }) →
    Takes c s (ShutDown s1)

/-- TRIP_RESET_KEY as a key operation: a hose OUT_OF_SERVICE at rest goes to IDLE, or to REFUSED with NOT_HUNG off hook
or with CONFIG in CONFIG_FAULT, its phase errors cleared; a FAULTED pump cools down; the override hold starts. Exactly
the causes whose condition is present stay latched; every creep accumulator is cleared to 0; the last zone-wide one ends
the episode, with a CLEAR where it was announced. (That a hose whose hook is not yet qualified goes to IDLE is the model's
reading: log 15.) -/
def Obligations.KeyOperationResetsTheStation : Prop :=
  (∀ (s : State) (c : Instr), s.keyTurned c → Takes c s fun t =>
    (∀ h, (∃ f, (s.hoses.get h).state = .outOfService f) → s.atRest h →
      (t.hoses.get h).state = (if s.inConfigFault then .refused .config
          else if (s.hoses.get h).hook = some .offHook then .refused .notHung else .idle)
        ∧ (t.meters.get h).phaseErrors = 0)
      ∧ (∀ h, ((∀ f, (s.hoses.get h).state ≠ .outOfService f) ∨ ¬s.atRest h) → t.hoses.get h = s.hoses.get h)
      ∧ (∀ p, (s.pumps.get p).state = .faulted →
        t.pumps.get p = { s.pumps.get p with state := .cooldown, timer := some 0 })
      ∧ (∀ p, (s.pumps.get p).state ≠ .faulted → (s.pumps.get p).state ≠ .off → t.pumps.get p = s.pumps.get p)
      ∧ t.tripUnit.keySwitch = .reset ∧ t.tripUnit.overrideTimer = some 0
      ∧ sameOutside (.tripUnit :: .queue :: moving) s t)
  ∧ (∀ (s : State) (c : Instr), s.keyTurned c → Takes c s fun t =>
    (∀ x, t.tripUnit.causes.has x = true ↔ s.tripUnit.causes.has x = true ∧ s.stillPresent x)
      ∧ t.tripUnit.origins = s.tripUnit.origins ∧ t.tripUnit.stampCounter = s.tripUnit.stampCounter
      ∧ (∀ h, (t.meters.get h).creep = 0)
      ∧ (t.tripUnit.causes.zoneWide.any = true →
        t.tripUnit.episode = s.tripUnit.episode ∧ t.tripUnit.announced = s.tripUnit.announced)
      ∧ (s.tripUnit.causes.zoneWide.any = true → t.tripUnit.causes.zoneWide.any = false →
        ∀ stamp, s.tripUnit.episode = some stamp →
          t.tripUnit.episode = none ∧ t.tripUnit.announced = false
            ∧ (s.tripUnit.announced = false → t.link = s.link)
            ∧ ∀ z, s.tripUnit.announced = true → s.inConfigFault = false → s.cfg.zone = some z →
              s.link.reserved = [] → t.link.reserved
                = [s.entryOf ⟨0, .clear, oneByte z ++ beBytes 2 stamp, .tripUnit, .plain⟩]))

/-- OVERRIDE_HOLD_EXPIRY: the origins that are LOST or not in the peer table leave the list, the others and the local
causes stay; with neither left the zone returns to NORMAL and the valves follow their stages again. Before the hold time
nothing happens. -/
def Obligations.OverrideRemovesLostOrigins : Prop :=
  (∀ s : State, s.unit.powered = true →
    (∀ n, s.tripUnit.overrideTimer = some n → n < 5000) → exec .overrideHoldExpiry s = .next s)
  ∧ ∀ (s : State) (n : Nat), s.unit.powered = true → s.tripUnit.overrideTimer = some n → 5000 ≤ n →
    Takes .overrideHoldExpiry s fun t =>
    t.tripUnit = { s.tripUnit with
        overrideTimer := none, origins := s.tripUnit.origins.filter fun o => s.heardFrom o.address }
      ∧ (s.tripped = true → t.tripped = false → ∀ h, (t.valves.get h).duty
        = (if s.inConfigFault then 0 else match (s.valves.get h).commanded with
          | .full => (s.hoseCfg h).fullDuty | .trim => (s.hoseCfg h).trimDuty | .shut => 0))
      ∧ (t.tripped = s.tripped → sameOutside [.tripUnit] s t)
      ∧ sameOutside [.tripUnit, .valves, .meters, .pumps] s t

/-- TRIP, and BEACON with a stamp, of this zone enter their sender's episode in the origin list, and the zone is
TRIPPED; a TRIP or CLEAR of another zone has no effect; a CLEAR removes its sender's entry of the same stamp, and a
BEACON without a stamp or of another zone removes its sender's entry; every other entry stays. An origin that finds the list
full with no LOST origin to replace is counted as a malformed frame, and nothing else comes of it. -/
def Obligations.PeerEpisodesMoveTheOriginList : Prop :=
  (∀ (s : State) (e : RxEntry) (rest : List RxEntry),
    (∀ b, s.offers .trip .tripUnit e rest → tripBody e.frame.body = .sound b →
      (s.cfg.zone ≠ some b.zone → exec .trip s = .next (s.took .trip .tripUnit e rest))
      ∧ (s.cfg.zone = some b.zone → Takes .trip s
        (EpisodeTaken ⟨e.frame.src, b.stamp, b.causes⟩ s (s.took .trip .tripUnit e rest))))
    ∧ (∀ b, s.offers .beacon .tripUnit e rest → beaconBody e.frame.body = .sound b → s.cfg.zone = some b.zone →
      0 < b.stamp → Takes .beacon s
        (EpisodeTaken ⟨e.frame.src, b.stamp, b.causes⟩ s (s.took .beacon .tripUnit e rest))))
  ∧ (∀ (s : State) (e : RxEntry) (rest : List RxEntry),
    (∀ b, s.offers .clear .tripUnit e rest → clearBody e.frame.body = .sound b →
      (s.cfg.zone ≠ some b.zone → exec .clear s = .next (s.took .clear .tripUnit e rest))
      ∧ (s.cfg.zone = some b.zone → Takes .clear s fun t =>
        t.tripUnit = { s.tripUnit with origins := s.tripUnit.origins.filter fun o =>
            !(o.address == e.frame.src && o.stamp == b.stamp) }
          ∧ (t.tripped = s.tripped → sameOutside [.tripUnit] (s.took .clear .tripUnit e rest) t)
          ∧ sameOutside [.tripUnit, .valves, .meters, .pumps] (s.took .clear .tripUnit e rest) t))
    ∧ (∀ b, s.offers .beacon .tripUnit e rest → beaconBody e.frame.body = .sound b →
      (s.cfg.zone ≠ some b.zone ∨ b.stamp = 0) → Takes .beacon s fun t =>
        t.tripUnit = { s.tripUnit with origins := s.tripUnit.origins.filter fun o => o.address != e.frame.src }
          ∧ (t.tripped = s.tripped → sameOutside [.tripUnit] (s.took .beacon .tripUnit e rest) t)
          ∧ sameOutside [.tripUnit, .valves, .meters, .pumps] (s.took .beacon .tripUnit e rest) t))

/-! ## Peers (chapter 9) -/

/-- PEER_TABLE_UPDATE: a sound frame of a peer makes its entry HEARD now with both timers restarted, a BEACON giving its
interval and tanks; a new peer is entered in the place of its address, over the LOST entry heard longest ago when 32 are
held, or is counted. (How last heards compare across the end of local seconds: log 33.) -/
def Obligations.SoundFramesRefreshTheirPeer : Prop :=
  ∀ (s : State) (k : FrameKind) (e : RxEntry) (rest : List RxEntry) (news : Option (Nat × List Nat)),
    s.offers k .peerTable e rest → (k ≠ .beacon → news = none) →
    (k = .beacon → ∃ b, beaconBody e.frame.body = .sound b ∧ news = some (b.interval, b.tanks)) →
    ((∃ p ∈ s.peers, p.address = e.frame.src) →
      exec .peerTableUpdate s = .next ((s.took k .peerTable e rest).setPeers (s.peers.map fun p =>
        if p.address = e.frame.src then { p with
          lastHeard := s.unit.seconds, state := .heard, quietTimer := some 0, lostTimer := some 0
          interval := (news.map Prod.fst).getD p.interval, tanks := (news.map Prod.snd).getD p.tanks } else p)))
    ∧ ((∀ p ∈ s.peers, p.address ≠ e.frame.src) → ∀ fresh : Peer,
      fresh = { address := e.frame.src, interval := (news.map Prod.fst).getD s.cfg.beaconInterval
                lastHeard := s.unit.seconds, state := .heard, tanks := (news.map Prod.snd).getD []
                quietTimer := some 0, lostTimer := some 0 } →
      (s.peers.length < 32 → Takes .peerTableUpdate s fun t =>
        t = (s.took k .peerTable e rest).setPeers t.peers ∧ t.peers.Perm (fresh :: s.peers)
          ∧ (peersInOrder s.peers → t.peers = (s.peers.filter fun p => p.address < e.frame.src) ++ fresh
            :: s.peers.filter fun p => e.frame.src < p.address))
      ∧ (∀ q ∈ s.peers, 32 ≤ s.peers.length → peersInOrder s.peers → q.state = .lost →
        (∀ p ∈ s.peers, p.state = .lost →
          q.lastHeard < p.lastHeard ∨ q.lastHeard = p.lastHeard ∧ q.address ≤ p.address) →
        Takes .peerTableUpdate s fun t =>
          t = (s.took k .peerTable e rest).setPeers t.peers
            ∧ t.peers.Perm (fresh :: s.peers.filter fun p => p.address != q.address)
            ∧ t.peers = (s.peers.filter fun p => p.address != q.address && p.address < e.frame.src) ++ fresh
              :: s.peers.filter fun p => p.address != q.address && e.frame.src < p.address)
      ∧ (32 ≤ s.peers.length → (∀ p ∈ s.peers, p.state ≠ .lost) →
        exec .peerTableUpdate s = .next ((s.took k .peerTable e rest).setCounts
          { s.counts with peerFull := min (s.counts.peerFull + 1) 65535 })))

/-- PEER_QUIET_EXPIRY, PEER_LOST_EXPIRY and BEACON_TIMER_EXPIRY: a HEARD peer becomes QUIET where that comes first; a
peer becomes LOST and the CURRENT books of its tanks that are not gauged here become AGED; a peer heard again at the same
instant keeps HEARD. A JOINED station queues its BEACON and restarts the timer, and so does one in CONFIG_FAULT with a
valid address and an image that gives a zone, with the fault flag and no tanks; one in LISTEN or ISOLATED, and any other in
CONFIG_FAULT, only restarts it. -/
def Obligations.PeerAndBeaconTimersExpire : Prop :=
  (∀ (s : State) (a : Nat), s.unit.powered = true →
    exec (.peerQuietExpiry a) s = .next (s.setPeers (s.peers.map fun p =>
      if p.address = a ∧ p.state = .heard ∧ (p.quietTimer.any fun n => decide (2 * p.interval * 1000 ≤ n)) = true
          ∧ 2 * p.interval < s.cfg.lostTimeout
        then { p with state := .quiet, quietTimer := none } else p))
    ∧ (∀ p n, s.peer a = some p → p.lostTimer = some n →
      (n < s.cfg.lostTimeout * 1000 → exec (.peerLostExpiry a) s = .next s)
      ∧ (s.cfg.lostTimeout * 1000 ≤ n → Takes (.peerLostExpiry a) s fun t =>
        t = { s with peers := t.peers, books := t.books }
          ∧ t.peers = (s.peers.map fun q =>
            if q.address = a then { q with state := .lost, quietTimer := none, lostTimer := none } else q)
          ∧ ∀ k, t.books.get k = (if (s.cfg.books.get k).tank ∈ p.tanks ∧ (s.cfg.books.get k).tank ≠ 0
                ∧ s.probeOf (s.cfg.books.get k).tank = none ∧ (s.books.get k).state = .current
              then { s.books.get k with state := .aged, ageTimer := none } else s.books.get k)))
    ∧ (s.peer a = none → exec (.peerLostExpiry a) s = .next s))
  ∧ ∀ s : State, s.unit.powered = true →
    (s.beaconTimer < s.cfg.beaconInterval * 1000 → exec .beaconTimerExpiry s = .next s)
    ∧ (s.cfg.beaconInterval * 1000 ≤ s.beaconTimer →
      (s.link.join = .listen ∨ s.link.join = .isolated
          ∨ s.link.join = .configFault ∧ (s.cfg.zone = none ∨ s.unit.strap = 0 ∨ 47 < s.unit.strap) →
        exec .beaconTimerExpiry s = .next { s with beaconTimer := 0 })
      ∧ ∀ z stamp, s.cfg.zone = some z → s.tripUnit.episode = stamp →
        (∀ e ∈ s.link.ordinary, e.kind ≠ .beacon) → s.link.ordinary.length < 6 →
        (s.link.join = .joined → exec .beaconTimerExpiry s = .next { s with
          beaconTimer := 0
          link := { s.link with ordinary := s.link.ordinary ++ [s.entryOf
            ⟨0, .beacon, oneByte s.cfg.beaconInterval ++ oneByte z ++ oneByte 2
                ++ oneByte (2 * bitCode s.gauging.conflict + 4 * bitCode s.journal.full
                  + 8 * bitCode s.accounts.rosterFull)
                ++ beBytes 2 (stamp.getD 0)
                ++ oneByte (if stamp.isSome then causeSetCode s.tripUnit.causes.zoneWide else 0)
                ++ oneByte s.liveHoses.length ++ beBytes 4 s.unit.seconds ++ oneByte s.tanksGauged.length
                ++ s.tanksGauged.flatMap oneByte, .peerTable, .plain⟩] } })
        ∧ (s.link.join = .configFault → 1 ≤ s.unit.strap → s.unit.strap ≤ 47 →
          exec .beaconTimerExpiry s = .next { s with
            beaconTimer := 0
            link := { s.link with ordinary := s.link.ordinary ++ [s.entryOf
              ⟨0, .beacon, oneByte s.cfg.beaconInterval ++ oneByte z ++ oneByte 4
                  ++ oneByte (1 + 2 * bitCode s.gauging.conflict + 4 * bitCode s.journal.full
                    + 8 * bitCode s.accounts.rosterFull)
                  ++ beBytes 2 (stamp.getD 0)
                  ++ oneByte (if stamp.isSome then causeSetCode s.tripUnit.causes.zoneWide else 0)
                  ++ oneByte s.liveHoses.length ++ beBytes 4 s.unit.seconds ++ oneByte 0, .peerTable, .plain⟩] } }))

/-! ## Journal frames (chapter 6) -/

/-- COLLECT: with no uncollected record nothing is marked; a sequence from the oldest uncollected one to the newest
marks all up to it; one ahead of the newest marks all up to the newest; one behind marks nothing. The reply is a
JOURNAL_END with the sequences and the mark as they then stand. -/
def Obligations.CollectMarksUpToItsSequence : Prop :=
  ∀ (s : State) (e : RxEntry) (rest : List RxEntry) (q : Nat) (j : Journal),
    s.offers .collect .journal e rest → collectBody e.frame.body = .sound q →
    ((∀ r ∈ s.journal.records, r.collected = true) ∧ j = s.journal
      ∨ ∃ a o b n, s.journal.records = a ++ o :: b ∧ (∀ r ∈ a, r.collected = true) ∧ o.collected = false
        ∧ s.journal.records.getLast? = some n
        ∧ ((q + 4294967295 - o.sequence) % 4294967295 ≤ (n.sequence + 4294967295 - o.sequence) % 4294967295
            ∧ j = { s.journal with
              mark := q
              records := s.journal.records.map fun r => if r.collected = false
                  ∧ (r.sequence + 4294967295 - o.sequence) % 4294967295 ≤ (q + 4294967295 - o.sequence) % 4294967295
                then { r with collected := true } else r }
          ∨ (n.sequence + 4294967295 - o.sequence) % 4294967295 < (q + 4294967295 - o.sequence) % 4294967295
            ∧ 1 ≤ (q + 4294967295 - n.sequence) % 4294967295
            ∧ (q + 4294967295 - n.sequence) % 4294967295 ≤ 2147483647
            ∧ j = { s.journal with
              mark := n.sequence
              records := s.journal.records.map fun r => if r.collected = false
                  ∧ (r.sequence + 4294967295 - o.sequence) % 4294967295
                    ≤ (n.sequence + 4294967295 - o.sequence) % 4294967295
                then { r with collected := true } else r }
          ∨ (n.sequence + 4294967295 - o.sequence) % 4294967295 < (q + 4294967295 - o.sequence) % 4294967295
            ∧ 2147483647 < (q + 4294967295 - n.sequence) % 4294967295 ∧ j = s.journal)) →
    exec .collect s = .next (reply e.frame.src .journalEnd
      (beBytes 4 ((j.records.head?.map fun r => r.sequence).getD 0)
        ++ beBytes 4 ((j.records.getLast?.map fun r => r.sequence).getD 0) ++ beBytes 4 j.mark) .journal .plain
      ((s.took .collect .journal e rest).setJournal j))

/-- JOURNAL_READ and the FRAME_SENT of a read's frame: the next named record that is held is answered, the named
sequences that are not held are skipped, and after them a JOURNAL_END is answered, whose sending ends the read; a second
read meanwhile is refused with FULL. (What a record carries: RepliesCarryTheirLayouts.) -/
def Obligations.ReadsAnswerRecordByRecord : Prop :=
  (∀ (s : State) (e : RxEntry) (rest : List RxEntry) (first count : Nat),
    s.offers .journalRead .journal e rest → journalReadBody e.frame.body = .sound (first, count) →
    (s.journal.read.isSome → exec .journalRead s = .next (refuse e.frame.src e.frame.kind .full .journal
      (s.took .journalRead .journal e rest)))
    ∧ (s.journal.read = none →
      (∀ d i, i < count → s.journal.records.find? (fun r => r.sequence == nextSequence^[i] first) = some d →
        (∀ m, m < i → ∀ r ∈ s.journal.records, r.sequence ≠ nextSequence^[m] first) →
        exec .journalRead s = .next (reply e.frame.src .journalRec (journalRecBody d) .journal .readFrame
          ((s.took .journalRead .journal e rest).setJournal { s.journal with
            read := some ⟨e.frame.src, nextSequence^[i + 1] first, count - (i + 1), false⟩ })))
      ∧ ((∀ m, m < count → ∀ r ∈ s.journal.records, r.sequence ≠ nextSequence^[m] first) →
        exec .journalRead s = .next (reply e.frame.src .journalEnd (journalEndBody s.journal) .journal .readFrame
          ((s.took .journalRead .journal e rest).setJournal { s.journal with
            read := some ⟨e.frame.src, first, 0, true⟩ })))))
  ∧ (∀ (s sent : State) (e : TxEntry) (r : ReadInProgress), s.unit.powered = true → s.link.driver = .tail →
    s.link.current = some e → e.purpose = .readFrame → s.journal.read = some r →
    sent = s.setLink { s.link.dropCurrent with driver := .released, failures := 0 } →
    (r.endHanded = true → exec .frameSent s = .next (sent.setJournal { s.journal with read := none }))
    ∧ (∀ d i, r.endHanded = false → i < r.left →
      s.journal.records.find? (fun x => x.sequence == nextSequence^[i] r.next) = some d →
      (∀ m, m < i → ∀ x ∈ s.journal.records, x.sequence ≠ nextSequence^[m] r.next) →
      exec .frameSent s = .next (reply r.requester .journalRec (journalRecBody d) .journal .readFrame
        (sent.setJournal { s.journal with
          read := some { r with next := nextSequence^[i + 1] r.next, left := r.left - (i + 1) } })))
    ∧ (r.endHanded = false → (∀ m, m < r.left → ∀ x ∈ s.journal.records, x.sequence ≠ nextSequence^[m] r.next) →
      exec .frameSent s = .next (reply r.requester .journalEnd (journalEndBody s.journal) .journal .readFrame
        (sent.setJournal { s.journal with read := some { r with left := 0, endHanded := true } }))))

/-! ## Frames and requests (chapter 8) -/

/-- STATUS_REQ, IDENT_REQ, RESTART and TIME: the part asked for is answered (its unstated characters free: log 11; what a
part carries: RepliesCarryTheirLayouts), with clearing the counts at 0; the identity is answered with the vendor, part and revision and the image's check value; a
RESTART so too, its sending awaited; TIME makes the site time the value it carries. -/
def Obligations.StartUnitAnswersItsFrames : Prop :=
  ∀ (s : State) (e : RxEntry) (rest : List RxEntry),
    (∀ part clear, s.offers .statusReq .startUnit e rest → statusReqBody e.frame.body = .sound (part, clear) →
      exec .statusReq s = .next (reply e.frame.src .statusRep (s.statusBody part) .startUnit .plain
        (if clear then (s.took .statusReq .startUnit e rest).setCounts ⟨0, 0, 0, 0, 0, 0, 0, 0⟩
          else s.took .statusReq .startUnit e rest)))
    ∧ (s.offers .identReq .startUnit e rest → exec .identReq s = .next (reply e.frame.src .identRep
        (beBytes 2 2817 ++ beBytes 2 7310 ++ oneByte 1 ++ beBytes 2 (imageCheck s.unit.image)) .startUnit .plain
        (s.took .identReq .startUnit e rest)))
    ∧ (s.offers .restart .startUnit e rest → exec .restart s = .next (reply e.frame.src .identRep
        (beBytes 2 2817 ++ beBytes 2 7310 ++ oneByte 1 ++ beBytes 2 (imageCheck s.unit.image)) .startUnit .restartReply
        (s.took .restart .startUnit e rest)))
    ∧ (∀ v, s.offers .time .startUnit e rest → timeBody e.frame.body = .sound v → Takes .time s fun t =>
        t.siteTime = some v
          ∧ t = (s.took .time .startUnit e rest).setUnit { s.unit with siteOffset := t.unit.siteOffset })

/-- Admission and content: a report is sound from a station (a LEVEL from an office too) with a good body; an
administrative frame from an office; a request from an office to this station; a frame that fails is answered with
REFUSED or counted as malformed, and leaves the receive buffer; a frame without an owner only leaves it. (That the start
and configuration unit answers an unknown kind: log 5.) -/
def Obligations.FramesAreAdmittedOrDiscarded : Prop :=
  (∀ (f : Frame) (k : FrameKind), kindOfCode f.kind = some k →
    (familyOf k = .report → verdict f = (if (1 ≤ f.src ∧ f.src ≤ 47 ∨ k = .level ∧ 48 ≤ f.src ∧ f.src ≤ 63)
      ∧ contentTest k f.body = none then .sound else .counted))
    ∧ (familyOf k = .administrative → verdict f = (if 48 ≤ f.src ∧ f.src ≤ 63 then
        match contentTest k f.body with
        | none => .sound
        | some c => if f.dest = 0 then .counted else .refused c
        else .counted))
    ∧ (familyOf k = .request → verdict f = (if 48 ≤ f.src ∧ f.src ≤ 63 ∧ f.dest ≠ 0 then
        match contentTest k f.body with
        | none => .sound
        | some c => .refused c
        else .counted))
    ∧ (familyOf k = .reply → verdict f = .counted))
  ∧ (∀ (s : State) (e : RxEntry) (rest : List RxEntry) (left : State), s.unit.powered = true →
    s.link.buffer = e :: rest → left = s.setLink { s.link with buffer := rest } →
    (kindOfCode e.frame.kind = none → exec .unknownKindFrame s
      = .next (if 48 ≤ e.frame.src ∧ e.frame.src ≤ 63 ∧ e.frame.dest ≠ 0
          then refuse e.frame.src e.frame.kind .unknownKind .startUnit left
          else left.setCounts { s.counts with malformed := min (s.counts.malformed + 1) 65535 }))
    ∧ (∀ k b, kindOfCode e.frame.kind = some k → b ∈ mainOwners k →
      (verdict e.frame = .counted → exec (takeCommand k b) s
        = .next (left.setCounts { s.counts with malformed := min (s.counts.malformed + 1) 65535 }))
      ∧ (∀ c, verdict e.frame = .refused c → exec (takeCommand k b) s
        = .next (refuse e.frame.src e.frame.kind c b left))
      ∧ (verdict e.frame = .sound → ownersOf k e.frame.src s.inConfigFault = [] →
        exec (takeCommand k b) s = .next left)))

/-! ## The bay line (chapter 7) -/

/-- CHARACTER_RECEIVED and CHARACTER_TIMEOUT while the station does not send: a marked character for this station opens
a frame and another mutes the receiver, a partial frame being counted; a stray character is counted once a run; a frame
is complete with its second check character, is weighed by its check and its source, and joins the receive buffer while
that holds fewer than four; three silent character times since its last character discard a partial frame, so that a
timeout taken after a head that came at the same instant leaves the head's frame. (Characters during the lead and the tail,
and one both marked and mis-framed, are the model's reading: logs 18 and 19; so is the count of character times that the
timeout carries: log 17.) -/
def Obligations.CharactersAssembleFrames : Prop :=
  ∀ (s : State) (data : Byte) (quiet : State), s.unit.powered = true → (∀ n, s.link.driver ≠ .sending n) →
    quiet = s.setLink { s.link with silence := none } →
    (∀ marked good, s.link.receiver = .muted → (marked = true → good = false) →
      exec (.characterReceived data marked good) s = .next quiet)
    ∧ (∀ r framing, r = (if data.toNat = 0 ∨ data.toNat = s.ownAddress then Receiver.assembling data.toNat []
        else .muted) → framing = (match s.link.receiver with
          | .assembling _ _ => min (s.counts.framing + 1) 65535
          | _ => s.counts.framing) →
      exec (.characterReceived data true true) s
        = .next ((quiet.setLink { quiet.link with receiver := r }).setCounts { s.counts with framing := framing }))
    ∧ (∀ counted marked good, s.link.receiver = .seeking counted → (marked = true → good = false) →
      exec (.characterReceived data marked good) s = .next (if counted then quiet
        else (quiet.setLink { quiet.link with receiver := .seeking true }).setCounts
          { s.counts with framing := min (s.counts.framing + 1) 65535 }))
    ∧ (∀ w, (∀ dest cs, s.link.receiver ≠ .assembling dest cs) → exec (.characterTimeout w) s = .next s)
    ∧ (∀ dest cs, s.link.receiver = .assembling dest cs →
      (∀ marked, exec (.characterReceived data marked false) s
        = .next ((quiet.setLink { quiet.link with receiver := .seeking false }).setCounts
          { s.counts with framing := min (s.counts.framing + 1) 65535 }))
      ∧ (∀ w n, n = s.link.silence.getD 0 + w →
        (3 ≤ n → exec (.characterTimeout w) s
          = .next ((s.setLink { s.link with receiver := .seeking false, silence := some n }).setCounts
            { s.counts with framing := min (s.counts.framing + 1) 65535 }))
        ∧ (n < 3 → exec (.characterTimeout w) s = .next s))
      ∧ ∀ all n seek, all = cs ++ [data] → n = field all 2 1 →
        seek = quiet.setLink { quiet.link with receiver := .seeking false } →
        (all.length < 3 ∨ n ≤ 64 ∧ all.length < 5 + n →
          exec (.characterReceived data false true) s
            = .next (quiet.setLink { quiet.link with receiver := .assembling dest all }))
        ∧ (3 ≤ all.length → 64 < n → exec (.characterReceived data false true) s
          = .next (seek.setCounts { s.counts with framing := min (s.counts.framing + 1) 65535 }))
        ∧ (n ≤ 64 → all.length = 5 + n →
          (checkCode (all.take (3 + n)) ≠ field all (3 + n) 2 → exec (.characterReceived data false true) s
            = .next (seek.setCounts { s.counts with check := min (s.counts.check + 1) 65535 }))
          ∧ (checkCode (all.take (3 + n)) = field all (3 + n) 2 →
            (field all 0 1 = 0 ∨ 63 < field all 0 1 ∨ field all 0 1 = s.ownAddress →
              exec (.characterReceived data false true) s
                = .next (seek.setCounts { s.counts with malformed := min (s.counts.malformed + 1) 65535 }))
            ∧ (1 ≤ field all 0 1 → field all 0 1 ≤ 63 → field all 0 1 ≠ s.ownAddress →
              exec (.characterReceived data false true) s = .next (if s.link.buffer.length < 4
                then seek.setLink { seek.link with buffer := s.link.buffer
                  ++ [⟨⟨dest, field all 0 1, field all 1 1, (all.drop 3).take n⟩, []⟩] }
                else seek.setCounts { s.counts with overrun := min (s.counts.overrun + 1) 65535 })))))

/-- ACCESS_GAP_REACHED, LEAD_TIME_END, the matched echoes of CHARACTER_RECEIVED, and FRAME_SENT: a JOINED station takes
the line for the oldest frame of the lowest class once the silence reaches its gap, sends its characters from the end of
the lead time, and at the end of the tail, which every matched echo precedes, its entry leaves the queue; in LISTEN and
ISOLATED no attempt begins. (The silence is the command's count of character times: log 17.) -/
def Obligations.AttemptsSendTheFirstFrame : Prop :=
  (∀ (s : State) (n : Nat), s.unit.powered = true → s.link.driver = .released → s.link.silence = none →
    (s.link.join = .listen ∨ s.link.join = .isolated →
      exec (.accessGapReached n) s = .next (s.setLink { s.link with silence := some n }))
    ∧ ∀ a e b (gap : Nat), s.link.join = .joined →
      gap = 3 + 2 * accessClass e.kind
        + (if e.attempt ≤ 1 then 0 else (s.ownAddress * 5 + e.attempt * 3) % 16) →
      (∀ q ∈ a, accessClass e.kind < accessClass q.kind) → (∀ q ∈ b, accessClass e.kind ≤ accessClass q.kind) →
      (n < gap → s.link.reserved = [] → s.link.ordinary = a ++ e :: b →
        exec (.accessGapReached n) s = .next (s.setLink { s.link with silence := some n }))
      ∧ (gap ≤ n → s.link.reserved = [] → s.link.ordinary = a ++ e :: b →
        exec (.accessGapReached n) s = .next (s.setLink { s.link with
          silence := some n, driver := .lead, ordinary := a ++ { e with status := .inTransmission } :: b }))
      ∧ (gap ≤ n → s.link.reserved = a ++ e :: b →
        exec (.accessGapReached n) s = .next (s.setLink { s.link with
          silence := some n, driver := .lead, reserved := a ++ { e with status := .inTransmission } :: b })))
  ∧ (∀ s : State, s.unit.powered = true → s.link.driver = .lead →
    exec .leadTimeEnd s = .next (s.setLink { s.link with driver := .sending 0, silence := none }))
  ∧ (∀ (s : State) (e : TxEntry) (cs : List (Byte × Bool)) (m : Nat), s.unit.powered = true →
    s.link.current = some e → cs = s.charactersOf e →
    (∀ data marked, s.link.driver = .sending m → cs[m]? = some (data, marked) →
      exec (.characterReceived data marked true) s = .next (s.setLink { s.link with
        silence := none, driver := if m + 1 < cs.length then .sending (m + 1) else .tail }))
    ∧ (s.link.driver = .tail → e.purpose = .plain → exec .frameSent s = .next (s.setLink { s.link with
        driver := .released, failures := 0
        ordinary := s.link.ordinary.filter fun q => q.status != .inTransmission
        reserved := s.link.reserved.filter fun q => q.status != .inTransmission }))
    ∧ (s.link.driver ≠ .tail → exec .frameSent s = .next s))

/-- ECHO_MISMATCH, or a mismatching echo: the driver is released and the collision counted; the frame waits for its next
attempt, or leaves at its eighth, counted as dropped, but for a TRIP or CLEAR; with a frame that leaves, a journal read it
was of ends, and a RESTART that waited on it is given up, nothing else coming of that. The sixteenth failure in a row
isolates a JOINED station, whose CURRENT books age, the frame's own outcome first; in CONFIG_FAULT only the count returns
to 0. ISOLATION_HOLD_EXPIRY leads to LISTEN and JOIN_TIMER_EXPIRY to JOINED. (That a mismatching character is the mismatch
itself: log 18.) -/
def Obligations.FailedAttemptsEndInIsolation : Prop :=
  (∀ (s failed kept gone : State) (c : Instr) (m : Nat) (e : TxEntry), s.unit.powered = true →
    s.link.driver = .sending m → s.link.current = some e →
    (c = .echoMismatch ∧ failed = s
      ∨ ∃ data marked good, c = .characterReceived data marked good
        ∧ (good = false ∨ (s.charactersOf e)[m]? ≠ some (data, marked))
        ∧ failed = s.setLink { s.link with silence := none }) →
    kept = (failed.setLink { failed.link with
        driver := .released
        ordinary := s.link.ordinary.map fun q =>
          if q.status = .inTransmission then { q with attempt := q.attempt + 1, status := .started } else q
        reserved := s.link.reserved.map fun q =>
          if q.status = .inTransmission then { q with attempt := q.attempt + 1, status := .started } else q }).setCounts
      { s.counts with collision := min (s.counts.collision + 1) 65535 } →
    gone = ((failed.setLink { failed.link with
        driver := .released
        ordinary := s.link.ordinary.filter fun q => q.status != .inTransmission
        reserved := s.link.reserved.filter fun q => q.status != .inTransmission }).setCounts { s.counts with
      collision := min (s.counts.collision + 1) 65535, drop := min (s.counts.drop + 1) 65535 }).toldLost e.purpose →
    ∀ after, (e.attempt < 8 ∨ e.kind = .trip ∨ e.kind = .clear) ∧ after = kept
        ∨ 8 ≤ e.attempt ∧ e.kind ≠ .trip ∧ e.kind ≠ .clear ∧ after = gone →
      (s.link.failures < 15 →
        exec c s = .next (after.setLink { after.link with failures := s.link.failures + 1 }))
      ∧ (15 ≤ s.link.failures → s.link.join = .configFault →
        exec c s = .next (after.setLink { after.link with failures := 0 }))
      ∧ (15 ≤ s.link.failures → s.link.join = .joined → Takes c s fun t =>
        t = { after with
            link := { after.link with
              join := .isolated, isolationTimer := some 0, joinTimer := none, failures := 0 }
            books := t.books }
          ∧ ∀ k, t.books.get k = (if (s.books.get k).state = .current
            then { s.books.get k with state := .aged, ageTimer := none } else s.books.get k)))
  ∧ (∀ (s : State) (n : Nat), s.unit.powered = true →
    (s.link.join = .isolated → s.link.isolationTimer = some n → s.cfg.isolationHold * 1000 ≤ n →
      exec .isolationHoldExpiry s
        = .next (s.setLink { s.link with join := .listen, joinTimer := some 0, isolationTimer := none }))
    ∧ (s.link.isolationTimer = some n → n < s.cfg.isolationHold * 1000 →
      exec .isolationHoldExpiry s = .next s)
    ∧ (s.link.join = .listen → s.link.joinTimer = some n → s.cfg.joinTime * 1000 ≤ n →
      exec .joinTimerExpiry s = .next (s.setLink { s.link with join := .joined, joinTimer := none }))
    ∧ (s.link.joinTimer = some n → n < s.cfg.joinTime * 1000 → exec .joinTimerExpiry s = .next s))

/-- The hand-over of a frame: a BEACON takes the entry of a waiting one and is discarded while one is in transmission; a
TRIP or CLEAR takes the place of a fresh one, or a free reserved entry; any other frame takes a free ordinary entry; at
six a DRAW or LEVEL displaces the BEACON, else the oldest LEVEL, and a reply is dropped, its owner told; in CONFIG_FAULT
reports but the BEACON are discarded. -/
def Obligations.HandedFramesJoinTheQueue : Prop :=
  ∀ (f : NewFrame) (s : State),
    ((s.entryOf f).attempt = 1 ∧ (s.entryOf f).status = .fresh ∧ (s.entryOf f).joined = s.clock)
    ∧ (f.kind = .beacon →
      (∀ a e b, s.link.ordinary = a ++ e :: b → e.kind = .beacon → (∀ q ∈ a, q.kind ≠ .beacon) →
        handOver f s = if e.status = .inTransmission then s
          else s.setLink { s.link with ordinary := a ++ b ++ [s.entryOf f] })
      ∧ ((∀ q ∈ s.link.ordinary, q.kind ≠ .beacon) →
        handOver f s = if s.link.ordinary.length < 6
          then s.setLink { s.link with ordinary := s.link.ordinary ++ [s.entryOf f] }
          else (s.setCounts { s.counts with drop := min (s.counts.drop + 1) 65535 }).toldLost f.purpose))
    ∧ (f.kind = .trip ∨ f.kind = .clear → s.inConfigFault = false →
      (∀ a e b, s.link.reserved = a ++ e :: b → e.status = .fresh → (∀ q ∈ a, q.status ≠ .fresh) →
        handOver f s = s.setLink { s.link with reserved := a ++ b ++ [s.entryOf f] })
      ∧ ((∀ q ∈ s.link.reserved, q.status ≠ .fresh) → s.link.reserved.length < 2 →
        handOver f s = s.setLink { s.link with reserved := s.link.reserved ++ [s.entryOf f] }))
    ∧ (f.kind ≠ .beacon → f.kind ≠ .trip → f.kind ≠ .clear → s.inConfigFault = false →
      (s.link.ordinary.length < 6 →
        handOver f s = s.setLink { s.link with ordinary := s.link.ordinary ++ [s.entryOf f] })
      ∧ (6 ≤ s.link.ordinary.length → (f.kind ≠ .draw ∧ f.kind ≠ .level
          ∨ ∀ q ∈ s.link.ordinary, q.kind = .beacon ∨ q.kind = .level → q.status = .inTransmission) →
        handOver f s = (s.setCounts { s.counts with drop := min (s.counts.drop + 1) 65535 }).toldLost f.purpose)
      ∧ (∀ a e b, 6 ≤ s.link.ordinary.length → f.kind = .draw ∨ f.kind = .level → s.link.ordinary = a ++ e :: b →
        e.status ≠ .inTransmission →
        (e.kind = .beacon ∧ (∀ q ∈ a, q.kind = .beacon → q.status = .inTransmission)
          ∨ e.kind = .level ∧ (∀ q ∈ s.link.ordinary, q.kind = .beacon → q.status = .inTransmission)
            ∧ ∀ q ∈ a, q.kind = .level → q.status = .inTransmission) →
        handOver f s = ((s.setLink { s.link with ordinary := a ++ b ++ [s.entryOf f] }).setCounts
          { s.counts with drop := min (s.counts.drop + 1) 65535 }).toldLost e.purpose))
    ∧ (f.kind = .draw ∨ f.kind = .level ∨ f.kind = .trip ∨ f.kind = .clear → s.inConfigFault = true →
      handOver f s = s)

/-! ## Starts and power (chapter 10) -/

/-- POWER_ON to a COLD start: a good image and address with a retention domain that was not held, or of another image,
give every block its COLD values, with POWER_UP latched and the station in LISTEN. (That the command says whether the
domain was held: log 9; on a station under power it is a loss first: log 8; that no probe gate is open after a start:
log 23.) -/
def Obligations.ColdStartGivesTheColdValues : Prop :=
  ∀ (s : State) (strap : Nat) (image img : List Byte) (held : Bool), img = image.take 798 →
    faultReason strap img = .none → (held = true → s.unit.recordedCheck ≠ some (imageCheck img)) →
    Takes (.powerOn strap image held none) s fun t =>
      t.unit = { powered := true, strap := strap, image := img, settings := settingsOf img, fault := .none
                 kind := some .cold, seconds := 0, millis := 0, siteOffset := none
                 recordedCheck := some (imageCheck img) }
        ∧ t.link = { join := .listen, joinTimer := some 0, isolationTimer := none, ordinary := [], reserved := []
                     driver := .released, silence := none, receiver := .muted, buffer := [], failures := 0 }
        ∧ t.counts = ⟨0, 0, 0, 0, 0, 0, 0, 0⟩
        ∧ t.tripUnit = { causes := { noCauses with powerUp := true }, stampCounter := 0, episode := none
                         announced := false, origins := [], inputs := .fill .unsettled, button := .unsettled
                         keySwitch := .unqualified, overrideTimer := none }
        ∧ t.journal = { records := [], counter := 1, mark := 0, reserved := 0, read := none }
        ∧ t.accounts = { roster := [], permits := [], rosterFull := false } ∧ t.peers = []
        ∧ t.gauging = { scanTimer := 0, conflict := false, conflictTimer := none }
        ∧ t.creepTimer = 0 ∧ t.beaconTimer = 0 ∧ (∀ h, t.retained.get h = none)
        ∧ (∀ k, t.books.get k = { value := none, state := .unknown, variance := 0, varianceCount := 0, recent := []
                                  ageTimer := none })
        ∧ (∀ h, t.hoses.get h = { state := .idle, overrun := ((settingsOf img).hoses.get h).initialOverrun
                                  live := none, meterMark := false, hook := none, claimTimer := none, tagTimer := none
                                  noFlow := none, lamp := false, flash := none })
        ∧ (∀ h, t.meters.get h = { levelA := none, levelB := none, net := 0, phaseErrors := 0, creep := 0, quiet := 0
                                   window := 0, rate := 0, rateTimer := 0 })
        ∧ (∀ h, (t.valves.get h).commanded = .shut ∧ (t.valves.get h).duty = 0 ∧ (t.valves.get h).output = false
          ∧ (t.valves.get h).closed = false ∧ (t.valves.get h).flowPast = none)
        ∧ (∀ p, t.pumps.get p = { state := .cooldown, timer := some 0, proof := false })
        ∧ ∀ c, t.probes.get c = { state := .acquiring, history := []
                                  overfill := decide (((settingsOf img).probes.get c).tank ≠ 0), gate := none }

/-- POWER_ON with an invalid image or address: the station starts in CONFIG_FAULT with its reason, every hose held in
REFUSED with CONFIG and nothing queued; a retention domain that was held is kept, one that was not is at its COLD
values. (That the command says whether it was held: log 9; on a station under power it is a loss first: log 8.) -/
def Obligations.FaultyConfigurationHoldsTheStation : Prop :=
  ∀ (s : State) (strap : Nat) (image img : List Byte) (held : Bool), img = image.take 798 →
    faultReason strap img ≠ .none → Takes (.powerOn strap image held none) s fun t =>
      t.unit.powered = true ∧ t.unit.fault = faultReason strap img ∧ t.unit.settings = settingsOf img
        ∧ t.link.join = .configFault ∧ t.link.joinTimer = none ∧ t.link.ordinary = [] ∧ t.link.reserved = []
        ∧ t.tripped = true ∧ t.tripUnit.causes.powerUp = true ∧ t.tripUnit.announced = false
        ∧ (∀ h, (t.hoses.get h).state = .refused .config ∧ (t.hoses.get h).live = none ∧ (t.hoses.get h).lamp = true)
        ∧ (∀ h, (t.valves.get h).duty = 0 ∧ (t.valves.get h).output = false)
        ∧ (∀ p, (t.pumps.get p).state = .cooldown)
        ∧ (held = true → t.accounts.roster = s.accounts.roster ∧ t.journal.records = s.journal.records
          ∧ t.journal.counter = s.journal.counter ∧ t.journal.mark = s.journal.mark
          ∧ t.unit.recordedCheck = s.unit.recordedCheck ∧ (∀ h, (t.hoses.get h).overrun = (s.hoses.get h).overrun)
          ∧ (∀ k, (t.books.get k).value = (s.books.get k).value)
          ∧ ∀ x, x ≠ .powerUp → t.tripUnit.causes.has x = s.tripUnit.causes.has x)
        ∧ (held = false → t.accounts.roster = [] ∧ t.journal.records = [] ∧ t.unit.recordedCheck = none
          ∧ ∀ h, t.retained.get h = none)

/-- POWER_ON to a WARM start: the retained values are kept, POWER_UP joins the retained causes, a retained zone-wide one
begins a new episode with its TRIP queued, and a delivery retained is closed with POWER_LOSS or its first reason; net
counts are held (that they are so for a hose with no retained delivery too: log 12). -/
def Obligations.WarmStartKeepsTheRetentionDomain : Prop :=
  ∀ (s : State) (strap : Nat) (image img : List Byte), s.unit.powered = false → img = image.take 798 →
    faultReason strap img = .none → s.unit.recordedCheck = some (imageCheck img) →
    (∀ h, (s.hoses.get h).live = none) →
    ((∀ h, s.retained.get h = none) → Takes (.powerOn strap image true none) s fun t =>
      t.unit.kind = some .warm ∧ t.unit.seconds = 0 ∧ t.unit.siteOffset = none ∧ t.link.join = .listen
        ∧ t.link.ordinary = [] ∧ t.accounts = { s.accounts with permits := [], rosterFull := false }
        ∧ t.journal = { s.journal with reserved := 0, read := none } ∧ t.peers = []
        ∧ t.tripUnit.causes = { s.tripUnit.causes with powerUp := true } ∧ t.tripUnit.origins = []
        ∧ (∀ h, (t.hoses.get h).state = .idle ∧ (t.hoses.get h).hook = none
          ∧ (t.hoses.get h).overrun = (s.hoses.get h).overrun ∧ (t.meters.get h).net = (s.meters.get h).net)
        ∧ (∀ k, t.books.get k = { s.books.get k with
            state := if (s.books.get k).value.isSome then .aged else .unknown, ageTimer := none })
        ∧ (s.tripUnit.causes.zoneWide.any = false → t.tripUnit.episode = none ∧ t.link.reserved = [])
        ∧ (s.tripUnit.causes.zoneWide.any = true → t.tripUnit.announced = true
          ∧ t.tripUnit.stampCounter = (if s.tripUnit.stampCounter < 65535 then s.tripUnit.stampCounter + 1 else 1)
          ∧ t.tripUnit.episode = some t.tripUnit.stampCounter
          ∧ ∀ z, (settingsOf img).zone = some z → t.link.reserved
            = [t.entryOf ⟨0, .trip, oneByte z ++ beBytes 2 t.tripUnit.stampCounter
                ++ oneByte (causeSetCode t.tripUnit.causes.zoneWide), .tripUnit, .plain⟩]))
    ∧ ∀ h r, s.retained.get h = some r → (∀ g, g ≠ h → s.retained.get g = none) →
      0 < volume ((settingsOf img).hoses.get h).meterK r.net → Takes (.powerOn strap image true none) s fun t =>
        (∃ d, t.journal.records
            = (if s.journal.records.length < 128 then s.journal.records else s.journal.records.drop 1) ++ [d]
          ∧ d.sequence = s.journal.counter ∧ d.hose = h ∧ d.machine = r.live.machine ∧ d.product = r.live.product
          ∧ d.tank = r.live.tank ∧ d.hours = r.live.hours ∧ d.limit = r.live.limit
          ∧ d.quantity = volume ((settingsOf img).hoses.get h).meterK r.net
          ∧ d.reason = r.live.endReason.getD .powerLoss ∧ d.startTime = r.live.startTime ∧ d.endTime = 0
          ∧ d.siteTime = none ∧ d.collected = false)
          ∧ t.journal.reserved = 0 ∧ (∀ g, t.retained.get g = none) ∧ (t.hoses.get h).live = none
          ∧ (t.hoses.get h).overrun = (s.hoses.get h).overrun ∧ (t.meters.get h).net = r.net

/-- MAIN_POWER_LOSS: every output is off, and the retention domain alone is kept: roster, journal, learned overruns,
books, causes and stamp counter, each live delivery with its net count, and the net counts of the other hoses (log 12). What
lies outside the domain is at the model's reset values (log 31). A station without power then takes no event but POWER_ON
(log 7). -/
def Obligations.PowerLossKeepsTheRetentionDomain : Prop :=
  (∀ s : State, s.unit.powered = true → Takes .mainPowerLoss s fun t =>
    t.unit.powered = false ∧ t.unit.recordedCheck = s.unit.recordedCheck
      ∧ (∀ h, (t.valves.get h).duty = 0 ∧ (t.valves.get h).output = false)
      ∧ (∀ p, (t.pumps.get p).state.contactor = false)
      ∧ (∀ h, (t.hoses.get h).lamp = false ∧ (t.hoses.get h).live = none
        ∧ (t.hoses.get h).overrun = (s.hoses.get h).overrun)
      ∧ (∀ h l, (s.hoses.get h).live = some l → t.retained.get h = some ⟨l, (s.meters.get h).net⟩)
      ∧ (∀ h, (t.meters.get h).net = (s.meters.get h).net)
      ∧ t.accounts = { roster := s.accounts.roster, permits := [], rosterFull := false }
      ∧ t.journal = { s.journal with reserved := 0, read := none }
      ∧ (∀ k, (t.books.get k).value = (s.books.get k).value ∧ (t.books.get k).recent = (s.books.get k).recent
        ∧ (t.books.get k).variance = (s.books.get k).variance
        ∧ (t.books.get k).varianceCount = (s.books.get k).varianceCount)
      ∧ t.tripUnit.causes = s.tripUnit.causes ∧ t.tripUnit.stampCounter = s.tripUnit.stampCounter
      ∧ t.tripUnit.origins = [] ∧ t.link.ordinary = [] ∧ t.link.reserved = [] ∧ t.peers = [])
  ∧ (∀ (c : Instr) (s : State), s.unit.powered = false →
    (∀ strap image held lost, c ≠ .powerOn strap image held lost) → exec c s = .next s)

/-- FRAME_SENT of a RESTART's reply makes the restart: live deliveries close with RESTART or their first reason, the
link unit enters LISTEN with its queue empty but for the TRIP of a current episode, the hoses are set by their hooks,
the net counts are held, and the causes are kept without POWER_UP. (That a hose whose hook is not yet qualified goes to IDLE:
log 15; that a running override hold timer runs on across the RESTART: log 32.) -/
def Obligations.RestartIsMadeAtItsReply : Prop :=
  ∀ (s : State) (e : TxEntry), s.unit.powered = true → s.link.driver = .tail → s.link.current = some e →
    e.purpose = .restartReply → Takes .frameSent s fun t =>
      t.unit = { s.unit with kind := some .restart, seconds := 0, millis := 0, siteOffset := none }
        ∧ t.counts = ⟨0, 0, 0, 0, 0, 0, 0, 0⟩ ∧ t.peers = [] ∧ t.accounts.permits = []
        ∧ t.link = { join := .listen, joinTimer := some 0, isolationTimer := none, ordinary := []
                     reserved := t.link.reserved, driver := .released, silence := none, receiver := .muted, buffer := []
                     failures := 0 }
        ∧ (∀ h, (t.hoses.get h).live = none ∧ (t.hoses.get h).hook = (s.hoses.get h).hook
          ∧ (t.hoses.get h).overrun = (s.hoses.get h).overrun
          ∧ (t.hoses.get h).state = (if (s.hoses.get h).hook = some .offHook then .refused .notHung else .idle)
          ∧ (t.meters.get h).net = (s.meters.get h).net)
        ∧ (∀ p, t.pumps.get p = { s.pumps.get p with state := .cooldown, timer := some 0 })
        ∧ t.journal.reserved = 0 ∧ t.journal.read = none
        ∧ t.tripUnit = { s.tripUnit with
            origins := [], announced := s.tripUnit.announced || s.tripUnit.causes.zoneWide.any }
        ∧ (s.tripUnit.causes.zoneWide.any = false → t.link.reserved = [])
        ∧ (∀ z stamp, s.tripUnit.causes.zoneWide.any = true → s.cfg.zone = some z → s.tripUnit.episode = some stamp →
          t.link.reserved = [t.entryOf ⟨0, .trip, oneByte z ++ beBytes 2 stamp
            ++ oneByte (causeSetCode s.tripUnit.causes.zoneWide), .tripUnit, .plain⟩])
        ∧ ((∀ h, (s.hoses.get h).live = none) → t.journal.records = s.journal.records
          ∧ t.accounts.roster = s.accounts.roster)
        ∧ ∀ h l, (s.hoses.get h).live = some l → (∀ g, g ≠ h → (s.hoses.get g).live = none) →
          0 < volume (s.hoseCfg h).meterK (s.meters.get h).net → ∃ d, t.journal.records
              = (if s.journal.records.length < 128 then s.journal.records else s.journal.records.drop 1) ++ [d]
            ∧ d.sequence = s.journal.counter ∧ d.hose = h ∧ d.machine = l.machine
            ∧ d.quantity = volume (s.hoseCfg h).meterK (s.meters.get h).net
            ∧ d.reason = l.endReason.getD .restart ∧ d.collected = false

/-! ## Replies (8.2, 8.5) -/

/-- What a reply is: `reply` hands the link unit a reply for the requester in its owner's name, and `refuse` a REFUSED of
the kind code and the refusal code (R178, R179); with six entries queued it is dropped, and in CONFIG_FAULT only a REFUSED of
STATUS_REQ or IDENT_REQ is taken (R173). The parts of STATUS_REP hold the station's items at their offsets, an unused
position tank 0 with its optional fields absent (R180, R187); so do ACCOUNT_REP with a record's items and windows (R86) and
JOURNAL_REC with those of a delivery record (R144). The DRAW of every close passes its content test and is read back as the
close's (R186). (The block that answers an unknown kind: log 5; a value wider than
its field, and a volume above 4,294,967,295 mL, of which only the range is said: log 34; what an unused position shows else: log 11; that part 2 shows the duty applied at the instant, also within
a period begun at another: log 27.) -/
def Obligations.RepliesCarryTheirLayouts : Prop :=
  (∀ (s : State) (dest : Nat) (k : FrameKind) (body : List Byte) (owner : Block) (p : Purpose),
    familyOf k = .reply → s.inConfigFault = false →
    (s.link.ordinary.length < 6 → reply dest k body owner p s = s.setLink { s.link with
      ordinary := s.link.ordinary ++ [{
        dest := dest, kind := k, body := body, owner := owner, purpose := p, attempt := 1, status := .fresh
        check := checkCode (oneByte s.ownAddress ++ oneByte (kindCode k) ++ oneByte body.length ++ body)
        joined := s.clock }] })
    ∧ (6 ≤ s.link.ordinary.length → reply dest k body owner p s
      = (s.setCounts { s.counts with drop := min (s.counts.drop + 1) 65535 }).toldLost p))
  ∧ (∀ (s : State) (dest kind : Nat) (c : RefusalCode) (owner : Block), kind < 256 →
    (s.inConfigFault = true → kind ≠ 32 → kind ≠ 33 → refuse dest kind c owner s = s)
    ∧ (s.inConfigFault = false ∨ kind = 32 ∨ kind = 33 → s.link.ordinary.length < 6 →
      ∃ e, refuse dest kind c owner s = s.setLink { s.link with ordinary := s.link.ordinary ++ [e] }
        ∧ e.dest = dest ∧ e.kind = .refused ∧ e.owner = owner ∧ e.body.length = 2 ∧ field e.body 0 1 = kind
        ∧ field e.body 1 1 = (match c with
          | .badLength => 1 | .unknownKind => 2 | .outOfRange => 3 | .notLive => 4 | .full => 5 | .notFound => 6)))
  ∧ (∀ (s : State) (b : List Byte), b = s.statusBody 1 →
    b.length = 45 ∧ Holds b 0 1 1 ∧ Holds b 1 1 (joinStateCode s.link.join) ∧ (∀ z, s.cfg.zone = some z → Holds b 2 1 z)
      ∧ Holds b 3 1 (if s.tripped then 1 else 0) ∧ Holds b 4 1 (causeSetCode s.tripUnit.causes)
      ∧ Holds b 5 2 (s.tripUnit.episode.getD 0) ∧ Holds b 7 1 (if s.tripUnit.announced then 1 else 0)
      ∧ Holds b 8 1 s.tripUnit.origins.length
      ∧ Holds b 9 1 (bitCode s.inConfigFault + 2 * bitCode s.gauging.conflict + 4 * bitCode s.journal.full
        + 8 * bitCode s.accounts.rosterFull)
      ∧ (∀ i, Holds b (10 + i.index) 1 (spillCode (s.cfg.spill.get i).function (s.tripUnit.inputs.get i)))
      ∧ Holds b 14 1 (buttonCode s.tripUnit.button)
      ∧ Holds b 15 1 (s.journal.records.filter fun r => !r.collected).length ∧ Holds b 16 1 s.journal.reserved
      ∧ Holds b 17 2 s.accounts.roster.length ∧ Holds b 19 1 s.accounts.permits.length ∧ Holds b 20 4 s.unit.seconds
      ∧ Holds b 24 1 (if s.siteTime.isSome then 1 else 0) ∧ Holds b 25 4 (s.siteTime.getD 0)
      ∧ Holds b 29 2 s.counts.framing ∧ Holds b 31 2 s.counts.check ∧ Holds b 33 2 s.counts.overrun
      ∧ Holds b 35 2 s.counts.collision ∧ Holds b 37 2 s.counts.drop ∧ Holds b 39 2 s.counts.malformed
      ∧ Holds b 41 2 s.counts.peerFull ∧ Holds b 43 2 s.counts.rosterFull)
  ∧ (∀ (s : State) (b : List Byte), b = s.statusBody 2 → b.length = 55 ∧ Holds b 0 1 2 ∧ ∀ (h : HoseIx) (k : Nat),
    k = 9 * h.index →
    Holds b (1 + k) 1 (hookCode (s.hoses.get h).hook) ∧ Holds b (2 + k) 1 (hoseStateCode (s.hoses.get h).state)
      ∧ (∀ l r, (s.hoses.get h).state = .ending → (s.hoses.get h).live = some l → l.endReason = some r →
        Holds b (3 + k) 1 (endReasonCode r))
      ∧ (∀ r, (s.hoses.get h).state = .done r → Holds b (3 + k) 1 (endReasonCode r))
      ∧ (∀ r, (s.hoses.get h).state = .refused r → Holds b (3 + k) 1 (refusalReasonCode r))
      ∧ (∀ f, (s.hoses.get h).state = .outOfService f → Holds b (3 + k) 1 (hoseFaultCode f))
      ∧ ((s.hoses.get h).state = .idle ∨ (s.hoses.get h).state = .waiting ∨ (s.hoses.get h).state = .priming
        ∨ (s.hoses.get h).state = .flowing ∨ (s.hoses.get h).state = .trimming → Holds b (3 + k) 1 0)
      ∧ (liveState (s.hoses.get h).state = false → Holds b (4 + k) 4 0)
      ∧ (liveState (s.hoses.get h).state = true → volume (s.hoseCfg h).meterK (s.meters.get h).net ≤ 4294967295 →
        Holds b (4 + k) 4 (volume (s.hoseCfg h).meterK (s.meters.get h).net))
      ∧ Holds b (8 + k) 1 (s.valves.get h).duty ∧ Holds b (9 + k) 1 (if (s.valves.get h).closed then 1 else 0))
  ∧ (∀ (s : State) (i : BookIx) (b : List Byte) (k : Nat), b = s.statusBody (3 + i.index / 4) → k = 13 * (i.index % 4) →
    b.length = 53 ∧ Holds b 0 1 (3 + i.index / 4) ∧ Holds b (1 + k) 1 (s.cfg.books.get i).tank
      ∧ ((s.cfg.books.get i).tank = 0 → Holds b (3 + k) 4 0)
      ∧ ((s.cfg.books.get i).tank ≠ 0 → Holds b (2 + k) 1 (bookStateCode (s.books.get i).state)
        ∧ Holds b (3 + k) 4 ((s.books.get i).value.getD 0)
        ∧ Holds b (7 + k) 1 (if (s.books.get i).variance < 0 then 1 else 0)
        ∧ Holds b (8 + k) 4 (s.books.get i).variance.natAbs ∧ Holds b (12 + k) 2 (s.books.get i).varianceCount))
  ∧ (∀ (s : State) (b : List Byte), b = s.statusBody 5 → b.length = 41 ∧ Holds b 0 1 5
    ∧ (∀ (p : PumpIx) (k : Nat), k = 5 * p.index → Holds b (1 + k) 1 (s.cfg.pumpTanks.get p)
      ∧ (s.cfg.pumpTanks.get p ≠ 0 → Holds b (2 + k) 1 (pumpStateCode (s.pumps.get p).state)
        ∧ Holds b (3 + k) 1 (if (s.pumps.get p).state.contactor then 1 else 0)
        ∧ Holds b (4 + k) 1 (if (s.pumps.get p).proof then 1 else 0)
        ∧ Holds b (5 + k) 1 (s.runCount (s.cfg.pumpTanks.get p))))
    ∧ (∀ (c : ProbeIx) (k : Nat), k = 5 * c.index → Holds b (21 + k) 1 (s.cfg.probes.get c).tank
      ∧ ((s.cfg.probes.get c).tank = 0 → Holds b (23 + k) 2 65535)
      ∧ ((s.cfg.probes.get c).tank ≠ 0 → Holds b (22 + k) 1 (probeStateCode (s.probes.get c).state)
        ∧ ((s.probes.get c).history = [] → Holds b (23 + k) 2 65535)
        ∧ ((s.probes.get c).history ≠ [] →
          Holds b (23 + k) 2 ((s.probes.get c).history.sum / (s.probes.get c).history.length))
        ∧ Holds b (25 + k) 1 (if (s.probes.get c).overfill then 1 else 0))))
  ∧ (∀ (s : State) (a b : List Byte), a = s.statusBody 6 → b = s.statusBody 7 →
    a.length = 1 + 4 * min 8 s.tripUnit.origins.length ∧ b.length = 1 + 4 * min 8 (s.tripUnit.origins.length - 8)
      ∧ Holds a 0 1 6 ∧ Holds b 0 1 7
      ∧ (∀ k o, k < 8 → s.tripUnit.origins[k]? = some o → Holds a (1 + 4 * k) 1 o.address
        ∧ Holds a (2 + 4 * k) 2 o.stamp ∧ Holds a (4 + 4 * k) 1 (causeSetCode o.causes))
      ∧ (∀ k o, k < 8 → s.tripUnit.origins[8 + k]? = some o → Holds b (1 + 4 * k) 1 o.address
        ∧ Holds b (2 + 4 * k) 2 o.stamp ∧ Holds b (4 + 4 * k) 1 (causeSetCode o.causes)))
  ∧ (∀ (r : MachineRecord) (n : Nat) (b : List Byte), b = accountHead r n →
    b.length = 36 ∧ Holds b 0 1 1 ∧ Holds b 1 3 r.id ∧ Holds b 4 1 (standingCode r.cls r.suspended)
      ∧ Holds b 5 3 (r.lastHours.getD 16777215) ∧ (r.lastFill = none → Holds b 8 3 16777215 ∧ Holds b 11 4 0)
      ∧ (∀ f, r.lastFill = some f → Holds b 8 3 f.hours ∧ Holds b 11 4 f.quantity)
      ∧ Holds b 15 2 r.burnCeiling ∧ Holds b 17 3 r.perFillMax ∧ Holds b 20 3 r.slack
      ∧ Holds b 23 1 r.anomalies.highBurn ∧ Holds b 24 1 r.anomalies.hourJump ∧ Holds b 25 1 r.anomalies.hoursBack
      ∧ Holds b 26 1 r.anomalies.early ∧ Holds b 27 1 r.anomalies.overdue
      ∧ (r.lastDraw = none → Holds b 28 1 0 ∧ Holds b 29 4 0)
      ∧ (∀ q, r.lastDraw = some q → Holds b 28 1 q.origin ∧ Holds b 29 4 q.number)
      ∧ Holds b 33 1 r.windows.length ∧ Holds b 34 2 n)
  ∧ (∀ (r : MachineRecord) (b : List Byte), b = accountWindows r →
    b.length = 4 + 15 * r.windows.length ∧ Holds b 0 1 2 ∧ Holds b 1 3 r.id
      ∧ ∀ k w, r.windows[k]? = some w → Holds b (4 + 15 * k) 1 (productCode w.product)
        ∧ Holds b (5 + 15 * k) 3 w.interval ∧ Holds b (8 + 15 * k) 2 w.tolerance ∧ Holds b (10 + 15 * k) 3 w.dueFrom
        ∧ Holds b (13 + 15 * k) 3 w.dueUntil ∧ Holds b (16 + 15 * k) 3 w.quantity)
  ∧ (∀ (r : DeliveryRecord) (b : List Byte), b = journalRecBody r →
    b.length = 36 ∧ Holds b 0 4 r.sequence ∧ Holds b 4 1 r.hose.number ∧ Holds b 5 1 (productCode r.product)
      ∧ Holds b 6 1 r.tank ∧ Holds b 7 3 r.machine ∧ Holds b 10 3 (r.hours.getD 16777215) ∧ Holds b 13 3 r.limit
      ∧ (r.quantity ≤ 4294967295 → Holds b 16 4 r.quantity) ∧ (0 < r.quantity → 0 < field b 16 4) ∧ Holds b 20 1 (endReasonCode r.reason) ∧ Holds b 21 2 (recordFlagsCode r.flags)
      ∧ Holds b 23 4 r.startTime ∧ Holds b 27 4 r.endTime ∧ Holds b 31 4 (r.siteTime.getD 0)
      ∧ Holds b 35 1 ((if r.collected then 1 else 0) + 2 * (if r.siteTime.isSome then 1 else 0)))
  ∧ ∀ (c : Closed) (n : Nat), 1 ≤ n ∧ n ≤ 4294967295 → 1 ≤ c.tank ∧ c.tank ≤ 64 →
    1 ≤ c.machine ∧ c.machine ≤ 16777214 → (∀ x, c.hours = some x → x ≤ 999999) → 0 < c.quantity →
    ∃ q, drawBody (drawBytes n c) = .sound { sequence := n, tank := c.tank, product := c.product, machine := c.machine
                                             hours := c.hours, quantity := q }
      ∧ 1 ≤ q ∧ q ≤ 4294967295 ∧ (c.quantity ≤ 4294967295 → q = c.quantity)
end

