-- ==== Sys2Proof/Laws/Books.lean ====
section
/-! SUPPORT. What a DRAW and a RECEIPT do to a book (R93 to R96), and which record a journal read names next (R148, R149). -/

namespace Sys2Proof.Machine

/-- A DRAW of new key on a kept book (R93, R95). -/
theorem bookDraw_new {s : State} {o : Nat} {d : DrawBody} {k : BookIx} (hk : s.bookOf d.tank = some k)
    (hr : ⟨o, d.sequence⟩ ∉ (s.books.get k).recent) : bookDraw o d s = s.setBook k { s.books.get k with
        value := (s.books.get k).value.map fun v => v - d.quantity
        recent := (if (s.books.get k).recent.length < 16 then (s.books.get k).recent
          else (s.books.get k).recent.drop 1) ++ [⟨o, d.sequence⟩] } := by
  have : (s.books.get k).recent.contains ⟨o, d.sequence⟩ = false := by simpa using hr
  simp only [bookDraw, hk, this, Bool.false_eq_true, if_false]; rfl

/-- A RECEIPT of new key on a kept book (R93, R96). -/
theorem bookReceipt_new {s : State} {f : Frame} {d : ReceiptBody} {k : BookIx} (hk : s.bookOf d.tank = some k)
    (hr : ⟨f.src, d.number⟩ ∉ (s.books.get k).recent) : bookReceipt f d s = s.setBook k { s.books.get k with
        value := (s.books.get k).value.map fun v => min (v + d.quantity) (s.cfg.books.get k).capacity
        recent := (if (s.books.get k).recent.length < 16 then (s.books.get k).recent
          else (s.books.get k).recent.drop 1) ++ [⟨f.src, d.number⟩] } := by
  have : (s.books.get k).recent.contains ⟨f.src, d.number⟩ = false := by simpa using hr
  simp only [bookReceipt, hk, this, Bool.false_eq_true, if_false]; rfl

/-- A RECEIPT of a key in the recent entries (R93). -/
theorem bookReceipt_old {s : State} {f : Frame} {d : ReceiptBody} {k : BookIx} (hk : s.bookOf d.tank = some k)
    (hr : ⟨f.src, d.number⟩ ∈ (s.books.get k).recent) : bookReceipt f d s = s := by
  simp [bookReceipt, hk, hr]

/-- The next named record that is held, past named sequences that are not (R148, R149). -/
theorem nextNamed_some (rs : List DeliveryRecord) (d : DeliveryRecord) : ∀ (i q left : Nat), i < left →
    rs.find? (fun r => r.sequence == nextSequence^[i] q) = some d →
    (∀ m, m < i → ∀ r ∈ rs, r.sequence ≠ nextSequence^[m] q) →
    nextNamed rs q left = some (d, nextSequence^[i + 1] q, left - (i + 1))
  | 0, q, left + 1, _, h, _ => by simp at h; simp [nextNamed, h]
  | i + 1, q, left + 1, hl, h, hn => by
    have h0 : rs.find? (fun r => r.sequence == q) = none := by
      rw [List.find?_eq_none]; intro r hr; simpa using hn 0 (by omega) r hr
    have := nextNamed_some rs d i (nextSequence q) left (by omega) h (fun m hm => hn (m + 1) (by omega))
    simp [nextNamed, h0, this]

/-- No named sequence is held. -/
theorem nextNamed_none (rs : List DeliveryRecord) : ∀ (q left : Nat),
    (∀ m, m < left → ∀ r ∈ rs, r.sequence ≠ nextSequence^[m] q) → nextNamed rs q left = none
  | q, 0, _ => rfl
  | q, left + 1, hn => by
    have h0 : rs.find? (fun r => r.sequence == q) = none := by
      rw [List.find?_eq_none]; intro r hr; simpa using hn 0 (by omega) r hr
    simp [nextNamed, h0, nextNamed_none rs (nextSequence q) left (fun m hm => hn (m + 1) (by omega))]

end Sys2Proof.Machine
end

