-- ==== Sys2Proof/Laws/State.lean ====
section
/-! SUPPORT. The small lemmas of the state: reading a table after one of its items is replaced, and one lemma for
each field of each update of the state. -/

namespace Sys2Proof


@[simp] theorem PerHose.get_set {α : Type} (t : PerHose α) (i j : HoseIx) (a : α) :
    (t.set i a).get j = if j = i then a else t.get j := by cases i <;> cases j <;> rfl

theorem PerHose.get_set_self {α : Type} (t : PerHose α) (i : HoseIx) (a : α) : (t.set i a).get i = a := by simp

theorem PerHose.get_set_ne {α : Type} (t : PerHose α) {i j : HoseIx} (a : α) (h : j ≠ i) :
    (t.set i a).get j = t.get j := by simp [h]

@[simp] theorem PerHose.get_map {α β : Type} (f : α → β) (t : PerHose α) (i : HoseIx) : (t.map f).get i = f (t.get i) := by
  cases i <;> rfl

@[simp] theorem PerHose.get_ofIx {α : Type} (f : HoseIx → α) (i : HoseIx) : (PerHose.ofIx f).get i = f i := by
  cases i <;> rfl

@[simp] theorem PerHose.get_fill {α : Type} (a : α) (i : HoseIx) : (PerHose.fill a).get i = a := by cases i <;> rfl

theorem PerHose.ext_get {α : Type} {t u : PerHose α} (h : ∀ i, t.get i = u.get i) : t = u := by
  cases t; cases u
  simp only [PerHose.mk.injEq]
  refine ⟨h .h1, h .h2, h .h3, h .h4, h .h5, h .h6⟩

theorem HoseIx.mem_all (i : HoseIx) : i ∈ HoseIx.all := by cases i <;> decide


@[simp] theorem PerPump.get_set {α : Type} (t : PerPump α) (i j : PumpIx) (a : α) :
    (t.set i a).get j = if j = i then a else t.get j := by cases i <;> cases j <;> rfl

theorem PerPump.get_set_self {α : Type} (t : PerPump α) (i : PumpIx) (a : α) : (t.set i a).get i = a := by simp

theorem PerPump.get_set_ne {α : Type} (t : PerPump α) {i j : PumpIx} (a : α) (h : j ≠ i) :
    (t.set i a).get j = t.get j := by simp [h]

@[simp] theorem PerPump.get_map {α β : Type} (f : α → β) (t : PerPump α) (i : PumpIx) : (t.map f).get i = f (t.get i) := by
  cases i <;> rfl

@[simp] theorem PerPump.get_ofIx {α : Type} (f : PumpIx → α) (i : PumpIx) : (PerPump.ofIx f).get i = f i := by
  cases i <;> rfl

@[simp] theorem PerPump.get_fill {α : Type} (a : α) (i : PumpIx) : (PerPump.fill a).get i = a := by cases i <;> rfl

theorem PerPump.ext_get {α : Type} {t u : PerPump α} (h : ∀ i, t.get i = u.get i) : t = u := by
  cases t; cases u
  simp only [PerPump.mk.injEq]
  refine ⟨h .p1, h .p2, h .p3, h .p4⟩

theorem PumpIx.mem_all (i : PumpIx) : i ∈ PumpIx.all := by cases i <;> decide


@[simp] theorem PerProbe.get_set {α : Type} (t : PerProbe α) (i j : ProbeIx) (a : α) :
    (t.set i a).get j = if j = i then a else t.get j := by cases i <;> cases j <;> rfl

theorem PerProbe.get_set_self {α : Type} (t : PerProbe α) (i : ProbeIx) (a : α) : (t.set i a).get i = a := by simp

theorem PerProbe.get_set_ne {α : Type} (t : PerProbe α) {i j : ProbeIx} (a : α) (h : j ≠ i) :
    (t.set i a).get j = t.get j := by simp [h]

@[simp] theorem PerProbe.get_map {α β : Type} (f : α → β) (t : PerProbe α) (i : ProbeIx) : (t.map f).get i = f (t.get i) := by
  cases i <;> rfl

@[simp] theorem PerProbe.get_ofIx {α : Type} (f : ProbeIx → α) (i : ProbeIx) : (PerProbe.ofIx f).get i = f i := by
  cases i <;> rfl

@[simp] theorem PerProbe.get_fill {α : Type} (a : α) (i : ProbeIx) : (PerProbe.fill a).get i = a := by cases i <;> rfl

theorem PerProbe.ext_get {α : Type} {t u : PerProbe α} (h : ∀ i, t.get i = u.get i) : t = u := by
  cases t; cases u
  simp only [PerProbe.mk.injEq]
  refine ⟨h .c1, h .c2, h .c3, h .c4⟩

theorem ProbeIx.mem_all (i : ProbeIx) : i ∈ ProbeIx.all := by cases i <;> decide


@[simp] theorem PerInput.get_set {α : Type} (t : PerInput α) (i j : InputIx) (a : α) :
    (t.set i a).get j = if j = i then a else t.get j := by cases i <;> cases j <;> rfl

theorem PerInput.get_set_self {α : Type} (t : PerInput α) (i : InputIx) (a : α) : (t.set i a).get i = a := by simp

theorem PerInput.get_set_ne {α : Type} (t : PerInput α) {i j : InputIx} (a : α) (h : j ≠ i) :
    (t.set i a).get j = t.get j := by simp [h]

@[simp] theorem PerInput.get_map {α β : Type} (f : α → β) (t : PerInput α) (i : InputIx) : (t.map f).get i = f (t.get i) := by
  cases i <;> rfl

@[simp] theorem PerInput.get_ofIx {α : Type} (f : InputIx → α) (i : InputIx) : (PerInput.ofIx f).get i = f i := by
  cases i <;> rfl

@[simp] theorem PerInput.get_fill {α : Type} (a : α) (i : InputIx) : (PerInput.fill a).get i = a := by cases i <;> rfl

theorem PerInput.ext_get {α : Type} {t u : PerInput α} (h : ∀ i, t.get i = u.get i) : t = u := by
  cases t; cases u
  simp only [PerInput.mk.injEq]
  refine ⟨h .i1, h .i2, h .i3, h .i4⟩

theorem InputIx.mem_all (i : InputIx) : i ∈ InputIx.all := by cases i <;> decide


@[simp] theorem PerBook.get_set {α : Type} (t : PerBook α) (i j : BookIx) (a : α) :
    (t.set i a).get j = if j = i then a else t.get j := by cases i <;> cases j <;> rfl

theorem PerBook.get_set_self {α : Type} (t : PerBook α) (i : BookIx) (a : α) : (t.set i a).get i = a := by simp

theorem PerBook.get_set_ne {α : Type} (t : PerBook α) {i j : BookIx} (a : α) (h : j ≠ i) :
    (t.set i a).get j = t.get j := by simp [h]

@[simp] theorem PerBook.get_map {α β : Type} (f : α → β) (t : PerBook α) (i : BookIx) : (t.map f).get i = f (t.get i) := by
  cases i <;> rfl

@[simp] theorem PerBook.get_ofIx {α : Type} (f : BookIx → α) (i : BookIx) : (PerBook.ofIx f).get i = f i := by
  cases i <;> rfl

@[simp] theorem PerBook.get_fill {α : Type} (a : α) (i : BookIx) : (PerBook.fill a).get i = a := by cases i <;> rfl

theorem PerBook.ext_get {α : Type} {t u : PerBook α} (h : ∀ i, t.get i = u.get i) : t = u := by
  cases t; cases u
  simp only [PerBook.mk.injEq]
  refine ⟨h .b1, h .b2, h .b3, h .b4, h .b5, h .b6, h .b7, h .b8⟩

theorem BookIx.mem_all (i : BookIx) : i ∈ BookIx.all := by cases i <;> decide


namespace Machine


@[simp] theorem State.setMeter_unit (s : State) (h : HoseIx) (x : Meter) : (s.setMeter h x).unit = s.unit := rfl
@[simp] theorem State.setMeter_creepTimer (s : State) (h : HoseIx) (x : Meter) : (s.setMeter h x).creepTimer = s.creepTimer := rfl
@[simp] theorem State.setMeter_meters (s : State) (h : HoseIx) (x : Meter) : (s.setMeter h x).meters = s.meters.set h x := rfl
@[simp] theorem State.setMeter_valves (s : State) (h : HoseIx) (x : Meter) : (s.setMeter h x).valves = s.valves := rfl
@[simp] theorem State.setMeter_pumps (s : State) (h : HoseIx) (x : Meter) : (s.setMeter h x).pumps = s.pumps := rfl
@[simp] theorem State.setMeter_hoses (s : State) (h : HoseIx) (x : Meter) : (s.setMeter h x).hoses = s.hoses := rfl
@[simp] theorem State.setMeter_retained (s : State) (h : HoseIx) (x : Meter) : (s.setMeter h x).retained = s.retained := rfl
@[simp] theorem State.setMeter_accounts (s : State) (h : HoseIx) (x : Meter) : (s.setMeter h x).accounts = s.accounts := rfl
@[simp] theorem State.setMeter_books (s : State) (h : HoseIx) (x : Meter) : (s.setMeter h x).books = s.books := rfl
@[simp] theorem State.setMeter_probes (s : State) (h : HoseIx) (x : Meter) : (s.setMeter h x).probes = s.probes := rfl
@[simp] theorem State.setMeter_gauging (s : State) (h : HoseIx) (x : Meter) : (s.setMeter h x).gauging = s.gauging := rfl
@[simp] theorem State.setMeter_tripUnit (s : State) (h : HoseIx) (x : Meter) : (s.setMeter h x).tripUnit = s.tripUnit := rfl
@[simp] theorem State.setMeter_journal (s : State) (h : HoseIx) (x : Meter) : (s.setMeter h x).journal = s.journal := rfl
@[simp] theorem State.setMeter_link (s : State) (h : HoseIx) (x : Meter) : (s.setMeter h x).link = s.link := rfl
@[simp] theorem State.setMeter_counts (s : State) (h : HoseIx) (x : Meter) : (s.setMeter h x).counts = s.counts := rfl
@[simp] theorem State.setMeter_peers (s : State) (h : HoseIx) (x : Meter) : (s.setMeter h x).peers = s.peers := rfl
@[simp] theorem State.setMeter_beaconTimer (s : State) (h : HoseIx) (x : Meter) : (s.setMeter h x).beaconTimer = s.beaconTimer := rfl
@[simp] theorem State.setMeter_choices (s : State) (h : HoseIx) (x : Meter) : (s.setMeter h x).choices = s.choices := rfl
@[simp] theorem State.setMeter_pending (s : State) (h : HoseIx) (x : Meter) : (s.setMeter h x).pending = s.pending := rfl

@[simp] theorem State.setValve_unit (s : State) (h : HoseIx) (x : Valve) : (s.setValve h x).unit = s.unit := rfl
@[simp] theorem State.setValve_creepTimer (s : State) (h : HoseIx) (x : Valve) : (s.setValve h x).creepTimer = s.creepTimer := rfl
@[simp] theorem State.setValve_meters (s : State) (h : HoseIx) (x : Valve) : (s.setValve h x).meters = s.meters := rfl
@[simp] theorem State.setValve_valves (s : State) (h : HoseIx) (x : Valve) : (s.setValve h x).valves = s.valves.set h x := rfl
@[simp] theorem State.setValve_pumps (s : State) (h : HoseIx) (x : Valve) : (s.setValve h x).pumps = s.pumps := rfl
@[simp] theorem State.setValve_hoses (s : State) (h : HoseIx) (x : Valve) : (s.setValve h x).hoses = s.hoses := rfl
@[simp] theorem State.setValve_retained (s : State) (h : HoseIx) (x : Valve) : (s.setValve h x).retained = s.retained := rfl
@[simp] theorem State.setValve_accounts (s : State) (h : HoseIx) (x : Valve) : (s.setValve h x).accounts = s.accounts := rfl
@[simp] theorem State.setValve_books (s : State) (h : HoseIx) (x : Valve) : (s.setValve h x).books = s.books := rfl
@[simp] theorem State.setValve_probes (s : State) (h : HoseIx) (x : Valve) : (s.setValve h x).probes = s.probes := rfl
@[simp] theorem State.setValve_gauging (s : State) (h : HoseIx) (x : Valve) : (s.setValve h x).gauging = s.gauging := rfl
@[simp] theorem State.setValve_tripUnit (s : State) (h : HoseIx) (x : Valve) : (s.setValve h x).tripUnit = s.tripUnit := rfl
@[simp] theorem State.setValve_journal (s : State) (h : HoseIx) (x : Valve) : (s.setValve h x).journal = s.journal := rfl
@[simp] theorem State.setValve_link (s : State) (h : HoseIx) (x : Valve) : (s.setValve h x).link = s.link := rfl
@[simp] theorem State.setValve_counts (s : State) (h : HoseIx) (x : Valve) : (s.setValve h x).counts = s.counts := rfl
@[simp] theorem State.setValve_peers (s : State) (h : HoseIx) (x : Valve) : (s.setValve h x).peers = s.peers := rfl
@[simp] theorem State.setValve_beaconTimer (s : State) (h : HoseIx) (x : Valve) : (s.setValve h x).beaconTimer = s.beaconTimer := rfl
@[simp] theorem State.setValve_choices (s : State) (h : HoseIx) (x : Valve) : (s.setValve h x).choices = s.choices := rfl
@[simp] theorem State.setValve_pending (s : State) (h : HoseIx) (x : Valve) : (s.setValve h x).pending = s.pending := rfl

@[simp] theorem State.setPump_unit (s : State) (p : PumpIx) (x : Pump) : (s.setPump p x).unit = s.unit := rfl
@[simp] theorem State.setPump_creepTimer (s : State) (p : PumpIx) (x : Pump) : (s.setPump p x).creepTimer = s.creepTimer := rfl
@[simp] theorem State.setPump_meters (s : State) (p : PumpIx) (x : Pump) : (s.setPump p x).meters = s.meters := rfl
@[simp] theorem State.setPump_valves (s : State) (p : PumpIx) (x : Pump) : (s.setPump p x).valves = s.valves := rfl
@[simp] theorem State.setPump_pumps (s : State) (p : PumpIx) (x : Pump) : (s.setPump p x).pumps = s.pumps.set p x := rfl
@[simp] theorem State.setPump_hoses (s : State) (p : PumpIx) (x : Pump) : (s.setPump p x).hoses = s.hoses := rfl
@[simp] theorem State.setPump_retained (s : State) (p : PumpIx) (x : Pump) : (s.setPump p x).retained = s.retained := rfl
@[simp] theorem State.setPump_accounts (s : State) (p : PumpIx) (x : Pump) : (s.setPump p x).accounts = s.accounts := rfl
@[simp] theorem State.setPump_books (s : State) (p : PumpIx) (x : Pump) : (s.setPump p x).books = s.books := rfl
@[simp] theorem State.setPump_probes (s : State) (p : PumpIx) (x : Pump) : (s.setPump p x).probes = s.probes := rfl
@[simp] theorem State.setPump_gauging (s : State) (p : PumpIx) (x : Pump) : (s.setPump p x).gauging = s.gauging := rfl
@[simp] theorem State.setPump_tripUnit (s : State) (p : PumpIx) (x : Pump) : (s.setPump p x).tripUnit = s.tripUnit := rfl
@[simp] theorem State.setPump_journal (s : State) (p : PumpIx) (x : Pump) : (s.setPump p x).journal = s.journal := rfl
@[simp] theorem State.setPump_link (s : State) (p : PumpIx) (x : Pump) : (s.setPump p x).link = s.link := rfl
@[simp] theorem State.setPump_counts (s : State) (p : PumpIx) (x : Pump) : (s.setPump p x).counts = s.counts := rfl
@[simp] theorem State.setPump_peers (s : State) (p : PumpIx) (x : Pump) : (s.setPump p x).peers = s.peers := rfl
@[simp] theorem State.setPump_beaconTimer (s : State) (p : PumpIx) (x : Pump) : (s.setPump p x).beaconTimer = s.beaconTimer := rfl
@[simp] theorem State.setPump_choices (s : State) (p : PumpIx) (x : Pump) : (s.setPump p x).choices = s.choices := rfl
@[simp] theorem State.setPump_pending (s : State) (p : PumpIx) (x : Pump) : (s.setPump p x).pending = s.pending := rfl

@[simp] theorem State.setHose_unit (s : State) (h : HoseIx) (x : Hose) : (s.setHose h x).unit = s.unit := rfl
@[simp] theorem State.setHose_creepTimer (s : State) (h : HoseIx) (x : Hose) : (s.setHose h x).creepTimer = s.creepTimer := rfl
@[simp] theorem State.setHose_meters (s : State) (h : HoseIx) (x : Hose) : (s.setHose h x).meters = s.meters := rfl
@[simp] theorem State.setHose_valves (s : State) (h : HoseIx) (x : Hose) : (s.setHose h x).valves = s.valves := rfl
@[simp] theorem State.setHose_pumps (s : State) (h : HoseIx) (x : Hose) : (s.setHose h x).pumps = s.pumps := rfl
@[simp] theorem State.setHose_hoses (s : State) (h : HoseIx) (x : Hose) : (s.setHose h x).hoses = s.hoses.set h x := rfl
@[simp] theorem State.setHose_retained (s : State) (h : HoseIx) (x : Hose) : (s.setHose h x).retained = s.retained := rfl
@[simp] theorem State.setHose_accounts (s : State) (h : HoseIx) (x : Hose) : (s.setHose h x).accounts = s.accounts := rfl
@[simp] theorem State.setHose_books (s : State) (h : HoseIx) (x : Hose) : (s.setHose h x).books = s.books := rfl
@[simp] theorem State.setHose_probes (s : State) (h : HoseIx) (x : Hose) : (s.setHose h x).probes = s.probes := rfl
@[simp] theorem State.setHose_gauging (s : State) (h : HoseIx) (x : Hose) : (s.setHose h x).gauging = s.gauging := rfl
@[simp] theorem State.setHose_tripUnit (s : State) (h : HoseIx) (x : Hose) : (s.setHose h x).tripUnit = s.tripUnit := rfl
@[simp] theorem State.setHose_journal (s : State) (h : HoseIx) (x : Hose) : (s.setHose h x).journal = s.journal := rfl
@[simp] theorem State.setHose_link (s : State) (h : HoseIx) (x : Hose) : (s.setHose h x).link = s.link := rfl
@[simp] theorem State.setHose_counts (s : State) (h : HoseIx) (x : Hose) : (s.setHose h x).counts = s.counts := rfl
@[simp] theorem State.setHose_peers (s : State) (h : HoseIx) (x : Hose) : (s.setHose h x).peers = s.peers := rfl
@[simp] theorem State.setHose_beaconTimer (s : State) (h : HoseIx) (x : Hose) : (s.setHose h x).beaconTimer = s.beaconTimer := rfl
@[simp] theorem State.setHose_choices (s : State) (h : HoseIx) (x : Hose) : (s.setHose h x).choices = s.choices := rfl
@[simp] theorem State.setHose_pending (s : State) (h : HoseIx) (x : Hose) : (s.setHose h x).pending = s.pending := rfl

@[simp] theorem State.setRetained_unit (s : State) (h : HoseIx) (x : Option Retained) : (s.setRetained h x).unit = s.unit := rfl
@[simp] theorem State.setRetained_creepTimer (s : State) (h : HoseIx) (x : Option Retained) : (s.setRetained h x).creepTimer = s.creepTimer := rfl
@[simp] theorem State.setRetained_meters (s : State) (h : HoseIx) (x : Option Retained) : (s.setRetained h x).meters = s.meters := rfl
@[simp] theorem State.setRetained_valves (s : State) (h : HoseIx) (x : Option Retained) : (s.setRetained h x).valves = s.valves := rfl
@[simp] theorem State.setRetained_pumps (s : State) (h : HoseIx) (x : Option Retained) : (s.setRetained h x).pumps = s.pumps := rfl
@[simp] theorem State.setRetained_hoses (s : State) (h : HoseIx) (x : Option Retained) : (s.setRetained h x).hoses = s.hoses := rfl
@[simp] theorem State.setRetained_retained (s : State) (h : HoseIx) (x : Option Retained) : (s.setRetained h x).retained = s.retained.set h x := rfl
@[simp] theorem State.setRetained_accounts (s : State) (h : HoseIx) (x : Option Retained) : (s.setRetained h x).accounts = s.accounts := rfl
@[simp] theorem State.setRetained_books (s : State) (h : HoseIx) (x : Option Retained) : (s.setRetained h x).books = s.books := rfl
@[simp] theorem State.setRetained_probes (s : State) (h : HoseIx) (x : Option Retained) : (s.setRetained h x).probes = s.probes := rfl
@[simp] theorem State.setRetained_gauging (s : State) (h : HoseIx) (x : Option Retained) : (s.setRetained h x).gauging = s.gauging := rfl
@[simp] theorem State.setRetained_tripUnit (s : State) (h : HoseIx) (x : Option Retained) : (s.setRetained h x).tripUnit = s.tripUnit := rfl
@[simp] theorem State.setRetained_journal (s : State) (h : HoseIx) (x : Option Retained) : (s.setRetained h x).journal = s.journal := rfl
@[simp] theorem State.setRetained_link (s : State) (h : HoseIx) (x : Option Retained) : (s.setRetained h x).link = s.link := rfl
@[simp] theorem State.setRetained_counts (s : State) (h : HoseIx) (x : Option Retained) : (s.setRetained h x).counts = s.counts := rfl
@[simp] theorem State.setRetained_peers (s : State) (h : HoseIx) (x : Option Retained) : (s.setRetained h x).peers = s.peers := rfl
@[simp] theorem State.setRetained_beaconTimer (s : State) (h : HoseIx) (x : Option Retained) : (s.setRetained h x).beaconTimer = s.beaconTimer := rfl
@[simp] theorem State.setRetained_choices (s : State) (h : HoseIx) (x : Option Retained) : (s.setRetained h x).choices = s.choices := rfl
@[simp] theorem State.setRetained_pending (s : State) (h : HoseIx) (x : Option Retained) : (s.setRetained h x).pending = s.pending := rfl

@[simp] theorem State.setBook_unit (s : State) (k : BookIx) (x : Book) : (s.setBook k x).unit = s.unit := rfl
@[simp] theorem State.setBook_creepTimer (s : State) (k : BookIx) (x : Book) : (s.setBook k x).creepTimer = s.creepTimer := rfl
@[simp] theorem State.setBook_meters (s : State) (k : BookIx) (x : Book) : (s.setBook k x).meters = s.meters := rfl
@[simp] theorem State.setBook_valves (s : State) (k : BookIx) (x : Book) : (s.setBook k x).valves = s.valves := rfl
@[simp] theorem State.setBook_pumps (s : State) (k : BookIx) (x : Book) : (s.setBook k x).pumps = s.pumps := rfl
@[simp] theorem State.setBook_hoses (s : State) (k : BookIx) (x : Book) : (s.setBook k x).hoses = s.hoses := rfl
@[simp] theorem State.setBook_retained (s : State) (k : BookIx) (x : Book) : (s.setBook k x).retained = s.retained := rfl
@[simp] theorem State.setBook_accounts (s : State) (k : BookIx) (x : Book) : (s.setBook k x).accounts = s.accounts := rfl
@[simp] theorem State.setBook_books (s : State) (k : BookIx) (x : Book) : (s.setBook k x).books = s.books.set k x := rfl
@[simp] theorem State.setBook_probes (s : State) (k : BookIx) (x : Book) : (s.setBook k x).probes = s.probes := rfl
@[simp] theorem State.setBook_gauging (s : State) (k : BookIx) (x : Book) : (s.setBook k x).gauging = s.gauging := rfl
@[simp] theorem State.setBook_tripUnit (s : State) (k : BookIx) (x : Book) : (s.setBook k x).tripUnit = s.tripUnit := rfl
@[simp] theorem State.setBook_journal (s : State) (k : BookIx) (x : Book) : (s.setBook k x).journal = s.journal := rfl
@[simp] theorem State.setBook_link (s : State) (k : BookIx) (x : Book) : (s.setBook k x).link = s.link := rfl
@[simp] theorem State.setBook_counts (s : State) (k : BookIx) (x : Book) : (s.setBook k x).counts = s.counts := rfl
@[simp] theorem State.setBook_peers (s : State) (k : BookIx) (x : Book) : (s.setBook k x).peers = s.peers := rfl
@[simp] theorem State.setBook_beaconTimer (s : State) (k : BookIx) (x : Book) : (s.setBook k x).beaconTimer = s.beaconTimer := rfl
@[simp] theorem State.setBook_choices (s : State) (k : BookIx) (x : Book) : (s.setBook k x).choices = s.choices := rfl
@[simp] theorem State.setBook_pending (s : State) (k : BookIx) (x : Book) : (s.setBook k x).pending = s.pending := rfl

@[simp] theorem State.setProbe_unit (s : State) (c : ProbeIx) (x : Probe) : (s.setProbe c x).unit = s.unit := rfl
@[simp] theorem State.setProbe_creepTimer (s : State) (c : ProbeIx) (x : Probe) : (s.setProbe c x).creepTimer = s.creepTimer := rfl
@[simp] theorem State.setProbe_meters (s : State) (c : ProbeIx) (x : Probe) : (s.setProbe c x).meters = s.meters := rfl
@[simp] theorem State.setProbe_valves (s : State) (c : ProbeIx) (x : Probe) : (s.setProbe c x).valves = s.valves := rfl
@[simp] theorem State.setProbe_pumps (s : State) (c : ProbeIx) (x : Probe) : (s.setProbe c x).pumps = s.pumps := rfl
@[simp] theorem State.setProbe_hoses (s : State) (c : ProbeIx) (x : Probe) : (s.setProbe c x).hoses = s.hoses := rfl
@[simp] theorem State.setProbe_retained (s : State) (c : ProbeIx) (x : Probe) : (s.setProbe c x).retained = s.retained := rfl
@[simp] theorem State.setProbe_accounts (s : State) (c : ProbeIx) (x : Probe) : (s.setProbe c x).accounts = s.accounts := rfl
@[simp] theorem State.setProbe_books (s : State) (c : ProbeIx) (x : Probe) : (s.setProbe c x).books = s.books := rfl
@[simp] theorem State.setProbe_probes (s : State) (c : ProbeIx) (x : Probe) : (s.setProbe c x).probes = s.probes.set c x := rfl
@[simp] theorem State.setProbe_gauging (s : State) (c : ProbeIx) (x : Probe) : (s.setProbe c x).gauging = s.gauging := rfl
@[simp] theorem State.setProbe_tripUnit (s : State) (c : ProbeIx) (x : Probe) : (s.setProbe c x).tripUnit = s.tripUnit := rfl
@[simp] theorem State.setProbe_journal (s : State) (c : ProbeIx) (x : Probe) : (s.setProbe c x).journal = s.journal := rfl
@[simp] theorem State.setProbe_link (s : State) (c : ProbeIx) (x : Probe) : (s.setProbe c x).link = s.link := rfl
@[simp] theorem State.setProbe_counts (s : State) (c : ProbeIx) (x : Probe) : (s.setProbe c x).counts = s.counts := rfl
@[simp] theorem State.setProbe_peers (s : State) (c : ProbeIx) (x : Probe) : (s.setProbe c x).peers = s.peers := rfl
@[simp] theorem State.setProbe_beaconTimer (s : State) (c : ProbeIx) (x : Probe) : (s.setProbe c x).beaconTimer = s.beaconTimer := rfl
@[simp] theorem State.setProbe_choices (s : State) (c : ProbeIx) (x : Probe) : (s.setProbe c x).choices = s.choices := rfl
@[simp] theorem State.setProbe_pending (s : State) (c : ProbeIx) (x : Probe) : (s.setProbe c x).pending = s.pending := rfl

@[simp] theorem State.setAccounts_unit (s : State) (x : Accounts) : (s.setAccounts x).unit = s.unit := rfl
@[simp] theorem State.setAccounts_creepTimer (s : State) (x : Accounts) : (s.setAccounts x).creepTimer = s.creepTimer := rfl
@[simp] theorem State.setAccounts_meters (s : State) (x : Accounts) : (s.setAccounts x).meters = s.meters := rfl
@[simp] theorem State.setAccounts_valves (s : State) (x : Accounts) : (s.setAccounts x).valves = s.valves := rfl
@[simp] theorem State.setAccounts_pumps (s : State) (x : Accounts) : (s.setAccounts x).pumps = s.pumps := rfl
@[simp] theorem State.setAccounts_hoses (s : State) (x : Accounts) : (s.setAccounts x).hoses = s.hoses := rfl
@[simp] theorem State.setAccounts_retained (s : State) (x : Accounts) : (s.setAccounts x).retained = s.retained := rfl
@[simp] theorem State.setAccounts_accounts (s : State) (x : Accounts) : (s.setAccounts x).accounts = x := rfl
@[simp] theorem State.setAccounts_books (s : State) (x : Accounts) : (s.setAccounts x).books = s.books := rfl
@[simp] theorem State.setAccounts_probes (s : State) (x : Accounts) : (s.setAccounts x).probes = s.probes := rfl
@[simp] theorem State.setAccounts_gauging (s : State) (x : Accounts) : (s.setAccounts x).gauging = s.gauging := rfl
@[simp] theorem State.setAccounts_tripUnit (s : State) (x : Accounts) : (s.setAccounts x).tripUnit = s.tripUnit := rfl
@[simp] theorem State.setAccounts_journal (s : State) (x : Accounts) : (s.setAccounts x).journal = s.journal := rfl
@[simp] theorem State.setAccounts_link (s : State) (x : Accounts) : (s.setAccounts x).link = s.link := rfl
@[simp] theorem State.setAccounts_counts (s : State) (x : Accounts) : (s.setAccounts x).counts = s.counts := rfl
@[simp] theorem State.setAccounts_peers (s : State) (x : Accounts) : (s.setAccounts x).peers = s.peers := rfl
@[simp] theorem State.setAccounts_beaconTimer (s : State) (x : Accounts) : (s.setAccounts x).beaconTimer = s.beaconTimer := rfl
@[simp] theorem State.setAccounts_choices (s : State) (x : Accounts) : (s.setAccounts x).choices = s.choices := rfl
@[simp] theorem State.setAccounts_pending (s : State) (x : Accounts) : (s.setAccounts x).pending = s.pending := rfl

@[simp] theorem State.setGauging_unit (s : State) (x : Gauging) : (s.setGauging x).unit = s.unit := rfl
@[simp] theorem State.setGauging_creepTimer (s : State) (x : Gauging) : (s.setGauging x).creepTimer = s.creepTimer := rfl
@[simp] theorem State.setGauging_meters (s : State) (x : Gauging) : (s.setGauging x).meters = s.meters := rfl
@[simp] theorem State.setGauging_valves (s : State) (x : Gauging) : (s.setGauging x).valves = s.valves := rfl
@[simp] theorem State.setGauging_pumps (s : State) (x : Gauging) : (s.setGauging x).pumps = s.pumps := rfl
@[simp] theorem State.setGauging_hoses (s : State) (x : Gauging) : (s.setGauging x).hoses = s.hoses := rfl
@[simp] theorem State.setGauging_retained (s : State) (x : Gauging) : (s.setGauging x).retained = s.retained := rfl
@[simp] theorem State.setGauging_accounts (s : State) (x : Gauging) : (s.setGauging x).accounts = s.accounts := rfl
@[simp] theorem State.setGauging_books (s : State) (x : Gauging) : (s.setGauging x).books = s.books := rfl
@[simp] theorem State.setGauging_probes (s : State) (x : Gauging) : (s.setGauging x).probes = s.probes := rfl
@[simp] theorem State.setGauging_gauging (s : State) (x : Gauging) : (s.setGauging x).gauging = x := rfl
@[simp] theorem State.setGauging_tripUnit (s : State) (x : Gauging) : (s.setGauging x).tripUnit = s.tripUnit := rfl
@[simp] theorem State.setGauging_journal (s : State) (x : Gauging) : (s.setGauging x).journal = s.journal := rfl
@[simp] theorem State.setGauging_link (s : State) (x : Gauging) : (s.setGauging x).link = s.link := rfl
@[simp] theorem State.setGauging_counts (s : State) (x : Gauging) : (s.setGauging x).counts = s.counts := rfl
@[simp] theorem State.setGauging_peers (s : State) (x : Gauging) : (s.setGauging x).peers = s.peers := rfl
@[simp] theorem State.setGauging_beaconTimer (s : State) (x : Gauging) : (s.setGauging x).beaconTimer = s.beaconTimer := rfl
@[simp] theorem State.setGauging_choices (s : State) (x : Gauging) : (s.setGauging x).choices = s.choices := rfl
@[simp] theorem State.setGauging_pending (s : State) (x : Gauging) : (s.setGauging x).pending = s.pending := rfl

@[simp] theorem State.setTripUnit_unit (s : State) (x : TripUnit) : (s.setTripUnit x).unit = s.unit := rfl
@[simp] theorem State.setTripUnit_creepTimer (s : State) (x : TripUnit) : (s.setTripUnit x).creepTimer = s.creepTimer := rfl
@[simp] theorem State.setTripUnit_meters (s : State) (x : TripUnit) : (s.setTripUnit x).meters = s.meters := rfl
@[simp] theorem State.setTripUnit_valves (s : State) (x : TripUnit) : (s.setTripUnit x).valves = s.valves := rfl
@[simp] theorem State.setTripUnit_pumps (s : State) (x : TripUnit) : (s.setTripUnit x).pumps = s.pumps := rfl
@[simp] theorem State.setTripUnit_hoses (s : State) (x : TripUnit) : (s.setTripUnit x).hoses = s.hoses := rfl
@[simp] theorem State.setTripUnit_retained (s : State) (x : TripUnit) : (s.setTripUnit x).retained = s.retained := rfl
@[simp] theorem State.setTripUnit_accounts (s : State) (x : TripUnit) : (s.setTripUnit x).accounts = s.accounts := rfl
@[simp] theorem State.setTripUnit_books (s : State) (x : TripUnit) : (s.setTripUnit x).books = s.books := rfl
@[simp] theorem State.setTripUnit_probes (s : State) (x : TripUnit) : (s.setTripUnit x).probes = s.probes := rfl
@[simp] theorem State.setTripUnit_gauging (s : State) (x : TripUnit) : (s.setTripUnit x).gauging = s.gauging := rfl
@[simp] theorem State.setTripUnit_tripUnit (s : State) (x : TripUnit) : (s.setTripUnit x).tripUnit = x := rfl
@[simp] theorem State.setTripUnit_journal (s : State) (x : TripUnit) : (s.setTripUnit x).journal = s.journal := rfl
@[simp] theorem State.setTripUnit_link (s : State) (x : TripUnit) : (s.setTripUnit x).link = s.link := rfl
@[simp] theorem State.setTripUnit_counts (s : State) (x : TripUnit) : (s.setTripUnit x).counts = s.counts := rfl
@[simp] theorem State.setTripUnit_peers (s : State) (x : TripUnit) : (s.setTripUnit x).peers = s.peers := rfl
@[simp] theorem State.setTripUnit_beaconTimer (s : State) (x : TripUnit) : (s.setTripUnit x).beaconTimer = s.beaconTimer := rfl
@[simp] theorem State.setTripUnit_choices (s : State) (x : TripUnit) : (s.setTripUnit x).choices = s.choices := rfl
@[simp] theorem State.setTripUnit_pending (s : State) (x : TripUnit) : (s.setTripUnit x).pending = s.pending := rfl

@[simp] theorem State.setJournal_unit (s : State) (x : Journal) : (s.setJournal x).unit = s.unit := rfl
@[simp] theorem State.setJournal_creepTimer (s : State) (x : Journal) : (s.setJournal x).creepTimer = s.creepTimer := rfl
@[simp] theorem State.setJournal_meters (s : State) (x : Journal) : (s.setJournal x).meters = s.meters := rfl
@[simp] theorem State.setJournal_valves (s : State) (x : Journal) : (s.setJournal x).valves = s.valves := rfl
@[simp] theorem State.setJournal_pumps (s : State) (x : Journal) : (s.setJournal x).pumps = s.pumps := rfl
@[simp] theorem State.setJournal_hoses (s : State) (x : Journal) : (s.setJournal x).hoses = s.hoses := rfl
@[simp] theorem State.setJournal_retained (s : State) (x : Journal) : (s.setJournal x).retained = s.retained := rfl
@[simp] theorem State.setJournal_accounts (s : State) (x : Journal) : (s.setJournal x).accounts = s.accounts := rfl
@[simp] theorem State.setJournal_books (s : State) (x : Journal) : (s.setJournal x).books = s.books := rfl
@[simp] theorem State.setJournal_probes (s : State) (x : Journal) : (s.setJournal x).probes = s.probes := rfl
@[simp] theorem State.setJournal_gauging (s : State) (x : Journal) : (s.setJournal x).gauging = s.gauging := rfl
@[simp] theorem State.setJournal_tripUnit (s : State) (x : Journal) : (s.setJournal x).tripUnit = s.tripUnit := rfl
@[simp] theorem State.setJournal_journal (s : State) (x : Journal) : (s.setJournal x).journal = x := rfl
@[simp] theorem State.setJournal_link (s : State) (x : Journal) : (s.setJournal x).link = s.link := rfl
@[simp] theorem State.setJournal_counts (s : State) (x : Journal) : (s.setJournal x).counts = s.counts := rfl
@[simp] theorem State.setJournal_peers (s : State) (x : Journal) : (s.setJournal x).peers = s.peers := rfl
@[simp] theorem State.setJournal_beaconTimer (s : State) (x : Journal) : (s.setJournal x).beaconTimer = s.beaconTimer := rfl
@[simp] theorem State.setJournal_choices (s : State) (x : Journal) : (s.setJournal x).choices = s.choices := rfl
@[simp] theorem State.setJournal_pending (s : State) (x : Journal) : (s.setJournal x).pending = s.pending := rfl

@[simp] theorem State.setLink_unit (s : State) (x : Link) : (s.setLink x).unit = s.unit := rfl
@[simp] theorem State.setLink_creepTimer (s : State) (x : Link) : (s.setLink x).creepTimer = s.creepTimer := rfl
@[simp] theorem State.setLink_meters (s : State) (x : Link) : (s.setLink x).meters = s.meters := rfl
@[simp] theorem State.setLink_valves (s : State) (x : Link) : (s.setLink x).valves = s.valves := rfl
@[simp] theorem State.setLink_pumps (s : State) (x : Link) : (s.setLink x).pumps = s.pumps := rfl
@[simp] theorem State.setLink_hoses (s : State) (x : Link) : (s.setLink x).hoses = s.hoses := rfl
@[simp] theorem State.setLink_retained (s : State) (x : Link) : (s.setLink x).retained = s.retained := rfl
@[simp] theorem State.setLink_accounts (s : State) (x : Link) : (s.setLink x).accounts = s.accounts := rfl
@[simp] theorem State.setLink_books (s : State) (x : Link) : (s.setLink x).books = s.books := rfl
@[simp] theorem State.setLink_probes (s : State) (x : Link) : (s.setLink x).probes = s.probes := rfl
@[simp] theorem State.setLink_gauging (s : State) (x : Link) : (s.setLink x).gauging = s.gauging := rfl
@[simp] theorem State.setLink_tripUnit (s : State) (x : Link) : (s.setLink x).tripUnit = s.tripUnit := rfl
@[simp] theorem State.setLink_journal (s : State) (x : Link) : (s.setLink x).journal = s.journal := rfl
@[simp] theorem State.setLink_link (s : State) (x : Link) : (s.setLink x).link = x := rfl
@[simp] theorem State.setLink_counts (s : State) (x : Link) : (s.setLink x).counts = s.counts := rfl
@[simp] theorem State.setLink_peers (s : State) (x : Link) : (s.setLink x).peers = s.peers := rfl
@[simp] theorem State.setLink_beaconTimer (s : State) (x : Link) : (s.setLink x).beaconTimer = s.beaconTimer := rfl
@[simp] theorem State.setLink_choices (s : State) (x : Link) : (s.setLink x).choices = s.choices := rfl
@[simp] theorem State.setLink_pending (s : State) (x : Link) : (s.setLink x).pending = s.pending := rfl

@[simp] theorem State.setCounts_unit (s : State) (x : Counts) : (s.setCounts x).unit = s.unit := rfl
@[simp] theorem State.setCounts_creepTimer (s : State) (x : Counts) : (s.setCounts x).creepTimer = s.creepTimer := rfl
@[simp] theorem State.setCounts_meters (s : State) (x : Counts) : (s.setCounts x).meters = s.meters := rfl
@[simp] theorem State.setCounts_valves (s : State) (x : Counts) : (s.setCounts x).valves = s.valves := rfl
@[simp] theorem State.setCounts_pumps (s : State) (x : Counts) : (s.setCounts x).pumps = s.pumps := rfl
@[simp] theorem State.setCounts_hoses (s : State) (x : Counts) : (s.setCounts x).hoses = s.hoses := rfl
@[simp] theorem State.setCounts_retained (s : State) (x : Counts) : (s.setCounts x).retained = s.retained := rfl
@[simp] theorem State.setCounts_accounts (s : State) (x : Counts) : (s.setCounts x).accounts = s.accounts := rfl
@[simp] theorem State.setCounts_books (s : State) (x : Counts) : (s.setCounts x).books = s.books := rfl
@[simp] theorem State.setCounts_probes (s : State) (x : Counts) : (s.setCounts x).probes = s.probes := rfl
@[simp] theorem State.setCounts_gauging (s : State) (x : Counts) : (s.setCounts x).gauging = s.gauging := rfl
@[simp] theorem State.setCounts_tripUnit (s : State) (x : Counts) : (s.setCounts x).tripUnit = s.tripUnit := rfl
@[simp] theorem State.setCounts_journal (s : State) (x : Counts) : (s.setCounts x).journal = s.journal := rfl
@[simp] theorem State.setCounts_link (s : State) (x : Counts) : (s.setCounts x).link = s.link := rfl
@[simp] theorem State.setCounts_counts (s : State) (x : Counts) : (s.setCounts x).counts = x := rfl
@[simp] theorem State.setCounts_peers (s : State) (x : Counts) : (s.setCounts x).peers = s.peers := rfl
@[simp] theorem State.setCounts_beaconTimer (s : State) (x : Counts) : (s.setCounts x).beaconTimer = s.beaconTimer := rfl
@[simp] theorem State.setCounts_choices (s : State) (x : Counts) : (s.setCounts x).choices = s.choices := rfl
@[simp] theorem State.setCounts_pending (s : State) (x : Counts) : (s.setCounts x).pending = s.pending := rfl

@[simp] theorem State.setPeers_unit (s : State) (x : List Peer) : (s.setPeers x).unit = s.unit := rfl
@[simp] theorem State.setPeers_creepTimer (s : State) (x : List Peer) : (s.setPeers x).creepTimer = s.creepTimer := rfl
@[simp] theorem State.setPeers_meters (s : State) (x : List Peer) : (s.setPeers x).meters = s.meters := rfl
@[simp] theorem State.setPeers_valves (s : State) (x : List Peer) : (s.setPeers x).valves = s.valves := rfl
@[simp] theorem State.setPeers_pumps (s : State) (x : List Peer) : (s.setPeers x).pumps = s.pumps := rfl
@[simp] theorem State.setPeers_hoses (s : State) (x : List Peer) : (s.setPeers x).hoses = s.hoses := rfl
@[simp] theorem State.setPeers_retained (s : State) (x : List Peer) : (s.setPeers x).retained = s.retained := rfl
@[simp] theorem State.setPeers_accounts (s : State) (x : List Peer) : (s.setPeers x).accounts = s.accounts := rfl
@[simp] theorem State.setPeers_books (s : State) (x : List Peer) : (s.setPeers x).books = s.books := rfl
@[simp] theorem State.setPeers_probes (s : State) (x : List Peer) : (s.setPeers x).probes = s.probes := rfl
@[simp] theorem State.setPeers_gauging (s : State) (x : List Peer) : (s.setPeers x).gauging = s.gauging := rfl
@[simp] theorem State.setPeers_tripUnit (s : State) (x : List Peer) : (s.setPeers x).tripUnit = s.tripUnit := rfl
@[simp] theorem State.setPeers_journal (s : State) (x : List Peer) : (s.setPeers x).journal = s.journal := rfl
@[simp] theorem State.setPeers_link (s : State) (x : List Peer) : (s.setPeers x).link = s.link := rfl
@[simp] theorem State.setPeers_counts (s : State) (x : List Peer) : (s.setPeers x).counts = s.counts := rfl
@[simp] theorem State.setPeers_peers (s : State) (x : List Peer) : (s.setPeers x).peers = x := rfl
@[simp] theorem State.setPeers_beaconTimer (s : State) (x : List Peer) : (s.setPeers x).beaconTimer = s.beaconTimer := rfl
@[simp] theorem State.setPeers_choices (s : State) (x : List Peer) : (s.setPeers x).choices = s.choices := rfl
@[simp] theorem State.setPeers_pending (s : State) (x : List Peer) : (s.setPeers x).pending = s.pending := rfl

@[simp] theorem State.setUnit_unit (s : State) (x : StartUnit) : (s.setUnit x).unit = x := rfl
@[simp] theorem State.setUnit_creepTimer (s : State) (x : StartUnit) : (s.setUnit x).creepTimer = s.creepTimer := rfl
@[simp] theorem State.setUnit_meters (s : State) (x : StartUnit) : (s.setUnit x).meters = s.meters := rfl
@[simp] theorem State.setUnit_valves (s : State) (x : StartUnit) : (s.setUnit x).valves = s.valves := rfl
@[simp] theorem State.setUnit_pumps (s : State) (x : StartUnit) : (s.setUnit x).pumps = s.pumps := rfl
@[simp] theorem State.setUnit_hoses (s : State) (x : StartUnit) : (s.setUnit x).hoses = s.hoses := rfl
@[simp] theorem State.setUnit_retained (s : State) (x : StartUnit) : (s.setUnit x).retained = s.retained := rfl
@[simp] theorem State.setUnit_accounts (s : State) (x : StartUnit) : (s.setUnit x).accounts = s.accounts := rfl
@[simp] theorem State.setUnit_books (s : State) (x : StartUnit) : (s.setUnit x).books = s.books := rfl
@[simp] theorem State.setUnit_probes (s : State) (x : StartUnit) : (s.setUnit x).probes = s.probes := rfl
@[simp] theorem State.setUnit_gauging (s : State) (x : StartUnit) : (s.setUnit x).gauging = s.gauging := rfl
@[simp] theorem State.setUnit_tripUnit (s : State) (x : StartUnit) : (s.setUnit x).tripUnit = s.tripUnit := rfl
@[simp] theorem State.setUnit_journal (s : State) (x : StartUnit) : (s.setUnit x).journal = s.journal := rfl
@[simp] theorem State.setUnit_link (s : State) (x : StartUnit) : (s.setUnit x).link = s.link := rfl
@[simp] theorem State.setUnit_counts (s : State) (x : StartUnit) : (s.setUnit x).counts = s.counts := rfl
@[simp] theorem State.setUnit_peers (s : State) (x : StartUnit) : (s.setUnit x).peers = s.peers := rfl
@[simp] theorem State.setUnit_beaconTimer (s : State) (x : StartUnit) : (s.setUnit x).beaconTimer = s.beaconTimer := rfl
@[simp] theorem State.setUnit_choices (s : State) (x : StartUnit) : (s.setUnit x).choices = s.choices := rfl
@[simp] theorem State.setUnit_pending (s : State) (x : StartUnit) : (s.setUnit x).pending = s.pending := rfl

/-! ## Timers (log 1) -/

@[simp] theorem ranOut_none (limit : Nat) : ranOut none limit = false := rfl
@[simp] theorem ranOut_some (n limit : Nat) : ranOut (some n) limit = decide (limit ≤ n) := rfl

end Machine

end Sys2Proof
end

