-- ==== Sys2Proof/Laws/Frames.lean ====
section
/-! SUPPORT. What each shared operation leaves unchanged: one frame lemma for each, which says every part of the state
it can touch. -/

namespace Sys2Proof.Machine

/-! ## Frames compose -/

theorem sameOutside.refl (ps : List Part) (s : State) : sameOutside ps s s := by
  intro p _; cases p <;> first | rfl | exact ⟨rfl, rfl⟩

theorem State.sameAt.trans {s t u : State} {p : Part} (h : s.sameAt t p) (k : t.sameAt u p) : s.sameAt u p := by
  cases p
  case journal =>
    have h1 : t.journal = { s.journal with read := t.journal.read } := by
      rw [show s.journal = { t.journal with read := s.journal.read } from Eq.symm h]
    have k1 : u.journal = { t.journal with read := u.journal.read } := by
      rw [show t.journal = { u.journal with read := t.journal.read } from Eq.symm k]
    show { u.journal with read := s.journal.read } = s.journal
    rw [k1, h1]
  case link =>
    have h1 : t.link = { s.link with ordinary := t.link.ordinary, reserved := t.link.reserved } := by
      rw [show s.link = { t.link with ordinary := s.link.ordinary, reserved := s.link.reserved } from Eq.symm h]
    have k1 : u.link = { t.link with ordinary := u.link.ordinary, reserved := u.link.reserved } := by
      rw [show t.link = { u.link with ordinary := t.link.ordinary, reserved := t.link.reserved } from Eq.symm k]
    show { u.link with ordinary := s.link.ordinary, reserved := s.link.reserved } = s.link
    rw [k1, h1]
  case queue => exact ⟨k.1.trans h.1, k.2.trans h.2⟩
  all_goals exact Eq.trans k h

theorem sameOutside.mono {ps qs : List Part} {s t : State} (h : sameOutside ps s t)
    (hs : (ps.all fun p => qs.contains p) = true) : sameOutside qs s t := by
  intro p hp
  refine h p fun hm => hp ?_
  simpa using List.all_eq_true.mp hs p hm

theorem sameOutside.then {ps qs rs : List Part} {s t u : State} (h : sameOutside ps s t) (k : sameOutside qs t u)
    (hp : (ps.all fun p => rs.contains p) = true) (hq : (qs.all fun p => rs.contains p) = true) :
    sameOutside rs s u := by
  intro p hm
  exact (h.mono hp p hm).trans (k.mono hq p hm)

theorem sameOutside.trans {ps : List Part} {s t u : State} (h : sameOutside ps s t) (k : sameOutside ps t u) :
    sameOutside ps s u := fun p hp => (h p hp).trans (k p hp)

theorem sameOutside.foldl {α : Type} {ps : List Part} {f : State → α → State}
    (h : ∀ a s, sameOutside ps s (f s a)) (l : List α) (s : State) : sameOutside ps s (l.foldl f s) := by
  induction l generalizing s with
  | nil => exact .refl _ _
  | cons a l ih => exact (h a s).trans (ih _)

theorem sameOutside.ite {ps : List Part} {s t u : State} {c : Prop} [Decidable c] (h : sameOutside ps s t)
    (k : sameOutside ps s u) : sameOutside ps s (if c then t else u) := by
  split <;> assumption

/-! ## What a kept part says of its items -/

theorem sameOutside.join {ps : List Part} {s t : State} (h : sameOutside ps s t) (hp : Part.link ∉ ps) :
    t.link.join = s.link.join := by
  have k : { t.link with ordinary := s.link.ordinary, reserved := s.link.reserved } = s.link := h .link hp
  have := congrArg Link.join k
  exact this

theorem sameOutside.driver {ps : List Part} {s t : State} (h : sameOutside ps s t) (hp : Part.link ∉ ps) :
    t.link.driver = s.link.driver := by
  have k : { t.link with ordinary := s.link.ordinary, reserved := s.link.reserved } = s.link := h .link hp
  have := congrArg Link.driver k
  exact this

theorem sameOutside.buffer {ps : List Part} {s t : State} (h : sameOutside ps s t) (hp : Part.link ∉ ps) :
    t.link.buffer = s.link.buffer := by
  have k : { t.link with ordinary := s.link.ordinary, reserved := s.link.reserved } = s.link := h .link hp
  have := congrArg Link.buffer k
  exact this

theorem sameOutside.records {ps : List Part} {s t : State} (h : sameOutside ps s t) (hp : Part.journal ∉ ps) :
    t.journal.records = s.journal.records := by
  have k : { t.journal with read := s.journal.read } = s.journal := h .journal hp
  have := congrArg Journal.records k
  exact this

theorem sameOutside.reservations {ps : List Part} {s t : State} (h : sameOutside ps s t) (hp : Part.journal ∉ ps) :
    t.journal.reserved = s.journal.reserved := by
  have k : { t.journal with read := s.journal.read } = s.journal := h .journal hp
  have := congrArg Journal.reserved k
  exact this

theorem sameOutside.counter {ps : List Part} {s t : State} (h : sameOutside ps s t) (hp : Part.journal ∉ ps) :
    t.journal.counter = s.journal.counter := by
  have k : { t.journal with read := s.journal.read } = s.journal := h .journal hp
  have := congrArg Journal.counter k
  exact this

theorem sameOutside.mark {ps : List Part} {s t : State} (h : sameOutside ps s t) (hp : Part.journal ∉ ps) :
    t.journal.mark = s.journal.mark := by
  have k : { t.journal with read := s.journal.read } = s.journal := h .journal hp
  have := congrArg Journal.mark k
  exact this

/-! ## Updates of one item -/

theorem setMeter_frame (s : State) (h : HoseIx) (x : Meter) : sameOutside [.meters] s (s.setMeter h x) := by
  intro p hp; cases p <;> simp_all [State.sameAt]

theorem setValve_frame (s : State) (h : HoseIx) (x : Valve) : sameOutside [.valves] s (s.setValve h x) := by
  intro p hp; cases p <;> simp_all [State.sameAt]

theorem setPump_frame (s : State) (p : PumpIx) (x : Pump) : sameOutside [.pumps] s (s.setPump p x) := by
  intro p hp; cases p <;> simp_all [State.sameAt]

theorem setHose_frame (s : State) (h : HoseIx) (x : Hose) : sameOutside [.hoses] s (s.setHose h x) := by
  intro p hp; cases p <;> simp_all [State.sameAt]

theorem setRetained_frame (s : State) (h : HoseIx) (x : Option Retained) :
    sameOutside [.retained] s (s.setRetained h x) := by
  intro p hp; cases p <;> simp_all [State.sameAt]

theorem setBook_frame (s : State) (k : BookIx) (x : Book) : sameOutside [.books] s (s.setBook k x) := by
  intro p hp; cases p <;> simp_all [State.sameAt]

theorem setProbe_frame (s : State) (c : ProbeIx) (x : Probe) : sameOutside [.probes] s (s.setProbe c x) := by
  intro p hp; cases p <;> simp_all [State.sameAt]

theorem setAccounts_frame (s : State) (x : Accounts) : sameOutside [.accounts] s (s.setAccounts x) := by
  intro p hp; cases p <;> simp_all [State.sameAt]

theorem setGauging_frame (s : State) (x : Gauging) : sameOutside [.gauging] s (s.setGauging x) := by
  intro p hp; cases p <;> simp_all [State.sameAt]

theorem setTripUnit_frame (s : State) (x : TripUnit) : sameOutside [.tripUnit] s (s.setTripUnit x) := by
  intro p hp; cases p <;> simp_all [State.sameAt]

theorem setJournal_frame (s : State) (x : Journal) : sameOutside [.journal, .read] s (s.setJournal x) := by
  intro p hp; cases p <;> simp_all [State.sameAt]

/-- An update of the journal that keeps the read in progress. -/
theorem setRecords_frame (s : State) (x : Journal) (h : x.read = s.journal.read) :
    sameOutside [.journal] s (s.setJournal x) := by
  intro p hp; cases p <;> simp_all [State.sameAt]

/-- An update of the read in progress alone. -/
theorem setRead_frame (s : State) (r : Option ReadInProgress) :
    sameOutside [.read] s (s.setJournal { s.journal with read := r }) := by
  intro p hp; cases p <;> simp_all [State.sameAt]

theorem setLink_frame (s : State) (x : Link) : sameOutside [.link, .queue] s (s.setLink x) := by
  intro p hp; cases p <;> simp_all [State.sameAt]

/-- An update of the link unit that keeps the queue. -/
theorem setLine_frame (s : State) (x : Link) (ho : x.ordinary = s.link.ordinary)
    (hr : x.reserved = s.link.reserved) : sameOutside [.link] s (s.setLink x) := by
  intro p hp; cases p <;> simp_all [State.sameAt]

/-- An update of the queue alone. -/
theorem setQueue_frame (s : State) (o r : List TxEntry) :
    sameOutside [.queue] s (s.setLink { s.link with ordinary := o, reserved := r }) := by
  intro p hp; cases p <;> simp_all [State.sameAt]

theorem setCounts_frame (s : State) (x : Counts) : sameOutside [.counts] s (s.setCounts x) := by
  intro p hp; cases p <;> simp_all [State.sameAt]

theorem setPeers_frame (s : State) (x : List Peer) : sameOutside [.peers] s (s.setPeers x) := by
  intro p hp; cases p <;> simp_all [State.sameAt]

theorem setUnit_frame (s : State) (x : StartUnit) : sameOutside [.unit] s (s.setUnit x) := by
  intro p hp; cases p <;> simp_all [State.sameAt]

/-! ## The link unit's hand-over (R164 to R169) -/

theorem reportLost_frame (p : Purpose) (s : State) : sameOutside [.read] s (reportLost p s) := by
  cases p
  · exact .refl _ _
  · exact setRead_frame _ _
  · exact .refl _ _

theorem countDrop_frame (s : State) : sameOutside [.counts] s (countDrop s) := setCounts_frame _ _

theorem countMalformed_frame (s : State) : sameOutside [.counts] s (countMalformed s) := setCounts_frame _ _

theorem dropNew_frame (f : NewFrame) (s : State) : sameOutside [.counts, .read] s (dropNew f s) :=
  (countDrop_frame s).then (reportLost_frame _ _) rfl rfl

theorem handReserved_frame (f : NewFrame) (s : State) : sameOutside [.queue] s (handReserved f s) := by
  unfold handReserved
  split
  · exact setQueue_frame _ _ _
  · exact (setQueue_frame _ _ _).ite (.refl _ _)

theorem handBeacon_frame (f : NewFrame) (s : State) :
    sameOutside handing s (handBeacon f s) := by
  unfold handBeacon
  split
  · exact .ite (.refl _ _) ((setQueue_frame _ _ _).mono rfl)
  · exact .ite ((setQueue_frame _ _ _).mono rfl) ((dropNew_frame _ _).mono rfl)

theorem displace_frame (f : NewFrame) (s : State) : sameOutside handing s (displace f s) := by
  have put (p : Purpose) (o r : List TxEntry) :
      sameOutside handing s (reportLost p (countDrop (s.setLink { s.link with ordinary := o, reserved := r }))) :=
    ((setQueue_frame s o r).then (countDrop_frame _) (rs := [.queue, .counts]) rfl rfl).then (reportLost_frame _ _) rfl rfl
  unfold displace
  split
  · exact put _ _ _
  · split
    · exact put _ _ _
    · exact (dropNew_frame _ _).mono rfl

theorem handOrdinary_frame (f : NewFrame) (s : State) :
    sameOutside handing s (handOrdinary f s) :=
  .ite ((setQueue_frame _ _ _).mono rfl) (.ite (displace_frame _ _) ((dropNew_frame _ _).mono rfl))

/-- Handing a frame over can change the queue, the drop count and a read in progress, and nothing else. -/
theorem handOver_frame (f : NewFrame) (s : State) : sameOutside handing s (handOver f s) := by
  unfold handOver
  refine .ite (.refl _ _) ?_
  split
  · exact (handReserved_frame _ _).mono rfl
  · exact (handReserved_frame _ _).mono rfl
  · exact handBeacon_frame _ _
  · exact handOrdinary_frame _ _

theorem reply_frame (d : Nat) (k : FrameKind) (b : List Byte) (o : Block) (p : Purpose) (s : State) :
    sameOutside handing s (reply d k b o p s) := handOver_frame _ _

theorem refuse_frame (d k : Nat) (c : RefusalCode) (o : Block) (s : State) :
    sameOutside handing s (refuse d k c o s) := handOver_frame _ _

/-! ## The drive (R11 to R24) -/

theorem restartQuiet_frame (h : HoseIx) (s : State) : sameOutside [.meters] s (restartQuiet h s) := setMeter_frame _ _ _

theorem refreshValve_frame (h : HoseIx) (s : State) : sameOutside [.valves, .meters] s (refreshValve h s) :=
  .ite ((setValve_frame _ _ _).then (restartQuiet_frame _ _) rfl rfl) ((setValve_frame _ _ _).mono rfl)

theorem refreshValves_frame (s : State) : sameOutside [.valves, .meters] s (refreshValves s) :=
  .foldl (fun h s => refreshValve_frame h s) _ _

theorem startPump_frame (p : PumpIx) (s : State) : sameOutside [.pumps] s (startPump p s) := setPump_frame _ _ _

theorem coolPump_frame (p : PumpIx) (s : State) : sameOutside [.pumps] s (coolPump p s) := setPump_frame _ _ _

theorem pumpRise_frame (p : PumpIx) (s : State) : sameOutside [.pumps] s (pumpRise p s) :=
  .ite (startPump_frame _ _) (.refl _ _)

theorem pumpFall_frame (p : PumpIx) (s : State) : sameOutside [.pumps] s (pumpFall p s) :=
  .ite (coolPump_frame _ _) (.refl _ _)

theorem tripPump_frame (p : PumpIx) (s : State) : sameOutside [.pumps] s (tripPump p s) := by
  unfold tripPump; split <;> first | exact coolPump_frame _ _ | exact .refl _ _

theorem resumePump_frame (p : PumpIx) (s : State) : sameOutside [.pumps] s (resumePump p s) :=
  .ite (startPump_frame _ _) (.refl _ _)

theorem pumpFollows_frame (h : HoseIx) (n : Nat) (s : State) : sameOutside [.pumps] s (pumpFollows h n s) := by
  unfold pumpFollows
  split
  · exact .refl _ _
  · exact .ite (pumpRise_frame _ _) (.ite (pumpFall_frame _ _) (.refl _ _))

theorem commandStage_frame (h : HoseIx) (st : HoseState) (s : State) :
    sameOutside [.valves, .meters] s (commandStage h st s) :=
  (setValve_frame _ _ _).then (refreshValve_frame _ _) rfl rfl

theorem moveHose_frame (h : HoseIx) (st : HoseState) (s : State) : sameOutside moving s (moveHose h st s) :=
  ((setHose_frame s h _).then (commandStage_frame _ _ _) (rs := moving) rfl rfl).then (pumpFollows_frame _ _ _)
    rfl rfl

/-! ## Accounts, books, journal -/

theorem putRecord_frame (r : MachineRecord) (s : State) : sameOutside [.accounts] s (putRecord r s) :=
  setAccounts_frame _ _

theorem removePermit_frame (m : Nat) (q : Product) (s : State) : sameOutside [.accounts] s (removePermit m q s) :=
  setAccounts_frame _ _

theorem accountClose_frame (c : Closed) (s : State) : sameOutside [.accounts] s (accountClose c s).2 := by
  unfold accountClose
  split
  · split
    · exact .refl _ _
    · exact putRecord_frame _ _
  · exact .refl _ _

theorem takeDrawAccount_frame (o : Nat) (d : DrawBody) (s : State) :
    sameOutside [.accounts] s (takeDrawAccount o d s) := by
  unfold takeDrawAccount
  split
  · exact .ite (.refl _ _) (.ite (putRecord_frame _ _) (.refl _ _))
  · exact .refl _ _

theorem takeRosterSet_frame (f : Frame) (b : RosterSetBody) (s : State) :
    sameOutside (.accounts :: handing) s (takeRosterSet f b s) := by
  unfold takeRosterSet
  split
  · exact (putRecord_frame _ _).mono rfl
  · refine .ite ((putRecord_frame _ _).mono rfl) ?_
    have t : sameOutside [.accounts, .counts] s ((s.setAccounts { s.accounts with rosterFull := true }).setCounts
        { s.counts with rosterFull := countUp s.counts.rosterFull }) :=
      (setAccounts_frame _ _).then (setCounts_frame _ _) rfl rfl
    exact .ite (t.mono rfl) (t.then (refuse_frame _ _ _ _ _) rfl rfl)

theorem takeRosterRemove_frame (f : Frame) (id : Nat) (s : State) :
    sameOutside (.accounts :: handing) s (takeRosterRemove f id s) := by
  unfold takeRosterRemove
  split
  · exact (setAccounts_frame _ _).mono rfl
  · exact .ite (.refl _ _) ((refuse_frame _ _ _ _ _).mono rfl)

theorem takePermit_frame (f : Frame) (b : PermitBody) (s : State) :
    sameOutside (.accounts :: handing) s (takePermit f b s) :=
  .ite ((setAccounts_frame _ _).mono rfl) ((refuse_frame _ _ _ _ _).mono rfl)

theorem bookClose_frame (t q : Nat) (s : State) : sameOutside [.books] s (bookClose t q s) := by
  unfold bookClose; split <;> first | exact .refl _ _ | exact setBook_frame _ _ _

theorem bookDraw_frame (o : Nat) (d : DrawBody) (s : State) : sameOutside [.books] s (bookDraw o d s) := by
  unfold bookDraw
  split
  · exact .refl _ _
  · exact .ite (.refl _ _) (setBook_frame _ _ _)

theorem bookReceipt_frame (f : Frame) (r : ReceiptBody) (s : State) :
    sameOutside (.books :: handing) s (bookReceipt f r s) := by
  unfold bookReceipt
  split
  · exact .ite (.refl _ _) ((refuse_frame _ _ _ _ _).mono rfl)
  · exact .ite (.refl _ _) ((setBook_frame _ _ _).mono rfl)

theorem bookLevel_frame (t v : Nat) (s : State) : sameOutside [.books] s (bookLevel t v s) := by
  unfold bookLevel; split <;> first | exact .refl _ _ | exact setBook_frame _ _ _

theorem ageAllBooks_frame (s : State) : sameOutside [.books] s (ageAllBooks s) := by
  intro p hp; cases p <;> simp_all [State.sameAt, ageAllBooks]

theorem ageLostTanks_frame (ts : List Nat) (s : State) : sameOutside [.books] s (ageLostTanks ts s) := by
  intro p hp; cases p <;> simp_all [State.sameAt, ageLostTanks]

theorem journalClose_frame (c : Closed) (f : RecordFlags) (s : State) :
    sameOutside [.journal] s (journalClose c f s) := setRecords_frame _ _ rfl

theorem journalRelease_frame (s : State) : sameOutside [.journal] s (journalRelease s) :=
  setRecords_frame _ _ rfl

theorem readNext_frame (s : State) : sameOutside handing s (readNext s) := by
  unfold readNext
  split
  · exact .refl _ _
  · split <;> exact (setRead_frame _ _).then (reply_frame _ _ _ _ _ _) rfl rfl

theorem readSent_frame (s : State) : sameOutside handing s (readSent s) := by
  unfold readSent
  split
  · exact .refl _ _
  · exact .ite ((setRead_frame _ _).mono rfl) (readNext_frame _)

/-! ## Endings and closes (R43 to R50) -/

theorem enterEnding_frame (h : HoseIx) (r : EndReason) (s : State) : sameOutside moving s (enterEnding h r s) :=
  (setHose_frame _ _ _).then (moveHose_frame _ _ _) rfl rfl

theorem endRaw_frame (h : HoseIx) (r : EndReason) (s : State) : sameOutside moving s (endRaw h r s) := by
  unfold endRaw; split <;> first | exact enterEnding_frame _ _ _ | exact .refl _ _

theorem endAll_frame (hs : List HoseIx) (r : EndReason) (s : State) : sameOutside moving s (endAll hs r s) :=
  .foldl (fun h s => endRaw_frame h r s) _ _

theorem watchRaw_frame (t : Nat) (s : State) : sameOutside moving s (watchRaw t s) :=
  .ite (endAll_frame _ _ _) (.refl _ _)

/-- What handing a closed delivery on can touch. -/
abbrev handOffParts : List Part := [.accounts, .journal, .books] ++ handing

theorem handOff_frame (c : Closed) (s : State) : sameOutside handOffParts s (handOff c s) := by
  unfold handOff
  refine .ite ((journalRelease_frame _).mono rfl) ?_
  exact (((accountClose_frame c s).then (journalClose_frame _ _ _) (rs := handOffParts) rfl rfl).then
    (bookClose_frame _ _ _) (rs := handOffParts) rfl rfl).then (handOver_frame _ _) rfl rfl

theorem closeRaw_frame (h : HoseIx) (b : Bool) (f : Option HoseFault) (r : EndReason) (s : State) :
    sameOutside closing s (closeRaw h b f r s) := by
  rcases hl : (s.hoses.get h).live with _ | l
  · simp only [closeRaw, hl]
    exact .refl _ _
  · simp only [closeRaw, hl]
    have t {st x c} : sameOutside closing s (handOff c (moveHose h st (s.setHose h x))) :=
      ((setHose_frame _ _ _).then (moveHose_frame _ _ _) (rs := closing) rfl rfl).then (handOff_frame _ _) rfl rfl
    exact .ite t (t.then (watchRaw_frame _ _) rfl rfl)

theorem settleNew_frame (s0 : State) (n : Nat) (s : State) : sameOutside closing s (settleNew s0 n s) := by
  induction n generalizing s with
  | zero => exact .refl _ _
  | succ n ih =>
    unfold settleNew
    split
    · exact .refl _ _
    · exact (closeRaw_frame _ _ _ _ _).trans (ih _)

theorem settling_frame {ps : List Part} {f : State → State} (s : State) (h : sameOutside ps s (f s))
    (hc : (closing.all fun p => ps.contains p) = true) : sameOutside ps s (settling f s) :=
  h.trans ((settleNew_frame _ _ _).mono hc)

theorem endingRequest_frame (h : HoseIx) (r : EndReason) (s : State) :
    sameOutside closing s (endingRequest h r s) := settling_frame _ ((endRaw_frame _ _ _).mono rfl) rfl

theorem deadLevelWatch_frame (t : Nat) (s : State) : sameOutside closing s (deadLevelWatch t s) :=
  settling_frame _ ((watchRaw_frame _ _).mono rfl) rfl

theorem closeSettled_frame (h : HoseIx) (s : State) : sameOutside closing s (closeSettled h s) :=
  .ite (settling_frame _ (closeRaw_frame _ _ _ _ _) rfl) (.refl _ _)

/-! ## The zone (R114 to R124) -/

theorem tripHose_frame (h : HoseIx) (s : State) : sameOutside moving s (tripHose h s) := by
  unfold tripHose; split <;> first | exact moveHose_frame _ _ _ | exact endRaw_frame _ _ _

theorem enterTripped_frame (s : State) : sameOutside closing s (enterTripped s) := by
  unfold enterTripped
  have t : sameOutside closing s (PumpIx.all.foldl (fun s p => tripPump p s) (refreshValves s)) :=
    (refreshValves_frame s).then (.foldl (fun p s => tripPump_frame p s) _ _) rfl rfl
  exact t.trans (settling_frame _ (.mono (.foldl (fun h s => tripHose_frame h s) _ _) rfl) rfl)

theorem returnNormal_frame (s : State) : sameOutside [.valves, .meters, .pumps] s (returnNormal s) :=
  (refreshValves_frame s).then (.foldl (fun p s => resumePump_frame p s) _ _) rfl rfl

theorem zoneFollows_frame (s0 s : State) : sameOutside closing s (zoneFollows s0 s) :=
  .ite (enterTripped_frame _) (.ite ((returnNormal_frame _).mono rfl) (.refl _ _))

theorem announce_frame (s : State) : sameOutside (.tripUnit :: handing) s (announce s) :=
  .ite (.refl _ _) ((setTripUnit_frame _ _).then (handOver_frame _ _) rfl rfl)

/-- What a raised cause can touch. -/
abbrev raising : List Part := .tripUnit :: closing

theorem raise_frame (c : Cause) (s : State) : sameOutside raising s (raise c s) := by
  unfold raise
  refine .ite (.refl _ _) ?_
  have t : sameOutside raising s (if zoneWideCause c = true then announce (s.setTripUnit (s.tripUnit.latch c))
      else s.setTripUnit (s.tripUnit.latch c)) :=
    .ite ((setTripUnit_frame _ _).then (announce_frame _) rfl rfl) ((setTripUnit_frame _ _).mono rfl)
  exact t.then (zoneFollows_frame _ _) rfl rfl

theorem enterOrigin_frame (o : Origin) (s : State) : sameOutside [.tripUnit, .counts] s (enterOrigin o s) := by
  unfold enterOrigin
  refine .ite ((setTripUnit_frame _ _).mono rfl) (.ite ((setTripUnit_frame _ _).mono rfl) ?_)
  split
  · exact (setTripUnit_frame _ _).mono rfl
  · exact (countMalformed_frame _).mono rfl

theorem dropOrigins_frame (p : Origin → Bool) (s : State) : sameOutside [.tripUnit] s (dropOrigins p s) :=
  setTripUnit_frame _ _

theorem withZone_frame {f : State → State} (s : State) (h : sameOutside raising s (f s)) :
    sameOutside raising s (withZone f s) := h.then (zoneFollows_frame _ _) rfl rfl

theorem stuckOut_frame {f : State → State} (s : State) (h : sameOutside closing s (f s)) :
    sameOutside raising s (stuckOut f s) := (settling_frame _ h rfl).then (raise_frame _ _) rfl rfl

theorem valveStuck_frame (h : HoseIx) (s : State) : sameOutside raising s (valveStuck h s) := by
  unfold valveStuck
  split
  · exact stuckOut_frame _ ((enterEnding_frame _ _ _).then (closeRaw_frame _ _ _ _ _) rfl rfl)
  · exact stuckOut_frame _ (closeRaw_frame _ _ _ _ _)
  · exact .refl _ _
  · exact .refl _ _
  · exact .refl _ _
  all_goals exact stuckOut_frame _ ((moveHose_frame _ _ _).mono rfl)

theorem checkStuck_frame (h : HoseIx) (s : State) : sameOutside raising s (checkStuck h s) :=
  .ite ((setValve_frame _ _ _).then (valveStuck_frame _ _) rfl rfl) (.refl _ _)

theorem markMeter_frame (h : HoseIx) (s : State) : sameOutside [.hoses] s (markMeter h s) := setHose_frame _ _ _

theorem meterFault_frame (h : HoseIx) (s : State) : sameOutside closing s (meterFault h s) := by
  unfold meterFault
  split <;> first
    | exact (markMeter_frame _ _).then (endingRequest_frame _ _ _) rfl rfl
    | exact (markMeter_frame _ _).mono rfl
    | exact .refl _ _
    | exact (moveHose_frame _ _ _).mono rfl

theorem faultPump_frame (p : PumpIx) (s : State) : sameOutside closing s (faultPump p s) :=
  (setPump_frame s p _).then (settling_frame (ps := closing) _ ((endAll_frame _ _ _).mono rfl) rfl) rfl rfl

theorem exitPriming_frame (h : HoseIx) (s : State) : sameOutside closing s (exitPriming h s) := by
  unfold exitPriming
  dsimp only
  split
  · exact .ite (endingRequest_frame _ _ _) (.ite (endingRequest_frame _ _ _)
      (.ite ((moveHose_frame _ _ _).mono rfl) ((moveHose_frame _ _ _).mono rfl)))
  · exact .refl _ _

/-! ## Taking a frame (R157, R175 to R177) -/

theorem dropHead_frame (s : State) : sameOutside [.link] s (dropHead s) := setLine_frame _ _ rfl rfl

theorem markHead_frame (b : Block) (s : State) : sameOutside [.link] s (markHead b s) := by
  unfold markHead; split <;> first | exact .refl _ _ | exact setLine_frame _ _ rfl rfl

theorem takeHead_frame {ps : List Part} {b : Block} {ks : List FrameKind} {f : Frame → State → State}
    (hf : ∀ a s, sameOutside ps s (f a s)) (hp : (replying.all fun p => ps.contains p) = true)
    (s : State) : sameOutside ps s (takeHead b ks f s) := by
  have hl : ([Part.link].all fun p => ps.contains p) = true := by simp_all [replying, handing]
  have hc : ([Part.counts].all fun p => ps.contains p) = true := by simp_all [replying, handing]
  have hh : (handing.all fun p => ps.contains p) = true := by simp_all [replying, handing]
  unfold takeHead
  split
  · exact .refl _ _
  · split
    · exact .refl _ _
    · refine .ite (.refl _ _) ?_
      split
      · exact (dropHead_frame s).then (countMalformed_frame _) hl hc
      · exact (dropHead_frame s).then (refuse_frame _ _ _ _ _) hl hh
      · refine .ite ((dropHead_frame s).mono hl) (.ite (.refl _ _) ?_)
        exact sameOutside.trans (.ite ((dropHead_frame s).mono hl) ((markHead_frame b s).mono hl)) (hf _ _)

theorem takeUnowned_frame (s : State) : sameOutside replying s (takeUnowned s) := by
  have m : sameOutside replying s (countMalformed (dropHead s)) :=
    (dropHead_frame s).then (countMalformed_frame _) rfl rfl
  unfold takeUnowned
  split
  · exact .refl _ _
  · split
    · split
      · exact (dropHead_frame s).then (refuse_frame _ _ _ _ _) rfl rfl
      · exact m
    · exact m
    · exact .refl _ _

/-! ## Power -/

theorem whenPowered_frame {ps : List Part} {f : State → State} (s : State) (h : sameOutside ps s (f s)) :
    sameOutside ps s (whenPowered f s) := .ite h (.refl _ _)

end Sys2Proof.Machine
end

