-- ==== Sys2Proof/Laws/Drive.lean ====
section
/-! SUPPORT. What the drive does (R11 to R24): the values a move of a hose gives its hose, valve, meter and pump. -/

namespace Sys2Proof.Machine

/-! ## What is read only from parts that a frame keeps -/

theorem tripped_congr {s t : State} (h : t.tripUnit = s.tripUnit) : t.tripped = s.tripped := by
  simp only [State.tripped, h]

theorem inConfigFault_congr {s t : State} (h : t.link.join = s.link.join) : t.inConfigFault = s.inConfigFault := by
  simp only [State.inConfigFault, h]

theorem pumpOf_congr {s t : State} (h : t.unit = s.unit) (n : Nat) : t.pumpOf n = s.pumpOf n := by
  simp only [State.pumpOf, State.cfg, h]

theorem runCount_congr {s t : State} (hu : t.unit = s.unit) (hh : t.hoses = s.hoses) (n : Nat) :
    t.runCount n = s.runCount n := by
  simp only [State.runCount, State.hoseCfg, State.cfg, hu, hh]

theorem bookOf_congr {s t : State} (h : t.unit = s.unit) (n : Nat) : t.bookOf n = s.bookOf n := by
  simp only [State.bookOf, State.cfg, h]

theorem dutyFor_congr {s t : State} (hu : t.unit = s.unit) (ht : t.tripUnit = s.tripUnit)
    (hj : t.link.join = s.link.join) (h : HoseIx) (hc : (t.valves.get h).commanded = (s.valves.get h).commanded) :
    t.dutyFor h = s.dutyFor h := by
  simp only [State.dutyFor, tripped_congr ht, inConfigFault_congr hj, State.hoseCfg, State.cfg, hu, hc]

/-! ## Valves -/

/-- The applied duty after an application is the duty applied (R12). -/
@[simp] theorem Valve.apply_duty (v : Valve) (d : Nat) : (v.apply d).duty = d := by
  unfold Valve.apply
  split
  · rename_i h; exact h.symm
  · split
    · rename_i h; exact h.symm
    · split <;> rfl

@[simp] theorem Valve.apply_commanded (v : Valve) (d : Nat) : (v.apply d).commanded = v.commanded := by
  unfold Valve.apply; split <;> [rfl; split <;> [rfl; split <;> rfl]]

@[simp] theorem Valve.apply_flowPast (v : Valve) (d : Nat) : (v.apply d).flowPast = v.flowPast := by
  unfold Valve.apply; split <;> [rfl; split <;> [rfl; split <;> rfl]]

@[simp] theorem Valve.apply_closed (v : Valve) (d : Nat) : (v.apply d).closed = v.closed := by
  unfold Valve.apply; split <;> [rfl; split <;> [rfl; split <;> rfl]]

/-- At duty 0 the output is off and no period runs, when it was so before at duty 0 (R12). -/
theorem Valve.apply_off (v : Valve) (d : Nat) (hv : v.duty = 0 → v.periodDuty = 0 ∧ v.output = false)
    (hd : (v.apply d).duty = 0) : (v.apply d).periodDuty = 0 ∧ (v.apply d).output = false := by
  have h0 : d = 0 := by simpa using hd
  subst h0
  unfold Valve.apply
  split
  · rename_i h; exact hv h.symm
  · simp

/-- The valve drive refreshes one valve, and the quiet timer of its meter where the duty passes to 0. -/
theorem refreshValve_valves (h : HoseIx) (s : State) :
    (refreshValve h s).valves = s.valves.set h ((s.valves.get h).apply (s.dutyFor h)) := by
  unfold refreshValve; dsimp only; split <;> rfl

theorem refreshValve_meters (h : HoseIx) (s : State) :
    (refreshValve h s).meters = s.meters ∨
      (refreshValve h s).meters = s.meters.set h { s.meters.get h with quiet := 0 } := by
  unfold refreshValve; dsimp only; split
  · exact .inr rfl
  · exact .inl rfl

/-- A refresh changes no meter but in its quiet time (R5). -/
theorem refreshValve_meter (h : HoseIx) (s : State) (g : HoseIx) :
    (refreshValve h s).meters.get g = s.meters.get g ∨
      (refreshValve h s).meters.get g = { s.meters.get g with quiet := 0 } := by
  rcases refreshValve_meters h s with e | e <;> rw [e]
  · exact .inl rfl
  · by_cases hg : g = h
    · subst hg; right; simp
    · left; simp [hg]

theorem setValve_dutyFor (s : State) (h g : HoseIx) (v : Valve) :
    (s.setValve h v).dutyFor g =
      if s.tripped || s.inConfigFault then 0
      else stageDuty (s.hoseCfg g) (if g = h then v.commanded else (s.valves.get g).commanded) := by
  have : ((s.setValve h v).valves.get g).commanded = if g = h then v.commanded else (s.valves.get g).commanded := by
    simp only [State.setValve_valves, PerHose.get_set]; split <;> rfl
  simp only [State.dutyFor, this]
  rfl

theorem setHose_dutyFor (s : State) (h g : HoseIx) (x : Hose) : (s.setHose h x).dutyFor g = s.dutyFor g := rfl

/-! ## Moving a hose -/

theorem commandStage_hoses (h : HoseIx) (st : HoseState) (s : State) : (commandStage h st s).hoses = s.hoses :=
  (commandStage_frame h st s) .hoses (by decide)

theorem pumpFollows_hoses (h : HoseIx) (n : Nat) (s : State) : (pumpFollows h n s).hoses = s.hoses :=
  (pumpFollows_frame h n s) .hoses (by decide)

/-- A move puts its hose in the state, with what `Hose.enter` says, and leaves the other hoses. -/
theorem moveHose_hoses (h : HoseIx) (st : HoseState) (s : State) :
    (moveHose h st s).hoses = s.hoses.set h ((s.hoses.get h).enter st) := by
  simp only [moveHose, pumpFollows_hoses, commandStage_hoses, State.setHose_hoses]

@[simp] theorem moveHose_hose (h g : HoseIx) (st : HoseState) (s : State) :
    (moveHose h st s).hoses.get g = if g = h then (s.hoses.get h).enter st else s.hoses.get g := by
  rw [moveHose_hoses, PerHose.get_set]

/-- A move commands the stage of the state and applies what the zone and the join state allow (R11, R13). -/
theorem moveHose_valves (h : HoseIx) (st : HoseState) (s : State) :
    (moveHose h st s).valves = s.valves.set h
      (({ s.valves.get h with
          commanded := stageOf st
          flowPast := if st = .ending then some 0 else none } : Valve).apply
        (if s.tripped || s.inConfigFault then 0 else stageDuty (s.hoseCfg h) (stageOf st))) := by
  have e : (moveHose h st s).valves = (commandStage h st (s.setHose h ((s.hoses.get h).enter st))).valves :=
    (pumpFollows_frame _ _ _) .valves (by decide)
  rw [e]
  unfold commandStage
  rw [refreshValve_valves, setValve_dutyFor]
  simp only [if_true, State.setValve_valves, State.setHose_valves, PerHose.get_set]
  apply PerHose.ext_get
  intro g
  simp only [PerHose.get_set]
  split <;> rfl

/-- A move changes no meter but in its quiet time (R5). -/
theorem moveHose_meter (h : HoseIx) (st : HoseState) (s : State) (g : HoseIx) :
    (moveHose h st s).meters.get g = s.meters.get g ∨
      (moveHose h st s).meters.get g = { s.meters.get g with quiet := 0 } := by
  have e : (moveHose h st s).meters = (commandStage h st (s.setHose h ((s.hoses.get h).enter st))).meters :=
    (pumpFollows_frame _ _ _) .meters (by decide)
  rw [e]
  exact refreshValve_meter h _ g

theorem moveHose_net (h : HoseIx) (st : HoseState) (s : State) (g : HoseIx) :
    ((moveHose h st s).meters.get g).net = (s.meters.get g).net := by
  rcases moveHose_meter h st s g with e | e <;> rw [e]

/-- A move leaves the meters of the other hoses. -/
theorem moveHose_meter_ne (h : HoseIx) (st : HoseState) (s : State) {g : HoseIx} (hg : g ≠ h) :
    (moveHose h st s).meters.get g = s.meters.get g := by
  have e : (moveHose h st s).meters = (commandStage h st (s.setHose h ((s.hoses.get h).enter st))).meters :=
    (pumpFollows_frame _ _ _) .meters (by decide)
  rw [e]
  unfold commandStage
  rcases refreshValve_meters h
    ((s.setHose h ((s.hoses.get h).enter st)).setValve h
      { (s.setHose h ((s.hoses.get h).enter st)).valves.get h with
        commanded := stageOf st, flowPast := if st = .ending then some 0 else none }) with e | e <;> rw [e] <;>
    simp [hg]

/-- A move to a state whose stage is SHUT restarts the quiet timer when its valve was open (R5, R12, R44). -/
theorem moveHose_quiet (h : HoseIx) (st : HoseState) (s : State) (hs : stageOf st = .shut)
    (hd : (s.valves.get h).duty ≠ 0) : ((moveHose h st s).meters.get h).quiet = 0 := by
  have e : (moveHose h st s).meters = (commandStage h st (s.setHose h ((s.hoses.get h).enter st))).meters :=
    (pumpFollows_frame _ _ _) .meters (by decide)
  rw [e]
  unfold commandStage refreshValve
  rw [setValve_dutyFor]
  simp [hs, stageDuty, hd, restartQuiet]

/-! ## Pumps -/

/-- What the pump of a hose's tank does at a move (R18 to R20), read at any pump. -/
theorem pumpFollows_pump (h : HoseIx) (n : Nat) (s : State) (p : PumpIx) :
    (pumpFollows h n s).pumps.get p = s.pumps.get p
      ∨ (s.pumpOf (s.hoseCfg h).tank = some p ∧ n = 0 ∧ 0 < s.runCount (s.hoseCfg h).tank ∧ s.tripped = false
        ∧ (pumpFollows h n s).pumps.get p = { s.pumps.get p with state := .starting, timer := some 0 })
      ∨ (s.pumpOf (s.hoseCfg h).tank = some p ∧ s.runCount (s.hoseCfg h).tank = 0
        ∧ (pumpFollows h n s).pumps.get p = { s.pumps.get p with state := .cooldown, timer := some 0 }) := by
  unfold pumpFollows
  split
  · exact .inl rfl
  · rename_i q hq
    split
    · rename_i hr
      unfold pumpRise
      split
      · rename_i ho
        by_cases e : p = q
        · subst e
          refine .inr (.inl ⟨hq, hr.1, hr.2, by simpa using ho.2, ?_⟩)
          simp [startPump]
        · left; simp [startPump, e]
      · exact .inl rfl
    · split
      · rename_i hf
        unfold pumpFall
        split
        · by_cases e : p = q
          · subst e
            refine .inr (.inr ⟨hq, hf.2, ?_⟩)
            simp [coolPump]
          · left; simp [coolPump, e]
        · exact .inl rfl
      · exact .inl rfl

/-- At a fall of the run count to 0 the contactor of the tank's pump is off (R20). -/
theorem pumpFollows_off (h : HoseIx) (n : Nat) (s : State) (p : PumpIx) (hn : 0 < n)
    (hp : s.pumpOf (s.hoseCfg h).tank = some p) (h0 : s.runCount (s.hoseCfg h).tank = 0) :
    ((pumpFollows h n s).pumps.get p).state.contactor = false := by
  unfold pumpFollows
  rw [hp]
  simp only [h0, lt_self_iff_false, and_false, if_false, hn, and_self, if_true]
  unfold pumpFall
  split
  · simp [coolPump, PumpState.contactor]
  · rename_i hc; simpa using hc

/-- The run count of a tank as hoses bound to it in the drawing states (R18). -/
theorem runCount_pos_iff (s : State) (n : Nat) :
    0 < s.runCount n ↔ ∃ h, (s.hoseCfg h).tank = n ∧ runState (s.hoses.get h).state = true := by
  simp only [State.runCount, List.length_pos_iff_exists_mem, List.mem_filter, HoseIx.mem_all, true_and,
    Bool.and_eq_true, beq_iff_eq]

/-- A move of a hose leaves the run count of every tank it is not bound to (R18). -/
theorem runCount_move (h : HoseIx) (st : HoseState) (s : State) (n : Nat) (hn : (s.hoseCfg h).tank ≠ n) :
    (moveHose h st s).runCount n = s.runCount n := by
  have hu : (moveHose h st s).unit = s.unit := (moveHose_frame h st s) .unit (by decide)
  unfold State.runCount
  congr 1
  apply List.filter_congr
  intro g _
  by_cases e : g = h
  · subst e
    have a : ((moveHose g st s).hoseCfg g).tank ≠ n := by
      simp only [State.hoseCfg, State.cfg, hu]; exact hn
    rw [beq_eq_false_iff_ne.mpr a, beq_eq_false_iff_ne.mpr hn]
    simp
  · have a : (moveHose h st s).hoseCfg g = s.hoseCfg g := by simp only [State.hoseCfg, State.cfg, hu]
    rw [a, moveHose_hose, if_neg e]

/-- What a move of a hose does to a pump (R18 to R20). -/
theorem moveHose_pump (h : HoseIx) (st : HoseState) (s : State) (p : PumpIx) :
    (moveHose h st s).pumps.get p = s.pumps.get p
      ∨ (s.pumpOf (s.hoseCfg h).tank = some p ∧ s.runCount (s.hoseCfg h).tank = 0
        ∧ 0 < (moveHose h st s).runCount (s.hoseCfg h).tank ∧ s.tripped = false
        ∧ (moveHose h st s).pumps.get p = { s.pumps.get p with state := .starting, timer := some 0 })
      ∨ (s.pumpOf (s.hoseCfg h).tank = some p ∧ (moveHose h st s).runCount (s.hoseCfg h).tank = 0
        ∧ (moveHose h st s).pumps.get p = { s.pumps.get p with state := .cooldown, timer := some 0 }) := by
  let u := commandStage h st (s.setHose h ((s.hoses.get h).enter st))
  have fu : sameOutside [.hoses, .valves, .meters] s u :=
    (setHose_frame s h _).then (commandStage_frame _ _ _) rfl rfl
  have hunit : u.unit = s.unit := fu .unit (by decide)
  have hcfg : u.hoseCfg h = s.hoseCfg h := by simp only [State.hoseCfg, State.cfg, hunit]
  have hrc : (moveHose h st s).runCount (s.hoseCfg h).tank = u.runCount (s.hoseCfg h).tank :=
    runCount_congr ((pumpFollows_frame _ _ _) .unit (by decide)) ((pumpFollows_frame _ _ _) .hoses (by decide)) _
  have hpump : u.pumps = s.pumps := fu .pumps (by decide)
  have key := pumpFollows_pump h (s.runCount (s.hoseCfg h).tank) u p
  rw [hcfg, pumpOf_congr hunit, tripped_congr (fu .tripUnit (by decide)), hpump, ← hrc] at key
  exact key

/-- At a move that takes the run count of a tank to 0, its pump's contactor is off (R20). -/
theorem moveHose_pump_off (h : HoseIx) (st : HoseState) (s : State) (p : PumpIx)
    (hn : 0 < s.runCount (s.hoseCfg h).tank) (hp : s.pumpOf (s.hoseCfg h).tank = some p)
    (h0 : (moveHose h st s).runCount (s.hoseCfg h).tank = 0) :
    ((moveHose h st s).pumps.get p).state.contactor = false := by
  let u := commandStage h st (s.setHose h ((s.hoses.get h).enter st))
  have fu : sameOutside [.hoses, .valves, .meters] s u :=
    (setHose_frame s h _).then (commandStage_frame _ _ _) rfl rfl
  have hunit : u.unit = s.unit := fu .unit (by decide)
  have hcfg : u.hoseCfg h = s.hoseCfg h := by simp only [State.hoseCfg, State.cfg, hunit]
  have hrc : (moveHose h st s).runCount (s.hoseCfg h).tank = u.runCount (s.hoseCfg h).tank :=
    runCount_congr ((pumpFollows_frame _ _ _) .unit (by decide)) ((pumpFollows_frame _ _ _) .hoses (by decide)) _
  exact pumpFollows_off h _ u p hn (by rw [hcfg, pumpOf_congr hunit]; exact hp) (by rw [hcfg, ← hrc]; exact h0)

end Sys2Proof.Machine
end

