-- ==== Sys2Proof/Laws/Taking.lean ====
section
/-! SUPPORT. What a command takes: the frame at the head of the receive buffer (R157, R176), the powered station, and
a change after which no delivery closes at once (R45). -/

namespace Sys2Proof.Machine

/-! ## Frames of the receive buffer -/

/-- A sound frame offered to a block is taken: the block's effect on the state without what was taken. -/
theorem takeHead_offers {s : State} {k : FrameKind} {b : Block} {e : RxEntry} {rest : List RxEntry}
    (ho : s.offers k b e rest) {ks : List FrameKind} (hk : ks.contains k = true) (f : Frame → State → State) :
    takeHead b ks f s = f e.frame (s.took k b e rest) := by
  obtain ⟨-, hb, hkd, hv, hm, ht⟩ := ho
  have hne : (ownersOf k e.frame.src s.inConfigFault).isEmpty = false := by
    cases h : ownersOf k e.frame.src s.inConfigFault
    · rw [h] at hm; cases hm
    · rfl
  simp only [takeHead, hb, hkd, hk, Bool.not_true, hv, hne, List.contains_iff_mem.mpr hm,
    Bool.false_eq_true, if_false, Bool.false_or]
  rw [if_neg (by simpa using ht)]
  congr 1
  simp only [State.took, bufferAfter, dropHead, markHead, hb]
  split <;> rfl

/-- A powered station takes the command. -/
theorem whenPowered_on {s : State} (hp : s.unit.powered = true) (f : State → State) : whenPowered f s = f s := by
  simp [whenPowered, hp]

/-- What taking a frame leaves as it was. -/
theorem took_frame (s : State) (k : FrameKind) (b : Block) (e : RxEntry) (rest : List RxEntry) :
    sameOutside [.link] s (s.took k b e rest) := by
  intro p hp; cases p <;> simp_all [State.sameAt, State.took]

section
variable (s : State) (k : FrameKind) (b : Block) (e : RxEntry) (rest : List RxEntry)
@[simp] theorem took_unit : (s.took k b e rest).unit = s.unit := rfl
@[simp] theorem took_cfg : (s.took k b e rest).cfg = s.cfg := rfl
@[simp] theorem took_meters : (s.took k b e rest).meters = s.meters := rfl
@[simp] theorem took_valves : (s.took k b e rest).valves = s.valves := rfl
@[simp] theorem took_pumps : (s.took k b e rest).pumps = s.pumps := rfl
@[simp] theorem took_hoses : (s.took k b e rest).hoses = s.hoses := rfl
@[simp] theorem took_accounts : (s.took k b e rest).accounts = s.accounts := rfl
@[simp] theorem took_books : (s.took k b e rest).books = s.books := rfl
@[simp] theorem took_probes : (s.took k b e rest).probes = s.probes := rfl
@[simp] theorem took_gauging : (s.took k b e rest).gauging = s.gauging := rfl
@[simp] theorem took_tripUnit : (s.took k b e rest).tripUnit = s.tripUnit := rfl
@[simp] theorem took_journal : (s.took k b e rest).journal = s.journal := rfl
@[simp] theorem took_counts : (s.took k b e rest).counts = s.counts := rfl
@[simp] theorem took_peers : (s.took k b e rest).peers = s.peers := rfl
@[simp] theorem took_join : (s.took k b e rest).link.join = s.link.join := rfl
@[simp] theorem took_ordinary : (s.took k b e rest).link.ordinary = s.link.ordinary := rfl
@[simp] theorem took_reserved : (s.took k b e rest).link.reserved = s.link.reserved := rfl
end

/-! ## Closes that follow at once (R45) -/

/-- A change that brings no hose to ENDING with a quiet meter is followed by no close. -/
theorem settleNew_none {s0 s : State}
    (h : ∀ g, (s.hoses.get g).state = .ending → (s0.hoses.get g).state ≠ .ending → s.quietForSettle g = false)
    (n : Nat) : settleNew s0 n s = s := by
  have hn : nextSettled s0 s = none := by
    refine List.find?_eq_none.mpr fun g _ => ?_
    simp only [Bool.and_eq_true, beq_iff_eq, bne_iff_ne, not_and, Bool.not_eq_true, and_imp]
    exact fun h1 h2 _ => h g h1 h2
  cases n with
  | zero => rfl
  | succ n => simp only [settleNew, hn]

/-- A change that leaves every hose state is followed by no close. -/
theorem settling_same {f : State → State} {s : State} (h : ∀ g, ((f s).hoses.get g).state = (s.hoses.get g).state) :
    settling f s = f s :=
  settleNew_none (fun g h1 h2 => absurd ((h g).symm.trans h1) h2) 6

/-- Without a live delivery on the tank the dead-level watch changes nothing. -/
theorem deadLevelWatch_none {s : State} {tank : Nat} (h : ∀ g, s.liveTank g ≠ some tank) :
    deadLevelWatch tank s = s := by
  have hl : s.liveOn tank = [] := by
    refine List.filter_eq_nil_iff.mpr fun g _ => ?_
    simpa using h g
  have hw : watchRaw tank s = s := by
    simp only [watchRaw, hl, endAll, List.foldl_nil, ite_self]
  rw [deadLevelWatch, settling_same (f := watchRaw tank) (by simp [hw]), hw]

end Sys2Proof.Machine
end

