-- ==== Sys2Proof/Laws/Endings.lean ====
section
/-! SUPPORT. What an ending request does (R43, R44): the delivery enters ENDING with its reason, and with a meter that is
not yet quiet nothing closes at once (R45); and when the dead-level watch acts (R90, R92). -/

namespace Sys2Proof.Machine

theorem Live.ending_eq (l : Live) (r : EndReason) (n : Int) :
    l.ending r n = { l with endReason := some r, closeCount := some (l.closeCount.getD n) } := by
  unfold Live.ending; cases l.closeCount <;> rfl

/-- A hose in a drawing state gives its tank a run count (R18). -/
theorem runCount_pos {s : State} {h : HoseIx} (hr : runState (s.hoses.get h).state = true) :
    0 < s.runCount (s.hoseCfg h).tank := (runCount_pos_iff s _).mpr ⟨h, rfl, hr⟩

/-- The entry to ENDING (R44). -/
theorem enterEnding_entersEnding {s : State} {h : HoseIx} {l : Live} (r : EndReason)
    (hr : runState (s.hoses.get h).state = true) (hl : (s.hoses.get h).live = some l) :
    EntersEnding h l r s (enterEnding h r s) := by
  unfold enterEnding
  dsimp only
  rw [hl, Option.map_some, Live.ending_eq]
  generalize hx : ({ s.hoses.get h with live := some { l with
    endReason := some r, closeCount := some (l.closeCount.getD (s.meters.get h).net) } } : Hose) = x
  have hst : x.state = (s.hoses.get h).state := by rw [← hx]
  have hlive : x.live = some { l with
      endReason := some r, closeCount := some (l.closeCount.getD (s.meters.get h).net) } := by rw [← hx]
  refine ⟨by simp [Hose.enter], by simpa [Hose.enter] using hlive, ?_, ?_, ?_, fun p hp h0 => ?_, fun g hg => ?_, ?_⟩
  · simp [moveHose_valves, Valve.apply_commanded, stageOf]
  · simp [moveHose_valves, stageOf, stageDuty]
  · simp [moveHose_valves, Valve.apply_flowPast]
  · refine moveHose_pump_off h .ending (s.setHose h x) p ?_ hp h0
    refine runCount_pos (s := s.setHose h x) (h := h) ?_
    simpa [hst] using hr
  · simp [hg]
  · exact (setHose_frame s h x).then (moveHose_frame h .ending _) rfl rfl

/-- A meter that is not quiet stays so at the entry to ENDING (R5). -/
theorem enterEnding_settlesLater {s : State} {h : HoseIx} (r : EndReason) (hs : s.settlesLater h) :
    (enterEnding h r s).quietForSettle h = false := by
  have hu : (enterEnding h r s).unit = s.unit := enterEnding_frame h r s .unit (by decide)
  simp only [State.quietForSettle, State.cfg, hu, decide_eq_false_iff_not, Nat.not_le, secondsMs]
  have h0 : 0 < s.unit.settings.endSettle * 1000 := Nat.mul_pos hs.1 (by decide)
  rcases hs.2 with hd | hq
  · unfold enterEnding
    rw [moveHose_quiet h .ending _ rfl (by simpa using hd)]
    exact h0
  · have hq' : (s.meters.get h).quiet < s.unit.settings.endSettle * 1000 := Nat.lt_of_not_le (of_decide_eq_false hq)
    unfold enterEnding
    rcases moveHose_meter h .ending _ h with e | e <;> rw [e]
    · exact hq'
    · exact h0

/-- An ending request to a delivery that is drawing is its entry to ENDING (R43). -/
theorem endRaw_run {s : State} {h : HoseIx} (r : EndReason) (hr : runState (s.hoses.get h).state = true) :
    endRaw h r s = enterEnding h r s := by
  unfold endRaw; cases hs : (s.hoses.get h).state <;> rw [hs] at hr <;> first | rfl | cases hr

/-- An ending request to any other hose does nothing (R43). -/
theorem endRaw_rest {s : State} {h : HoseIx} (r : EndReason) (hr : runState (s.hoses.get h).state = false) :
    endRaw h r s = s := by
  unfold endRaw; cases hs : (s.hoses.get h).state <;> rw [hs] at hr <;> first | rfl | cases hr

/-- Where a change ends one delivery, whose meter is not quiet, no close follows at once (R45). -/
theorem settling_entersEnding {f : State → State} {s s1 : State} {h : HoseIx} {l : Live} {r : EndReason}
    (he : EntersEnding h l r s1 (f s)) (hh : s1.hoses = s.hoses) (hq : (f s).quietForSettle h = false) :
    settling f s = f s := by
  refine settleNew_none (fun g h1 h2 => ?_) 6
  by_cases e : g = h
  · subst e; exact hq
  · rw [he.2.2.2.2.2.2.1 g e, hh] at h1; exact absurd h1 h2

/-- An ending request to a delivery whose meter is not quiet (R43, R44). -/
theorem endingRequest_entersEnding {s : State} {h : HoseIx} {l : Live} (r : EndReason)
    (hr : runState (s.hoses.get h).state = true) (hl : (s.hoses.get h).live = some l) (hs : s.settlesLater h) :
    EntersEnding h l r s (endingRequest h r s) := by
  have e : endRaw h r s = enterEnding h r s := endRaw_run r hr
  have k : EntersEnding h l r s (endRaw h r s) := by rw [e]; exact enterEnding_entersEnding r hr hl
  unfold endingRequest
  rw [settling_entersEnding k rfl (by rw [e]; exact enterEnding_settlesLater r hs)]
  exact k

/-- A hose in a drawing state is one with a live delivery (R18, R27). -/
theorem liveState_run {st : HoseState} (h : runState st = true) : liveState st = true := by cases st <;> first | rfl | cases h

/-- The one live delivery of a tank. -/
theorem liveTank_one {s : State} {h : HoseIx} {l : Live} (hs : liveState (s.hoses.get h).state = true)
    (hl : (s.hoses.get h).live = some l) (ho : ∀ g, g ≠ h → s.liveTank g ≠ some l.tank) :
    (HoseIx.all.filter fun g => s.liveTank g == some l.tank) = [h] := by
  have ht : ∀ g, (s.liveTank g == some l.tank) = decide (g = h) := by
    intro g
    by_cases e : g = h
    · subst e; simp [State.liveTank, hs, hl]
    · simpa [e] using ho g e
  simp only [ht]
  cases h <;> decide

/-- The dead-level watch with the stock gone, on the one live delivery of a tank (R92). -/
theorem deadLevelWatch_entersEnding {s : State} {h : HoseIx} {l : Live} (hr : runState (s.hoses.get h).state = true)
    (hl : (s.hoses.get h).live = some l) (hs : s.settlesLater h) (hg : s.stockGone l.tank = true)
    (ho : ∀ g, g ≠ h → s.liveTank g ≠ some l.tank) : EntersEnding h l .stock s (deadLevelWatch l.tank s) := by
  have hmem : s.liveOn l.tank = [h] := liveTank_one (liveState_run hr) hl ho
  have hw : watchRaw l.tank s = endRaw h .stock s := by simp [watchRaw, hg, hmem, endAll]
  have e : endRaw h .stock s = enterEnding h .stock s := endRaw_run _ hr
  have k : EntersEnding h l .stock s (watchRaw l.tank s) := by rw [hw, e]; exact enterEnding_entersEnding _ hr hl
  unfold deadLevelWatch
  rw [settling_entersEnding k rfl (by rw [hw, e]; exact enterEnding_settlesLater _ hs)]
  exact k

/-- The dead-level watch with the stock not gone does nothing (R92). -/
theorem deadLevelWatch_stock {s : State} {tank : Nat} (h : s.stockGone tank = false) : deadLevelWatch tank s = s := by
  have hw : watchRaw tank s = s := by simp [watchRaw, h]
  rw [deadLevelWatch, settling_same (f := watchRaw tank) (by simp [hw]), hw]

/-- The stock of a tank with one live delivery: the book's value without what has flowed (R90). -/
theorem stockGone_one {s : State} {h : HoseIx} {l : Live} {k : BookIx} {v : Nat}
    (hlive : liveState (s.hoses.get h).state = true) (hl : (s.hoses.get h).live = some l)
    (ho : ∀ g, g ≠ h → s.liveTank g ≠ some l.tank) (hk : s.bookOf l.tank = some k)
    (hc : (s.books.get k).state = .current) (hv : (s.books.get k).value = some v) :
    s.stockGone l.tank
      = decide (v - volume (s.hoseCfg h).meterK (s.meters.get h).net ≤ (s.cfg.books.get k).dead) := by
  have ht : (s.cfg.books.get k).tank = l.tank := by
    have := List.find?_some hk
    simp only [Bool.and_eq_true, beq_iff_eq] at this
    exact this.1
  have hsum : s.liveSum l.tank = volume (s.hoseCfg h).meterK (s.meters.get h).net := by
    simp [State.liveSum, liveTank_one hlive hl ho, State.liveVolume, hlive]
  simp [State.stockGone, hk, hc, State.available, hv, ht, hsum]

/-- The tank of a live delivery is read from its hose alone. -/
theorem liveTank_congr {s t : State} {g : HoseIx}
    (hs : liveState (t.hoses.get g).state = liveState (s.hoses.get g).state)
    (hl : (t.hoses.get g).live.map (fun l => l.tank) = (s.hoses.get g).live.map fun l => l.tank) :
    t.liveTank g = s.liveTank g := by
  simp only [State.liveTank, hs, hl]

/-- The dead-level condition is read from books, live deliveries and net counts (R90, R92). -/
theorem stockGone_congr {s t : State} (hu : t.unit = s.unit) (hb : t.books = s.books)
    (hs : ∀ g, liveState (t.hoses.get g).state = liveState (s.hoses.get g).state)
    (hl : ∀ g, (t.hoses.get g).live.map (fun l => l.tank) = (s.hoses.get g).live.map fun l => l.tank)
    (hn : ∀ g, (t.meters.get g).net = (s.meters.get g).net) (n : Nat) : t.stockGone n = s.stockGone n := by
  have h1 : ∀ g, t.liveTank g = s.liveTank g := fun g => liveTank_congr (hs g) (hl g)
  have h2 : ∀ g, t.liveVolume g = s.liveVolume g := fun g => by
    simp only [State.liveVolume, hs, hn, State.hoseCfg, State.cfg, hu]
  simp only [State.stockGone, State.available, State.liveSum, h1, h2, State.bookOf, State.cfg, hu, hb]

/-- The dead-level watch on a tank whose one live delivery is in ENDING does nothing (R43, R92). -/
theorem deadLevelWatch_ending {s : State} {h : HoseIx} {l : Live} (hs : (s.hoses.get h).state = .ending)
    (hl : (s.hoses.get h).live = some l) (ho : ∀ g, g ≠ h → s.liveTank g ≠ some l.tank) :
    deadLevelWatch l.tank s = s := by
  have hm : s.liveOn l.tank = [h] := liveTank_one (by rw [hs]; rfl) hl ho
  have hw : watchRaw l.tank s = s := by simp [watchRaw, hm, endAll, endRaw, hs]
  rw [deadLevelWatch, settling_same (f := watchRaw l.tank) (by simp [hw]), hw]

/-- An ending request to a delivery whose meter is not quiet is its entry to ENDING (R43 to R45). -/
theorem endingRequest_eq {s : State} {h : HoseIx} {l : Live} (r : EndReason)
    (hr : runState (s.hoses.get h).state = true) (hl : (s.hoses.get h).live = some l) (hs : s.settlesLater h) :
    endingRequest h r s = enterEnding h r s := by
  have e : endRaw h r s = enterEnding h r s := endRaw_run r hr
  have k : EntersEnding h l r s (endRaw h r s) := by rw [e]; exact enterEnding_entersEnding r hr hl
  rw [endingRequest, settling_entersEnding k rfl (by rw [e]; exact enterEnding_settlesLater r hs), e]

end Sys2Proof.Machine
end

