-- ==== Sys2Proof/Laws/Layouts.lean ====
section
/-! SUPPORT. What a body laid out field by field holds (R187): the length of a field, where its value is read, and the
range of what a place carries of a volume. -/

namespace Sys2Proof.Machine

@[simp] theorem length_beBytes (n v : Nat) : (beBytes n v).length = n := by
  induction n generalizing v with
  | zero => rfl
  | succ n ih => simp [beBytes, ih]

@[simp] theorem length_oneByte (v : Nat) : (oneByte v).length = 1 := length_beBytes 1 v

/-- A volume that fits is carried as it is. -/
@[simp] theorem volumeAt_of_le (p : Config.VolumePlace) {q : Nat} (h : q ≤ 4294967295) : volumeAt p q = q := if_pos h

/-- What a place carries ends at 4,294,967,295. -/
theorem volumeAt_le (p : Config.VolumePlace) (q : Nat) : volumeAt p q ≤ 4294967295 := by
  unfold volumeAt
  split
  · assumption
  · have : p.least ≤ 1 := by cases p <;> decide
    have := Nat.mod_lt (Config.unstatedVolume p q) (y := 4294967296 - p.least) (by omega)
    omega

/-- What a place carries is at least its least volume where the volume is. -/
theorem least_le_volumeAt {p : Config.VolumePlace} {q : Nat} (h : p.least ≤ q) : p.least ≤ volumeAt p q := by
  unfold volumeAt
  split
  · exact h
  · exact Nat.le_add_right ..

theorem beValue_snoc (bs : List Byte) (b : Byte) : beValue (bs ++ [b]) = beValue bs * 256 + b.toNat := by
  simp [beValue, List.foldl_append]

/-- A laid-out value is read back from its characters, modulo what the field can hold. -/
theorem beValue_beBytes (n v : Nat) : beValue (beBytes n v) = v % 256 ^ n := by
  induction n generalizing v with
  | zero => simp [beBytes, beValue, Nat.mod_one]
  | succ n ih =>
    rw [beBytes, beValue_snoc, ih, BitVec.toNat_ofNat, pow_succ' 256 n]
    have := Nat.mod_mul (a := 256) (b := 256 ^ n) (x := v)
    omega

/-- A field that begins the body holds the value laid out there. -/
@[simp] theorem holds_head (n v : Nat) (c : List Byte) : Holds (beBytes n v ++ c) 0 n v := by
  unfold Holds field
  rw [← beValue_beBytes, List.drop_zero, List.take_left' (length_beBytes n v)]

@[simp] theorem holds_all (n v : Nat) : Holds (beBytes n v) 0 n v := by simpa using holds_head n v []

@[simp] theorem holds_head_one (v : Nat) (c : List Byte) : Holds (oneByte v ++ c) 0 1 v := holds_head 1 v c

@[simp] theorem holds_all_one (v : Nat) : Holds (oneByte v) 0 1 v := holds_all 1 v

/-- A field past a first piece of the body is a field of the rest. -/
theorem holds_append_right (a b : List Byte) (off n v : Nat) (h : a.length ≤ off) :
    Holds (a ++ b) off n v ↔ Holds b (off - a.length) n v := by
  unfold Holds field
  rw [List.drop_append, List.drop_eq_nil_of_le h, List.nil_append]

end Sys2Proof.Machine
end

