-- ==== Sys2Proof/Laws/Closes.lean ====
section
/-! SUPPORT. What a close leaves (R48 to R50), what an ending request does to the one live delivery of a tank whether or
not it closes at its entry to ENDING (R43 to R45), and what a hose told that its pump is RUNNING does (R39). -/

namespace Sys2Proof.Machine

/-! ## Closes (R48 to R50) -/

/-- A move to a state whose stage is SHUT leaves the meter of a hose whose valve is at duty 0 (R5, R12). -/
theorem moveHose_meter_shut (h : HoseIx) (st : HoseState) (s : State) (hs : stageOf st = .shut)
    (hd : (s.valves.get h).duty = 0) : (moveHose h st s).meters = s.meters := by
  have e : (moveHose h st s).meters = (commandStage h st (s.setHose h ((s.hoses.get h).enter st))).meters :=
    (pumpFollows_frame _ _ _) .meters (by decide)
  rw [e]
  unfold commandStage refreshValve
  rw [setValve_dutyFor]
  simp [hs, stageDuty, hd]

/-- A meter that is quiet stays so at the entry to ENDING where its valve is at duty 0, and with an end-settle time of 0 is
always (R5, R45). -/
theorem enterEnding_quiet {s : State} {h : HoseIx} (r : EndReason) (hs : ¬s.settlesLater h) :
    (enterEnding h r s).quietForSettle h = true := by
  have hu : (enterEnding h r s).unit = s.unit := enterEnding_frame h r s .unit (by decide)
  simp only [State.quietForSettle, State.cfg, hu, decide_eq_true_eq, secondsMs]
  by_cases h0 : s.unit.settings.endSettle = 0
  · simp [h0]
  · have hs' : (s.valves.get h).duty = 0 ∧ s.quietForSettle h = true := by
      have : ¬((s.valves.get h).duty ≠ 0 ∨ s.quietForSettle h = false) := fun k => hs ⟨Nat.pos_of_ne_zero h0, k⟩
      simpa [not_or] using this
    unfold enterEnding
    rw [moveHose_meter_shut h .ending _ rfl (by simpa using hs'.1)]
    exact of_decide_eq_true hs'.2

/-- The account table's step of a close writes the account table alone (R69). -/
theorem accountClose_set (c : Closed) (s : State) : (accountClose c s).2 = s.setAccounts (accountClose c s).2.accounts := by
  unfold accountClose
  split
  · split <;> rfl
  · rfl

/-- A frame that leaves the journal and its read leaves the journal whole. -/
theorem sameOutside.journal {ps : List Part} {s t : State} (h : sameOutside ps s t) (hj : Part.journal ∉ ps)
    (hr : Part.read ∉ ps) : t.journal = s.journal := by
  have k : { t.journal with read := s.journal.read } = s.journal := h .journal hj
  have e : t.journal.read = s.journal.read := h .read hr
  rw [← k, ← e]

/-- A frame that leaves the link unit and its queue leaves the link unit whole. -/
theorem sameOutside.link {ps : List Part} {s t : State} (h : sameOutside ps s t) (hl : Part.link ∉ ps)
    (hq : Part.queue ∉ ps) : t.link = s.link := by
  have k : { t.link with ordinary := s.link.ordinary, reserved := s.link.reserved } = s.link := h .link hl
  have e : t.link.ordinary = s.link.ordinary ∧ t.link.reserved = s.link.reserved := h .queue hq
  rw [← k, ← e.1, ← e.2]

/-- A closed delivery with quantity above 0 is handed on (R50). -/
theorem handOff_handedOn {c : Closed} (s : State) (hq : c.quantity ≠ 0) : HandedOn c s (handOff c s) := by
  obtain ⟨a, ha⟩ : ∃ a, a = (accountClose c s).2.accounts := ⟨_, rfl⟩
  let fl := (accountClose c s).1
  let u := bookClose c.tank c.quantity (journalClose c fl (s.setAccounts a))
  have hu : handOff c s = handOver ⟨0, .draw, drawBytes s.journal.counter c, .deliveryController, .plain⟩ u := by
    simp only [handOff, hq, if_false]
    rw [show accountClose c s = (fl, s.setAccounts a) from Prod.ext rfl (by rw [ha]; exact accountClose_set c s)]
    rfl
  have fb := bookClose_frame c.tank c.quantity (journalClose c fl (s.setAccounts a))
  have fh := handOver_frame ⟨0, .draw, drawBytes s.journal.counter c, .deliveryController, .plain⟩ u
  have fr := fb.then fh (rs := .books :: handing) rfl rfl
  rw [hu]
  have hl : u.link = s.link := by
    show (bookClose _ _ _).link = _
    unfold bookClose; split <;> rfl
  have hun : u.unit = s.unit := fb .unit (by decide)
  refine ⟨?_, ?_, ?_, ?_, ?_, fun k hk => ?_, volumeAt .draw c.quantity, least_le_volumeAt (p := .draw) (Nat.pos_of_ne_zero hq),
    volumeAt_le _ _, volumeAt_of_le _, fun hc hn => ?_⟩
  · exact Eq.trans (fr .accounts (by decide)) ha
  · exact (fr.records (by decide)).trans rfl
  · rw [fr.counter (by decide)]
    show nextSequence s.journal.counter = _
    unfold nextSequence
    split <;> split <;> first | rfl | omega
  · exact (fr.reservations (by decide)).trans rfl
  · exact (fr.mark (by decide)).trans rfl
  · have hk' : (journalClose c fl (s.setAccounts a)).bookOf c.tank = some k := hk
    rw [show _ = u.books from fh .books (by decide)]
    show (bookClose _ _ _).books = _
    unfold bookClose
    rw [hk']
    rfl
  · have hc' : u.inConfigFault = false := by simpa [State.inConfigFault, hl] using hc
    have e : u.entryOf = s.entryOf := by
      funext f; simp [State.entryOf, State.ownAddress, State.clock, hun]
    unfold handOver handOrdinary
    simp only [hc', Bool.false_and, Bool.false_eq_true, if_false, hl, Config.ordinaryCapacity, hn, if_true, e]
    simp [drawBytes, hoursField]

/-- A closed delivery with quantity 0 is handed to the journal alone (R50, R143). -/
theorem handOff_released {c : Closed} (s : State) (hq : c.quantity = 0) : OnlyReleased s (handOff c s) := by
  simp only [handOff, hq, if_true]
  exact ⟨rfl, rfl, rfl, rfl, rfl⟩

/-- What a close hands on is read from parts that the move of a hose leaves. -/
theorem HandedOn.of_moved {c : Closed} {s s1 t : State} (f : sameOutside moving s s1) (h : HandedOn c s1 t) :
    HandedOn c s t := by
  have ha : s1.accounts = s.accounts := f .accounts (by decide)
  have hb : s1.books = s.books := f .books (by decide)
  have hu : s1.unit = s.unit := f .unit (by decide)
  have hj : s1.journal.records = s.journal.records := f.records (by decide)
  have hr := f.reservations (by decide)
  have hc := f.counter (by decide)
  have hm := f.mark (by decide)
  have hq : s1.link.ordinary = s.link.ordinary := (f .queue (by decide)).1
  have hjo := f.join (by decide)
  have h1 : (accountClose c s1).1 = (accountClose c s).1 ∧
      (accountClose c s1).2.accounts = (accountClose c s).2.accounts := by
    unfold accountClose
    rw [ha]
    split
    · split
      · exact ⟨rfl, ha⟩
      · simp only [State.cfg, hu]; exact ⟨trivial, by simp [putRecord, ha]⟩
    · exact ⟨rfl, ha⟩
  have he : s1.entryOf = s.entryOf := by
    funext f; simp [State.entryOf, State.ownAddress, State.clock, hu]
  have hst : s1.siteTime = s.siteTime := by simp only [State.siteTime, hu]
  have hcf : s1.inConfigFault = s.inConfigFault := by simp only [State.inConfigFault, hjo]
  have hbo : s1.bookOf = s.bookOf := by funext n; exact bookOf_congr hu n
  unfold HandedOn at h ⊢
  rw [h1.1, h1.2, hj, hr, hc, hm, hb, hq, he, hst, hcf, hbo] at h
  exact h

/-- The same of a close that is handed to the journal alone. -/
theorem OnlyReleased.of_moved {s s1 t : State} (hj : s1.journal = s.journal) (ha : s1.accounts = s.accounts)
    (hb : s1.books = s.books) (hl : s1.link = s.link) (hc : s1.counts = s.counts) (h : OnlyReleased s1 t) :
    OnlyReleased s t := by
  unfold OnlyReleased at h ⊢
  rw [hj, ha, hb, hl, hc] at h
  exact h

/-- The hose of a close is not live, and counts toward no pump (R18, R27, R48). -/
theorem afterClose_rest (x : Hose) (r : EndReason) : liveState (afterClose x none r) = false
    ∧ runState (afterClose x none r) = false ∧ stageOf (afterClose x none r) = .shut ∧ afterClose x none r ≠ .ending := by
  unfold afterClose
  dsimp only
  repeat' split
  all_goals exact ⟨rfl, rfl, rfl, by simp⟩

/-- A hose that moves between states that count toward no pump leaves the run counts and the pumps (R18). -/
theorem runCount_rest {s t : State} {h : HoseIx} (hu : t.unit = s.unit)
    (h0 : runState (s.hoses.get h).state = false) (h1 : runState (t.hoses.get h).state = false)
    (hg : ∀ g, g ≠ h → t.hoses.get g = s.hoses.get g) (n : Nat) : t.runCount n = s.runCount n := by
  unfold State.runCount
  congr 1
  refine List.filter_congr fun g _ => ?_
  by_cases e : g = h
  · subst e; simp [h0, h1]
  · simp only [hg g e, State.hoseCfg, State.cfg, hu]

theorem moveHose_pumps_rest {s : State} {h : HoseIx} {st : HoseState} (h0 : runState (s.hoses.get h).state = false)
    (h1 : runState st = false) : (moveHose h st s).pumps = s.pumps := by
  apply PerPump.ext_get
  intro p
  have hr : (moveHose h st s).runCount (s.hoseCfg h).tank = s.runCount (s.hoseCfg h).tank :=
    runCount_rest (moveHose_frame h st s .unit (by decide)) h0 (by simpa [Hose.enter] using h1)
      (fun g hg => by simp [hg]) _
  unfold moveHose at hr ⊢
  let u := commandStage h st (s.setHose h ((s.hoses.get h).enter st))
  have fu : sameOutside [.hoses, .valves, .meters] s u :=
    (setHose_frame s h _).then (commandStage_frame _ _ _) rfl rfl
  have hrc : (pumpFollows h (s.runCount (s.hoseCfg h).tank) u).runCount (s.hoseCfg h).tank
      = u.runCount (s.hoseCfg h).tank :=
    runCount_congr ((pumpFollows_frame _ _ _) .unit (by decide)) ((pumpFollows_frame _ _ _) .hoses (by decide)) _
  have hcfg : u.hoseCfg h = s.hoseCfg h := by
    simp only [State.hoseCfg, State.cfg, show u.unit = s.unit from fu .unit (by decide)]
  have e : u.runCount (s.hoseCfg h).tank = s.runCount (s.hoseCfg h).tank := hrc.symm.trans hr
  have hp : u.pumps = s.pumps := fu .pumps (by decide)
  show (pumpFollows h (s.runCount (s.hoseCfg h).tank) u).pumps.get p = _
  unfold pumpFollows
  split
  · rw [hp]
  · rw [hcfg, e]
    split
    · omega
    · split
      · omega
      · rw [hp]

/-- A close is a move of its hose, the hand-off, and the dead-level watch, which finds no other live delivery on the tank
(R48, R50, R94). -/
theorem closeRaw_eq {s : State} {h : HoseIx} {l : Live} {r : EndReason} (hl : (s.hoses.get h).live = some l)
    (ho : ∀ g, g ≠ h → s.liveTank g ≠ some l.tank) :
    closeRaw h true none r s = handOff (closedOf h l (s.meters.get h).net r s)
      (moveHose h (afterClose (s.hoses.get h) none r) (s.setHose h { s.hoses.get h with
        live := none, meterMark := false
        overrun := if r = .preset then learned l.overrunUsed (observedOverrun (s.hoseCfg h).meterK
            (l.closeCount.getD (s.meters.get h).net) (s.meters.get h).net) else (s.hoses.get h).overrun })) := by
  unfold closeRaw
  simp only [hl, true_and]
  split
  · rfl
  · generalize hx : ({ s.hoses.get h with
        live := none, meterMark := false
        overrun := if r = .preset then learned l.overrunUsed (observedOverrun (s.hoseCfg h).meterK
            (l.closeCount.getD (s.meters.get h).net) (s.meters.get h).net) else (s.hoses.get h).overrun } : Hose) = x
    generalize hu : handOff _ _ = u
    have hh : u.hoses = (s.setHose h x).hoses.set h (x.enter (afterClose (s.hoses.get h) none r)) := by
      rw [← hu, show _ = _ from handOff_frame _ _ .hoses (by decide), moveHose_hoses]; simp
    have hno : u.liveOn l.tank = [] := by
      refine List.filter_eq_nil_iff.mpr fun g _ => ?_
      by_cases e : g = h
      · subst e
        have : liveState (u.hoses.get g).state = false := by
          rw [hh]; simpa [Hose.enter] using (afterClose_rest _ r).1
        simp [State.liveTank, this]
      · have hg : u.hoses.get g = s.hoses.get g := by rw [hh]; simp [e]
        have := ho g e
        simpa [State.liveTank, hg] using this
    simp only [watchRaw, hno, endAll, List.foldl_nil, ite_self]

/-- What the close of the one live delivery of a tank leaves (R48 to R50). -/
theorem closeRaw_closes {s : State} {h : HoseIx} {l : Live} {r : EndReason} (hl : (s.hoses.get h).live = some l)
    (ho : ∀ g, g ≠ h → s.liveTank g ≠ some l.tank) :
    let t := closeRaw h true none r s
    (t.hoses.get h).state
        = (if (s.hoses.get h).meterMark then .outOfService .meter
          else if (s.hoses.get h).hook = some .offHook then .done r else .idle)
      ∧ (t.hoses.get h).live = none ∧ (t.hoses.get h).meterMark = false
      ∧ (t.hoses.get h).overrun
        = (if r = .preset then learned l.overrunUsed
            (observedOverrun (s.hoseCfg h).meterK (l.closeCount.getD (s.meters.get h).net) (s.meters.get h).net)
          else (s.hoses.get h).overrun)
      ∧ (∀ g, (t.meters.get g).net = (s.meters.get g).net)
      ∧ (t.valves.get h).commanded = .shut ∧ (t.valves.get h).duty = 0 ∧ (t.valves.get h).flowPast = none
      ∧ ClosedAs h l r s t ∧ otherHosesSame h s t
      ∧ (runState (s.hoses.get h).state = false → t.pumps = s.pumps) := by
  intro t
  have et : t = _ := closeRaw_eq hl ho
  generalize hx : ({ s.hoses.get h with
        live := none, meterMark := false
        overrun := if r = .preset then learned l.overrunUsed (observedOverrun (s.hoseCfg h).meterK
            (l.closeCount.getD (s.meters.get h).net) (s.meters.get h).net) else (s.hoses.get h).overrun } : Hose) = x at et
  obtain ⟨m, hm⟩ : ∃ m, m = moveHose h (afterClose (s.hoses.get h) none r) (s.setHose h x) := ⟨_, rfl⟩
  rw [← hm] at et
  have fm : sameOutside moving s m := by
    rw [hm]; exact (setHose_frame _ _ _).then (moveHose_frame _ _ _) rfl rfl
  have fo : sameOutside handOffParts m t := by rw [et]; exact handOff_frame _ _
  have hh : t.hoses = m.hoses := fo .hoses (by decide)
  have hv : t.valves = m.valves := fo .valves (by decide)
  have hme : t.meters = m.meters := fo .meters (by decide)
  have hhs : (t.hoses.get h) = x.enter (afterClose (s.hoses.get h) none r) := by rw [hh, hm]; simp
  have hst := (afterClose_rest (s.hoses.get h) r)
  refine ⟨?_, ?_, ?_, ?_, fun g => ?_, ?_, ?_, ?_, ⟨fun hq => ?_, fun hq => ?_⟩, fun g hg => ?_, fun h0 => ?_⟩
  · rw [hhs]; rfl
  · rw [hhs, ← hx]; rfl
  · rw [hhs, ← hx]; rfl
  · rw [hhs, ← hx]; rfl
  · rw [hme, hm, moveHose_net]; rfl
  · rw [hv, hm]; simp [moveHose_valves, Valve.apply_commanded, hst.2.2.1]
  · rw [hv, hm]; simp [moveHose_valves, hst.2.2.1, stageDuty]
  · rw [hv, hm]; simp [moveHose_valves, Valve.apply_flowPast, hst.2.2.2]
  · rw [et]
    exact (handOff_handedOn m (c := closedOf h l (s.meters.get h).net r s) (Nat.ne_of_gt hq)).of_moved fm
  · rw [et]
    refine (handOff_released m (c := closedOf h l (s.meters.get h).net r s) hq).of_moved ?_ ?_ ?_ ?_ ?_
    · exact fm.journal (by decide) (by decide)
    · exact fm .accounts (by decide)
    · exact fm .books (by decide)
    · exact fm.link (by decide) (by decide)
    · exact fm .counts (by decide)
  · rw [hh, hm]; simp [hg]
  · rw [show t.pumps = m.pumps from fo .pumps (by decide), hm,
      moveHose_pumps_rest (by simpa [← hx] using h0) hst.2.1]
    rfl

/-- The one new delivery in ENDING with a quiet meter closes, and nothing more (R45). -/
theorem settling_closes {f : State → State} {s : State} {h : HoseIx} {l : Live} {r : EndReason}
    (hs : ((f s).hoses.get h).state = .ending) (h0 : (s.hoses.get h).state ≠ .ending)
    (hl : ((f s).hoses.get h).live = some l) (hr : l.endReason = some r) (hq : (f s).quietForSettle h = true)
    (hg : ∀ g, g ≠ h → ((f s).hoses.get g).state = (s.hoses.get g).state)
    (ho : ∀ g, g ≠ h → (f s).liveTank g ≠ some l.tank) : settling f s = closeRaw h true none r (f s) := by
  have hn : nextSettled s (f s) = some h := by
    unfold nextSettled
    have e : (fun g => ((f s).hoses.get g).state == .ending && (s.hoses.get g).state != .ending
        && ((f s).hoses.get g).live.isSome && (f s).quietForSettle g) = fun g => decide (g = h) := by
      funext g
      by_cases k : g = h
      · subst k; simp [hs, h0, hq, hl]
      · rw [hg g k]; cases (s.hoses.get g).state <;> simp [k]
    rw [e]
    cases h <;> decide
  have hre : reasonOr ((f s).hoses.get h) .preset = r := by simp [reasonOr, hl, hr]
  unfold settling
  rw [settleNew]
  simp only [hn, hre]
  have hc := closeRaw_closes (r := r) hl ho
  refine settleNew_none (fun g h1 h2 => ?_) 5
  by_cases k : g = h
  · subst k
    rw [hc.1] at h1
    split at h1
    · cases h1
    · split at h1 <;> cases h1
  · rw [hc.2.2.2.2.2.2.2.2.2.1 g k, hg g k] at h1
    exact absurd h1 h2

/-- An ending request to a delivery whose meter is already quiet closes it at its entry to ENDING (R43 to R45). -/
theorem enterEnding_closes {f : State → State} {s s1 : State} {h : HoseIx} {l : Live} {r : EndReason}
    (hf : f s1 = enterEnding h r s) (hh : s1.hoses = s.hoses) (hr : runState (s.hoses.get h).state = true)
    (hl : (s.hoses.get h).live = some l) (hs : ¬s.settlesLater h) (ho : ∀ g, g ≠ h → s.liveTank g ≠ some l.tank) :
    ClosesAtEntry h l r s (settling f s1) := by
  have e := enterEnding_entersEnding r hr hl
  have hq := enterEnding_quiet r hs
  rw [← hf] at e hq
  obtain ⟨e1, e2, e3, e4, e5, e6, e7, e8⟩ := e
  have h0 : (s1.hoses.get h).state ≠ .ending := by rw [hh]; intro k; rw [k] at hr; cases hr
  have ho' : ∀ g, g ≠ h → (f s1).liveTank g ≠ some l.tank := fun g hg => by
    have := ho g hg
    simpa only [State.liveTank, e7 g hg] using this
  rw [settling_closes e1 h0 e2 rfl hq (fun g hg => by rw [e7 g hg, hh]) ho']
  have hu : (f s1).unit = s.unit := e8 .unit (by decide)
  have hcfg : (f s1).hoseCfg h = s.hoseCfg h := by simp only [State.hoseCfg, State.cfg, hu]
  have hnet : ∀ g, ((f s1).meters.get g).net = (s.meters.get g).net := fun g => by
    rw [hf]; unfold enterEnding; rw [moveHose_net]; rfl
  have hx : ((f s1).hoses.get h).meterMark = (s.hoses.get h).meterMark
      ∧ ((f s1).hoses.get h).hook = (s.hoses.get h).hook ∧ ((f s1).hoses.get h).overrun = (s.hoses.get h).overrun := by
    rw [hf]; unfold enterEnding; simp [Hose.enter]
  obtain ⟨c1, c2, c3, c4, c5, c6, c7, c8, c9, c10, c11⟩ := closeRaw_closes (r := r) e2 ho'
  obtain ⟨t, ht⟩ : ∃ t, t = closeRaw h true none r (f s1) := ⟨_, rfl⟩
  rw [← ht] at c1 c2 c3 c4 c5 c6 c7 c8 c9 c10 c11 ⊢
  have ft : sameOutside closing (f s1) t := by rw [ht]; exact closeRaw_frame _ _ _ _ _
  refine ⟨?_, c2, c3, ?_, ?_, c6, c7, c8, fun p hp hr0 => ?_, ?_, fun g hg => ?_, e8.then ft rfl rfl⟩
  · rw [c1, hx.1, hx.2.1]
  · rw [c4, hcfg, hnet, hx.2.2]; rfl
  · rw [c5, hnet]
  · rw [c11 (by rw [e1]; rfl)]
    refine e6 p hp ?_
    rw [← hr0]
    refine (runCount_rest (ft .unit (by decide)) (by rw [e1]; rfl) ?_ c10 _).symm
    rw [c1]; split
    · rfl
    · split <;> rfl
  · have hclo : closedOf h l (s.meters.get h).net r s
        = closedOf h { l with endReason := some r, closeCount := some (l.closeCount.getD (s.meters.get h).net) }
          ((f s1).meters.get h).net r (f s1) := by
      simp only [closedOf, hcfg, hnet, hu]
    unfold ClosedAs at c9 ⊢
    rw [hcfg, ← hclo, hnet] at c9
    refine ⟨fun k => (c9.1 k).of_moved e8, fun k => (c9.2 k).of_moved ?_ ?_ ?_ ?_ ?_⟩
    · exact e8.journal (by decide) (by decide)
    · exact e8 .accounts (by decide)
    · exact e8 .books (by decide)
    · exact e8.link (by decide) (by decide)
    · exact e8 .counts (by decide)
  · rw [c10 g hg, e7 g hg]

/-! ## Endings (R43 to R45, R92) -/

/-- An ending request to a delivery that is the one live one of its tank (R43 to R45). -/
theorem endingRequest_ended {s : State} {h : HoseIx} {l : Live} (r : EndReason)
    (hr : runState (s.hoses.get h).state = true) (hl : (s.hoses.get h).live = some l) :
    Ended h l r s (endingRequest h r s) :=
  ⟨endingRequest_entersEnding r hr hl,
    fun hs ho => enterEnding_closes (f := endRaw h r) (endRaw_run r hr) rfl hr hl hs ho⟩

/-- The dead-level watch with the stock gone, on the one live delivery of a tank (R92). -/
theorem deadLevelWatch_ended {s : State} {h : HoseIx} {l : Live} (hr : runState (s.hoses.get h).state = true)
    (hl : (s.hoses.get h).live = some l) (hg : s.stockGone l.tank = true)
    (ho : ∀ g, g ≠ h → s.liveTank g ≠ some l.tank) : Ended h l .stock s (deadLevelWatch l.tank s) := by
  refine ⟨fun hs => deadLevelWatch_entersEnding hr hl hs hg ho, fun hs _ => ?_⟩
  have hmem : s.liveOn l.tank = [h] := liveTank_one (liveState_run hr) hl ho
  have hw : watchRaw l.tank s = endRaw h .stock s := by simp [watchRaw, hg, hmem, endAll]
  exact enterEnding_closes (f := watchRaw l.tank) (hw.trans (endRaw_run _ hr)) rfl hr hl hs ho


/-! ## Leaving PRIMING (R39) -/

/-- A hose in PRIMING goes on to FLOWING or TRIMMING (R39). -/
theorem moveHose_flowsOn {s : State} {h : HoseIx} {l : Live} {st : HoseState} (hs : (s.hoses.get h).state = .priming)
    (hl : (s.hoses.get h).live = some l) (hst : st = .flowing ∨ st = .trimming) :
    FlowsOn h l st (stageOf st) (stageDuty (s.hoseCfg h) (stageOf st)) s (moveHose h st s) := by
  refine ⟨by simp [Hose.enter], by simp [Hose.enter, hl], by simp [Hose.enter, hs, hst], ?_, fun ht hc => ?_, fun g hg => ?_,
    moveHose_frame h st s⟩
  · simp [moveHose_valves, Valve.apply_commanded]
  · simp [moveHose_valves, ht, hc]
  · simp [hg]

/-- A hose told that its pump is RUNNING leaves PRIMING (R39). -/
theorem exitPriming_left {s : State} {h : HoseIx} {l : Live} (hs : (s.hoses.get h).state = .priming)
    (hl : (s.hoses.get h).live = some l) : LeftPriming h l s (exitPriming h s) := by
  have hr : runState (s.hoses.get h).state = true := by rw [hs]; rfl
  refine ⟨fun hp => ?_, fun h0 h1 => ⟨fun n hn hg => ?_, fun hg => ⟨fun h2 => ?_, fun h2 => ?_⟩⟩⟩
  · simp only [exitPriming, hs, hl, hp, if_true]
    exact endingRequest_ended .preset hr hl
  all_goals have hp : ¬(l.stopCount = 0 ∨ (l.stopCount : Int) ≤ (s.meters.get h).net) := by omega
  · have : (s.hoses.get h).tagTimer.any (fun t => decide (secondsMs s.cfg.tagGrace ≤ t)) = true := by
      rw [hn]; exact decide_eq_true hg
    simp only [exitPriming, hs, hl, hp, this, if_true, if_false]
    exact endingRequest_ended .tagLost hr hl
  all_goals
    have hn : (s.hoses.get h).tagTimer.any (fun t => decide (secondsMs s.cfg.tagGrace ≤ t)) = false := by
      cases ht : (s.hoses.get h).tagTimer with
      | none => rfl
      | some n => exact decide_eq_false (not_le.mpr (hg n ht))
  · simp only [exitPriming, hs, hl, hp, hn, h2, if_true, if_false, Bool.false_eq_true]
    exact moveHose_flowsOn hs hl (.inr rfl)
  · simp only [exitPriming, hs, hl, hp, hn, not_le.mpr h2, if_false, Bool.false_eq_true]
    exact moveHose_flowsOn hs hl (.inl rfl)

/-- A hose that is not in PRIMING is told nothing. -/
theorem exitPriming_rest {s : State} {h : HoseIx} (hs : (s.hoses.get h).state ≠ .priming) : exitPriming h s = s := by
  unfold exitPriming; dsimp only; split
  · rename_i e _; exact absurd e hs
  · rfl

/-- Hoses that are not in PRIMING are told nothing. -/
theorem exitAll_rest {s : State} (hs : List HoseIx) (h : ∀ g ∈ hs, (s.hoses.get g).state ≠ .priming) :
    hs.foldl (fun s g => exitPriming g s) s = s := by
  induction hs with
  | nil => rfl
  | cons a l ih =>
    rw [List.foldl_cons, exitPriming_rest (h a (by simp)), ih fun g hg => h g (by simp [hg])]

end Sys2Proof.Machine
end

