-- ==== Sys2Proof/Laws/Origins.lean ====
section
/-! SUPPORT. What the origin list does (R124 to R128): an episode entered, entries dropped, and what the zone state does
after either. -/

namespace Sys2Proof.Machine

/-- The first LOST origin leaves a list that has one (R124). -/
theorem dropLostOrigin_some (s : State) (q : Origin) (b : List Origin) (hq : s.liveness q.address = some .lost) :
    ∀ a : List Origin, (∀ p ∈ a, s.liveness p.address ≠ some .lost) → dropLostOrigin s (a ++ q :: b) = some (a ++ b)
  | [], _ => by simp [dropLostOrigin, hq]
  | p :: a, h => by simp [dropLostOrigin, h p (by simp), dropLostOrigin_some s q b hq a fun x hx => h x (by simp [hx])]

/-- A list without a LOST origin gives none up. -/
theorem dropLostOrigin_none (s : State) : ∀ l : List Origin, (∀ p ∈ l, s.liveness p.address ≠ some .lost) →
    dropLostOrigin s l = none
  | [], _ => rfl
  | p :: a, h => by simp [dropLostOrigin, h p (by simp), dropLostOrigin_none s a fun x hx => h x (by simp [hx])]

/-- A list has a first LOST origin, or none. -/
theorem firstLost_cases (s : State) : ∀ l : List Origin, (∀ p ∈ l, s.liveness p.address ≠ some .lost) ∨
    ∃ a q b, l = a ++ q :: b ∧ s.liveness q.address = some .lost ∧ ∀ p ∈ a, s.liveness p.address ≠ some .lost
  | [] => .inl (by simp)
  | p :: l => by
    by_cases hp : s.liveness p.address = some .lost
    · exact .inr ⟨[], p, l, rfl, hp, by simp⟩
    · rcases firstLost_cases s l with h | ⟨a, q, b, h1, h2, h3⟩
      · exact .inl (by simpa [hp] using h)
      · exact .inr ⟨p :: a, q, b, by simp [h1], h2, by simpa [hp] using h3⟩

/-- An episode entered in the origin list, with what the zone state then does (R121, R124, R185). -/
theorem withZone_enterOrigin {s s1 : State} (o : Origin) (h1 : s1.tripUnit = s.tripUnit) (hp : s1.peers = s.peers)
    (hc : s1.counts = s.counts) :
    EpisodeTaken o s s1 (withZone (enterOrigin o) s1) := by
  have hl : ∀ a, s1.liveness a = s.liveness a := fun a => by simp [State.liveness, hp]
  have ht1 : s1.tripped = s.tripped := tripped_congr h1
  obtain ⟨y, hy⟩ : ∃ y, enterOrigin o s1 = y := ⟨_, rfl⟩
  -- facts about y
  have key : y.tripUnit = { s.tripUnit with origins := y.tripUnit.origins } ∧ Entered s o y.tripUnit.origins
      ∧ y.tripUnit.origins ≠ [] ∧ (s.noPlaceFor o.address →
        y = s1.setCounts { s.counts with malformed := min (s.counts.malformed + 1) 65535 })
      ∧ (¬s.noPlaceFor o.address → y.counts = s.counts) := by
    have hany : (∃ q ∈ s.tripUnit.origins, q.address = o.address) ↔
        (s.tripUnit.origins.any fun q => q.address == o.address) = true := by simp
    unfold enterOrigin at hy
    dsimp only at hy
    rw [h1] at hy
    split at hy
    · rename_i ha
      have ha' := hany.mpr ha
      subst hy
      refine ⟨rfl, ⟨fun _ => rfl, fun hn => ?_⟩, ?_, fun hn => ?_, fun _ => hc⟩
      · obtain ⟨q, hq, e⟩ := ha'; exact absurd e (hn q hq)
      · obtain ⟨q, hq, e⟩ := ha'
        intro h0; simp at h0; rw [h0] at hq; cases hq
      · obtain ⟨q, hq, e⟩ := ha'; exact absurd e (hn.2 q hq).1
    · rename_i ha
      have ha' : ¬ ∃ q ∈ s.tripUnit.origins, q.address = o.address := fun h => ha (hany.mp h)
      split at hy
      · rename_i hlen
        simp only [Config.originCapacity] at hlen
        subst hy
        refine ⟨rfl, ⟨fun h => absurd h ha', fun _ => ⟨fun _ => rfl, fun h => absurd hlen (by omega)⟩⟩, by simp, fun hn => ?_,
          fun _ => hc⟩
        exact absurd hn.1 (by omega)
      · rename_i hlen
        simp only [Config.originCapacity, not_lt] at hlen
        rcases firstLost_cases s1 s.tripUnit.origins with h | ⟨a, q, b, e1, e2, e3⟩
        · rw [dropLostOrigin_none s1 _ h] at hy
          dsimp only at hy
          have hh : y = s1.setCounts { s.counts with malformed := min (s.counts.malformed + 1) 65535 } := by
            rw [← hy]; simp only [countMalformed, hc]; rfl
          subst hh
          refine ⟨?_, ⟨fun h => absurd h ha', fun _ => ⟨fun h2 => absurd hlen (by omega), fun _ =>
            ⟨fun a q b e1 e2 e3 => ?_, fun _ => ?_⟩⟩⟩, ?_, fun _ => rfl, fun hn => ?_⟩
          · simp [h1]
          · exact absurd (by rw [hl]; exact e2) (h q (by rw [e1]; simp))
          · simp [h1]
          · simp only [State.setCounts_tripUnit, h1]; intro h0; rw [h0] at hlen; simp at hlen
          · exact absurd ⟨hlen, fun q hq => ⟨fun e => ha' ⟨q, hq, e⟩, by rw [← hl]; exact h q hq⟩⟩ hn
        · rw [e1, dropLostOrigin_some s1 q b e2 a e3] at hy
          dsimp only at hy
          subst hy
          refine ⟨rfl, ⟨fun h => absurd h ha', fun _ => ⟨fun h2 => absurd hlen (by omega), fun _ =>
            ⟨fun a' q' b' f1 f2 f3 => ?_, fun h => ?_⟩⟩⟩, by simp, fun hn => ?_, fun _ => hc⟩
          · have d1 := dropLostOrigin_some s1 q b e2 a e3
            have d2 := dropLostOrigin_some s1 q' b' (by rw [hl]; exact f2) a' (by intro p hp; rw [hl]; exact f3 p hp)
            rw [← e1] at d1; rw [← f1] at d2
            have := d1.symm.trans d2
            simp only [Option.some.injEq] at this
            simp [this]
          · exact absurd (by rw [← hl]; exact e2) (h q (by rw [e1]; simp))
          · exact absurd (by rw [← hl]; exact e2) (hn.2 q (by rw [e1]; simp)).2
  obtain ⟨k1, k2, k3, k4, k5⟩ := key
  have hyt : y.tripped = true := by
    simp only [State.tripped]
    cases ho : y.tripUnit.origins with
    | nil => exact absurd ho k3
    | cons a l => simp
  have hyf : sameOutside [.tripUnit, .counts] s1 y := by rw [← hy]; exact enterOrigin_frame o s1
  have hw : withZone (enterOrigin o) s1 = zoneFollows s1 y := by rw [withZone, hy]
  rw [hw]
  have hz : (zoneFollows s1 y).tripUnit = y.tripUnit := (zoneFollows_frame s1 y) .tripUnit (by decide)
  have hs : s.tripped = true → zoneFollows s1 y = y := by
    intro h; simp [zoneFollows, hyt, ht1, h]
  refine ⟨by rw [tripped_congr hz, hyt], by rw [hz]; exact k1, by rw [hz]; exact k2,
    fun h => by rw [hs h]; exact hyf, fun hn => ?_, fun h hn => by rw [hs h]; exact k5 hn⟩
  have : s.tripped = true := by
    have h16 := hn.1
    simp only [State.tripped]
    cases ho : s.tripUnit.origins with
    | nil => rw [ho] at h16; simp at h16
    | cons a l => simp
  rw [hs this]; exact k4 hn

/-- Entries dropped from the origin list, with what the zone state then does (R121, R126 to R128). -/
theorem withZone_dropOrigins {s s1 : State} (p : Origin → Bool) (h1 : s1.tripUnit = s.tripUnit) :
    (withZone (dropOrigins p) s1).tripUnit = { s.tripUnit with origins := s.tripUnit.origins.filter fun o => !p o }
    ∧ ((withZone (dropOrigins p) s1).tripped = s.tripped → sameOutside [.tripUnit] s1 (withZone (dropOrigins p) s1))
    ∧ sameOutside [.tripUnit, .valves, .meters, .pumps] s1 (withZone (dropOrigins p) s1) := by
  obtain ⟨y, hy⟩ : ∃ y, dropOrigins p s1 = y := ⟨_, rfl⟩
  have ht1 : s1.tripped = s.tripped := tripped_congr h1
  have hyt : y.tripUnit = { s.tripUnit with origins := s.tripUnit.origins.filter fun o => !p o } := by
    rw [← hy]; simp [dropOrigins, h1]
  have hyf : sameOutside [.tripUnit] s1 y := by rw [← hy]; exact dropOrigins_frame p s1
  have hle : y.tripped = true → s.tripped = true := by
    simp only [State.tripped, hyt]
    intro h
    simp only [Bool.or_eq_true] at h ⊢
    rcases h with h | h
    · exact .inl h
    · right
      cases ho : s.tripUnit.origins with
      | nil => rw [ho] at h; exact h
      | cons a l => rfl
  have hzf : withZone (dropOrigins p) s1 = if s.tripped && !y.tripped then returnNormal y else y := by
    rw [withZone, hy]
    unfold zoneFollows
    rw [ht1]
    cases h1 : y.tripped <;> cases h2 : s.tripped <;> simp_all
  rw [hzf]
  have hrf := returnNormal_frame y
  have hru : (returnNormal y).tripUnit = y.tripUnit := hrf .tripUnit (by decide)
  by_cases hc : s.tripped && !y.tripped
  · rw [if_pos hc]
    simp only [Bool.and_eq_true, Bool.not_eq_true'] at hc
    refine ⟨hru.trans hyt, fun h => ?_, hyf.then hrf rfl rfl⟩
    rw [tripped_congr hru, hc.1, hc.2] at h; cases h
  · rw [if_neg hc]
    exact ⟨hyt, fun _ => hyf, hyf.mono (by decide)⟩

end Sys2Proof.Machine
end

