-- ==== Sys2Proof/Laws/Outputs.lean ====
section
/-! SUPPORT. The outputs stay safe through every shared operation: one lemma for each that moves hoses, valves, pumps
or the zone state. -/

namespace Sys2Proof.Machine

/-! ## What the outputs depend on -/

/-- Two states drive their outputs alike: the same settings, zone state, join state, hose states, applied valves and
pump states. -/
structure SameOutputs (s t : State) : Prop where
  unit : t.cfg = s.cfg
  tripped : t.tripped = s.tripped
  fault : t.inConfigFault = s.inConfigFault
  state : ∀ h, (t.hoses.get h).state = (s.hoses.get h).state
  commanded : ∀ h, (t.valves.get h).commanded = (s.valves.get h).commanded
  duty : ∀ h, (t.valves.get h).duty = (s.valves.get h).duty
  off : ∀ h, (s.valves.get h).duty = 0 → (s.valves.get h).periodDuty = 0 ∧ (s.valves.get h).output = false →
    (t.valves.get h).periodDuty = 0 ∧ (t.valves.get h).output = false
  pumps : ∀ p, (t.pumps.get p).state.contactor = true → (s.pumps.get p).state.contactor = true

theorem SameOutputs.runCount {s t : State} (k : SameOutputs s t) (n : Nat) : t.runCount n = s.runCount n := by
  simp only [State.runCount, State.hoseCfg, k.unit, k.state]

theorem SameOutputs.pumpOf {s t : State} (k : SameOutputs s t) (n : Nat) : t.pumpOf n = s.pumpOf n := by
  simp only [State.pumpOf, k.unit]

theorem SameOutputs.safe {s t : State} (k : SameOutputs s t) (h : s.OutputsSafe) : t.OutputsSafe := by
  obtain ⟨hv, hp, hh⟩ := h
  refine ⟨fun g => ?_, fun p hc => ?_, fun g hf => ?_⟩
  · obtain ⟨a, b, c⟩ := hv g
    refine ⟨by rw [k.commanded, k.state]; exact a, ?_, fun h0 => ?_⟩
    · have e : t.dutyFor g = s.dutyFor g := by
        simp only [State.dutyFor, k.tripped, k.fault, k.commanded, State.hoseCfg, k.unit]
      rw [e, k.duty]; exact b
    · rw [k.duty] at h0; exact k.off g h0 (c h0)
  · obtain ⟨a, b⟩ := hp p (k.pumps p hc)
    refine ⟨by rw [k.tripped]; exact a, fun hq => ?_⟩
    rw [k.runCount, k.unit]
    rw [k.pumpOf, k.unit] at hq
    exact b hq
  · rw [k.fault] at hf; rw [k.state]; exact hh g hf

/-- The parts the outputs depend on. -/
def outputParts : List Part := [.unit, .valves, .pumps, .hoses, .tripUnit, .link]

theorem sameOutside.outputs {ps : List Part} {s t : State} (f : sameOutside ps s t)
    (hp : (outputParts.all fun p => !ps.contains p) = true) : SameOutputs s t := by
  have n : ∀ p ∈ outputParts, p ∉ ps := by
    intro p hm hc
    have := List.all_eq_true.mp hp p hm
    simp [hc] at this
  have hu : t.unit = s.unit := f .unit (n _ (by decide))
  have hv : t.valves = s.valves := f .valves (n _ (by decide))
  have hpp : t.pumps = s.pumps := f .pumps (n _ (by decide))
  have hh : t.hoses = s.hoses := f .hoses (n _ (by decide))
  exact ⟨by simp only [State.cfg, hu], tripped_congr (f .tripUnit (n _ (by decide))),
    inConfigFault_congr (f.join (n _ (by decide))), fun h => by rw [hh], fun h => by rw [hv], fun h => by rw [hv],
    fun h => by rw [hv]; exact fun _ h => h, fun p => by rw [hpp]; exact fun h => h⟩

theorem SameOutputs.setHose {s : State} {h : HoseIx} {x : Hose} (hx : x.state = (s.hoses.get h).state) :
    SameOutputs s (s.setHose h x) :=
  ⟨rfl, rfl, rfl, fun g => by by_cases e : g = h <;> simp [e, hx], fun _ => rfl, fun _ => rfl, fun _ _ c => c,
    fun _ c => c⟩

theorem SameOutputs.setLink {s : State} {l : Link} (hx : l.join = s.link.join) : SameOutputs s (s.setLink l) :=
  ⟨rfl, rfl, by simp [State.inConfigFault, hx], fun _ => rfl, fun _ => rfl, fun _ => rfl, fun _ _ c => c, fun _ c => c⟩

theorem SameOutputs.setTripUnit {s : State} {u : TripUnit} (hc : u.causes = s.tripUnit.causes)
    (ho : u.origins = s.tripUnit.origins) : SameOutputs s (s.setTripUnit u) :=
  ⟨rfl, by simp [State.tripped, hc, ho], rfl, fun _ => rfl, fun _ => rfl, fun _ => rfl, fun _ _ c => c, fun _ c => c⟩

theorem SameOutputs.setPump {s : State} {p : PumpIx} {x : Pump}
    (hx : x.state.contactor = true → (s.pumps.get p).state.contactor = true) : SameOutputs s (s.setPump p x) :=
  ⟨rfl, rfl, rfl, fun _ => rfl, fun _ => rfl, fun _ => rfl, fun _ _ c => c, fun q => by
    by_cases e : q = p
    · subst e; simpa using hx
    · simp [e]⟩

/-- An update of a valve that keeps its stage and duty, and at duty 0 its output. -/
theorem SameOutputs.setValve {s : State} {h : HoseIx} {v : Valve}
    (hc : v.commanded = (s.valves.get h).commanded) (hd : v.duty = (s.valves.get h).duty)
    (ho : (s.valves.get h).duty = 0 → (s.valves.get h).periodDuty = 0 ∧ (s.valves.get h).output = false →
      v.periodDuty = 0 ∧ v.output = false) : SameOutputs s (s.setValve h v) :=
  ⟨rfl, rfl, rfl, fun _ => rfl, fun g => by by_cases e : g = h <;> simp [e, hc],
    fun g => by by_cases e : g = h <;> simp [e, hd], fun g => by
      by_cases e : g = h
      · subst e; simpa using ho
      · simp [e], fun _ c => c⟩

/-! ## Moves -/

/-- A state that CONFIG_FAULT allows a hose (R58). -/
def heldState (st : HoseState) : Prop := st = .refused .config ∨ ∃ f, st = .outOfService f

theorem enter_state (x : Hose) (st : HoseState) : (x.enter st).state = st := rfl

theorem moveHose_safe {s : State} (h : HoseIx) (st : HoseState) (k : s.OutputsSafe)
    (hf : s.inConfigFault = true → heldState st) : (moveHose h st s).OutputsSafe := by
  obtain ⟨hv, hp, hh⟩ := k
  have fr := moveHose_frame h st s
  have hu : (moveHose h st s).unit = s.unit := fr .unit (by decide)
  have ht : (moveHose h st s).tripped = s.tripped := tripped_congr (fr .tripUnit (by decide))
  have hj : (moveHose h st s).inConfigFault = s.inConfigFault := inConfigFault_congr (fr.join (by decide))
  refine ⟨fun g => ?_, fun p hc => ?_, fun g hg => ?_⟩
  · have hd : ∀ g, (moveHose h st s).dutyFor g = if s.tripped || s.inConfigFault then 0
        else stageDuty (s.hoseCfg g) ((moveHose h st s).valves.get g).commanded := by
      intro g; simp only [State.dutyFor, ht, hj, State.hoseCfg, State.cfg, hu]
    unfold State.drivenRight
    rw [hd, moveHose_valves]
    by_cases e : g = h
    · subst e
      simp only [PerHose.get_set_self, Valve.apply_commanded, Valve.apply_duty, moveHose_hose, if_true, enter_state,
        true_and]
      intro h0
      exact Valve.apply_off _ _ (hv g).2.2 (by simpa using h0)
    · rw [PerHose.get_set_ne _ _ e, moveHose_hose, if_neg e]
      exact hv g
  · rcases moveHose_pump h st s p with e | ⟨a, b, c, d, e⟩ | ⟨a, b, e⟩
    · rw [e] at hc
      obtain ⟨x, y⟩ := hp p hc
      refine ⟨by rw [ht]; exact x, fun hq => ?_⟩
      have hq' : s.pumpOf (s.cfg.pumpTanks.get p) = some p := by
        rw [pumpOf_congr hu] at hq; simpa only [State.cfg, hu] using hq
      have hr := y hq'
      have ec : (moveHose h st s).cfg = s.cfg := by simp only [State.cfg, hu]
      rw [ec]
      by_cases en : (s.hoseCfg h).tank = s.cfg.pumpTanks.get p
      · rw [← en] at hr hq' ⊢
        by_contra h0
        have := moveHose_pump_off h st s p hr hq' (by omega)
        rw [e, hc] at this
        cases this
      · rw [runCount_move h st s _ en]; exact hr
    · refine ⟨by rw [ht]; exact d, fun hq => ?_⟩
      have ec : (moveHose h st s).cfg = s.cfg := by simp only [State.cfg, hu]
      have : s.cfg.pumpTanks.get p = (s.hoseCfg h).tank := by
        have := List.find?_some a
        simp only [Bool.and_eq_true, beq_iff_eq] at this
        exact this.1
      rw [ec, this]; exact c
    · rw [e] at hc; simp [PumpState.contactor] at hc
  · rw [hj] at hg
    rw [moveHose_hose]
    by_cases e : g = h
    · subst e; simp only [if_true, enter_state]; exact hf hg
    · rw [if_neg e]; exact hh g hg

theorem not_fault_of_state {s : State} (k : s.OutputsSafe) (h : HoseIx) (hn : ¬heldState (s.hoses.get h).state) :
    s.inConfigFault = false := by
  by_contra c
  exact hn (k.2.2 h (by simpa using c))

/-! ## Endings and closes -/

theorem enterEnding_safe {s : State} (h : HoseIx) (r : EndReason) (k : s.OutputsSafe) (hf : s.inConfigFault = false) :
    (enterEnding h r s).OutputsSafe :=
  moveHose_safe h _ ((SameOutputs.setHose (by rfl)).safe k) (by
    intro c; exact absurd (show s.inConfigFault = true from c) (by simp [hf]))

theorem endRaw_safe {s : State} (h : HoseIx) (r : EndReason) (k : s.OutputsSafe) : (endRaw h r s).OutputsSafe := by
  unfold endRaw
  split
  case h_4 => exact k
  all_goals
    rename_i e
    exact enterEnding_safe h r k (not_fault_of_state k h (by rw [e]; rintro (a | ⟨f, a⟩) <;> cases a))

theorem safe_foldl {α : Type} {f : State → α → State} (hf : ∀ a s, s.OutputsSafe → (f s a).OutputsSafe) (l : List α)
    {s : State} (k : s.OutputsSafe) : (l.foldl f s).OutputsSafe := by
  induction l generalizing s with
  | nil => exact k
  | cons a l ih => exact ih (hf a s k)

theorem endAll_safe {s : State} (hs : List HoseIx) (r : EndReason) (k : s.OutputsSafe) : (endAll hs r s).OutputsSafe :=
  safe_foldl (fun h _ k => endRaw_safe h r k) hs k

theorem watchRaw_safe {s : State} (n : Nat) (k : s.OutputsSafe) : (watchRaw n s).OutputsSafe := by
  unfold watchRaw; split
  · exact endAll_safe _ _ k
  · exact k

theorem handOff_safe {s : State} (c : Closed) (k : s.OutputsSafe) : (handOff c s).OutputsSafe :=
  ((handOff_frame c s).outputs (by decide)).safe k

theorem closeRaw_safe {s : State} (h : HoseIx) (b : Bool) (f : Option HoseFault) (r : EndReason) (k : s.OutputsSafe)
    (hf : s.inConfigFault = false) : (closeRaw h b f r s).OutputsSafe := by
  unfold closeRaw
  dsimp only
  split
  · exact k
  · have m {st x} (hx : x.state = (s.hoses.get h).state) : (moveHose h st (s.setHose h x)).OutputsSafe :=
      moveHose_safe h _ ((SameOutputs.setHose hx).safe k) (by
        intro c; exact absurd (show s.inConfigFault = true from c) (by simp [hf]))
    split
    · exact handOff_safe _ (m (by rfl))
    · exact watchRaw_safe _ (handOff_safe _ (m (by rfl)))

theorem settleNew_safe (s0 : State) (n : Nat) {s : State} (k : s.OutputsSafe) : (settleNew s0 n s).OutputsSafe := by
  induction n generalizing s with
  | zero => exact k
  | succ n ih =>
    unfold settleNew
    split
    · exact k
    · rename_i h hh
      refine ih (closeRaw_safe h _ _ _ k (not_fault_of_state k h ?_))
      have := List.find?_some hh
      simp only [Bool.and_eq_true, beq_iff_eq] at this
      rw [this.1.1.1]
      rintro (a | ⟨f, a⟩) <;> cases a

theorem settling_safe {f : State → State} {s : State} (k : (f s).OutputsSafe) : (settling f s).OutputsSafe :=
  settleNew_safe s 6 k

theorem endingRequest_safe {s : State} (h : HoseIx) (r : EndReason) (k : s.OutputsSafe) :
    (endingRequest h r s).OutputsSafe := settling_safe (endRaw_safe h r k)

theorem deadLevelWatch_safe {s : State} (n : Nat) (k : s.OutputsSafe) : (deadLevelWatch n s).OutputsSafe :=
  settling_safe (watchRaw_safe n k)

theorem closeSettled_safe {s : State} (h : HoseIx) (k : s.OutputsSafe) : (closeSettled h s).OutputsSafe := by
  unfold closeSettled; split
  · rename_i e
    exact settling_safe (closeRaw_safe h _ _ _ k (not_fault_of_state k h (by rw [e]; rintro (a | ⟨f, a⟩) <;> cases a)))
  · exact k

/-! ## The zone -/

/-- The outputs are safe but for the zone state: what holds between a change of the zone record and its following. -/
structure SafeButZone (s : State) : Prop where
  commanded : ∀ h, (s.valves.get h).commanded = stageOf (s.hoses.get h).state
  off : ∀ h, (s.valves.get h).duty = 0 → (s.valves.get h).periodDuty = 0 ∧ (s.valves.get h).output = false
  pumps : ∀ p, (s.pumps.get p).state.contactor = true →
    s.pumpOf (s.cfg.pumpTanks.get p) = some p → 0 < s.runCount (s.cfg.pumpTanks.get p)
  held : ∀ h, s.heldRight h

theorem State.OutputsSafe.butZone {s t : State} (k : s.OutputsSafe) (hu : t.unit = s.unit) (hv : t.valves = s.valves)
    (hp : t.pumps = s.pumps) (hh : t.hoses = s.hoses) (hj : t.link.join = s.link.join) : SafeButZone t := by
  refine ⟨fun h => ?_, fun h => ?_, fun p hc hq => ?_, fun h hf => ?_⟩
  · rw [hv, hh]; exact (k.1 h).1
  · rw [hv]; exact (k.1 h).2.2
  · rw [hp] at hc
    rw [pumpOf_congr hu] at hq
    rw [runCount_congr hu hh]
    simp only [State.cfg, hu] at hq ⊢
    exact (k.2.1 p hc).2 hq
  · rw [inConfigFault_congr hj] at hf
    rw [hh]; exact k.2.2 h hf

theorem refreshValves_fold (l : List HoseIx) (s : State) (g : HoseIx) :
    ((l.foldl (fun s h => refreshValve h s) s).valves.get g).commanded = (s.valves.get g).commanded
    ∧ (((s.valves.get g).duty = 0 → (s.valves.get g).periodDuty = 0 ∧ (s.valves.get g).output = false) →
      ((l.foldl (fun s h => refreshValve h s) s).valves.get g).duty = 0 →
        ((l.foldl (fun s h => refreshValve h s) s).valves.get g).periodDuty = 0
          ∧ ((l.foldl (fun s h => refreshValve h s) s).valves.get g).output = false)
    ∧ (g ∈ l ∨ (s.valves.get g).duty = s.dutyFor g →
      ((l.foldl (fun s h => refreshValve h s) s).valves.get g).duty = s.dutyFor g) := by
  induction l generalizing s with
  | nil => exact ⟨rfl, fun h => h, fun h => by simpa using h⟩
  | cons a l ih =>
    simp only [List.foldl_cons]
    obtain ⟨h1, h2, h3⟩ := ih (refreshValve a s)
    have hc : ∀ g, ((refreshValve a s).valves.get g).commanded = (s.valves.get g).commanded := by
      intro g; rw [refreshValve_valves]
      by_cases e : g = a <;> simp [e]
    have hd : (refreshValve a s).dutyFor g = s.dutyFor g :=
      dutyFor_congr ((refreshValve_frame a s) .unit (by decide)) ((refreshValve_frame a s) .tripUnit (by decide))
        ((refreshValve_frame a s).join (by decide)) g (hc g)
    refine ⟨h1.trans (hc g), fun ho => h2 ?_, fun hm => ?_⟩
    · rw [refreshValve_valves]
      by_cases e : g = a
      · subst e; simp only [PerHose.get_set_self]; exact Valve.apply_off _ _ ho
      · rw [PerHose.get_set_ne _ _ e]; exact ho
    · rw [hd] at h3
      refine h3 ?_
      by_cases e : g = a
      · right; subst e; rw [refreshValve_valves]; simp
      · rcases hm with hm | hm
        · left; exact (List.mem_cons.mp hm).resolve_left e
        · right; rw [refreshValve_valves, PerHose.get_set_ne _ _ e]; exact hm

/-- After a refresh of every valve each valve has the duty its stage and the zone allow (R13). -/
theorem refreshValves_driven {s : State} (k : SafeButZone s) (h : HoseIx) :
    ((refreshValves s).valves.get h).commanded = (s.valves.get h).commanded
      ∧ (refreshValves s).drivenRight h := by
  obtain ⟨a, b, c⟩ := refreshValves_fold HoseIx.all s h
  have fr := refreshValves_frame s
  have hd : (refreshValves s).dutyFor h = s.dutyFor h :=
    dutyFor_congr (fr .unit (by decide)) (fr .tripUnit (by decide)) (fr.join (by decide)) h a
  refine ⟨a, ?_, ?_, b (k.off h)⟩
  · rw [show ((refreshValves s).valves.get h).commanded = _ from a, k.commanded h,
      show (refreshValves s).hoses = s.hoses from fr .hoses (by decide)]
  · rw [hd]; exact c (.inl (HoseIx.mem_all h))

theorem tripPump_pump (p q : PumpIx) (s : State) :
    (tripPump p s).pumps.get q = (s.pumps.get q) ∨ ((tripPump p s).pumps.get q).state.contactor = false := by
  unfold tripPump
  split
  case h_4 => exact .inl rfl
  case h_5 => exact .inl rfl
  all_goals
    by_cases e : q = p
    · right; subst e; simp [coolPump, PumpState.contactor]
    · left; simp [coolPump, e]

theorem tripPump_off (p : PumpIx) (s : State) : ((tripPump p s).pumps.get p).state.contactor = false := by
  unfold tripPump
  split <;> simp_all [coolPump, PumpState.contactor]

theorem tripPumps_off (l : List PumpIx) (s : State) (q : PumpIx)
    (hq : q ∈ l ∨ (s.pumps.get q).state.contactor = false) :
    ((l.foldl (fun s p => tripPump p s) s).pumps.get q).state.contactor = false := by
  induction l generalizing s with
  | nil => simpa using hq
  | cons a l ih =>
    refine ih (tripPump a s) ?_
    by_cases e : q = a
    · right; subst e; exact tripPump_off q s
    · rcases hq with hq | hq
      · left; exact (List.mem_cons.mp hq).resolve_left e
      · right
        rcases tripPump_pump a q s with h | h
        · rw [h]; exact hq
        · exact h

/-- Entering TRIPPED makes every output safe again, with every contactor off and every duty 0 (R13, R23). -/
theorem enterTripped_safe {s : State} (k : SafeButZone s) (ht : s.tripped = true) : (enterTripped s).OutputsSafe := by
  unfold enterTripped
  dsimp only
  apply settling_safe
  have base : (PumpIx.all.foldl (fun s p => tripPump p s) (refreshValves s)).OutputsSafe := by
    have fp : sameOutside [.pumps] (refreshValves s) _ :=
      sameOutside.foldl (f := fun s p => tripPump p s) (fun p s => tripPump_frame p s) PumpIx.all (refreshValves s)
    have fr := refreshValves_frame s
    refine ⟨fun h => ?_, fun p hc => ?_, fun h hf => ?_⟩
    · have := (refreshValves_driven k h).2
      unfold State.drivenRight at this ⊢
      rw [dutyFor_congr (fp .unit (by decide)) (fp .tripUnit (by decide)) (fp.join (by decide)) h
        (by rw [fp .valves (by decide)]), fp .valves (by decide), fp .hoses (by decide)]
      exact this
    · rw [tripPumps_off PumpIx.all (refreshValves s) p (.inl (PumpIx.mem_all p))] at hc; cases hc
    · rw [inConfigFault_congr (fp.join (by decide)), inConfigFault_congr (fr.join (by decide))] at hf
      rw [fp .hoses (by decide), fr .hoses (by decide)]
      exact k.held h hf
  have tb : (PumpIx.all.foldl (fun s p => tripPump p s) (refreshValves s)).tripped = true := by
    rw [← ht]
    exact tripped_congr (((refreshValves_frame s).then (sameOutside.foldl (f := fun s p => tripPump p s)
      (fun p s => tripPump_frame p s) PumpIx.all (refreshValves s)) (rs := [.valves, .meters, .pumps]) rfl rfl) .tripUnit (by decide))
  refine safe_foldl (fun h t kt => ?_) HoseIx.all base
  unfold tripHose
  split
  · rename_i e
    refine moveHose_safe h _ kt fun c => absurd c ?_
    simp [not_fault_of_state kt h (by rw [e]; rintro (a | ⟨f, a⟩) <;> cases a)]
  · exact endRaw_safe h _ kt

theorem resumePump_fold (l : List PumpIx) (s : State) (q : PumpIx)
    (hc : ((l.foldl (fun s p => resumePump p s) s).pumps.get q).state.contactor = true) :
    (s.pumps.get q).state.contactor = true ∨ 0 < s.runCount (s.cfg.pumpTanks.get q) := by
  induction l generalizing s with
  | nil => exact .inl hc
  | cons a l ih =>
    have fr := resumePump_frame a s
    rcases ih (resumePump a s) hc with h | h
    · by_cases hb : (s.pumps.get a).state = .off ∧ 0 < s.runCount (s.cfg.pumpTanks.get a) ∧ s.cfg.pumpTanks.get a ≠ 0
      · by_cases e : q = a
        · subst e; exact .inr hb.2.1
        · left; simpa [resumePump, hb, startPump, e] using h
      · left; simpa [resumePump, hb] using h
    · right
      rw [runCount_congr (fr .unit (by decide)) (fr .hoses (by decide))] at h
      simpa only [State.cfg, show (resumePump a s).unit = s.unit from fr .unit (by decide)] using h

/-- Returning to NORMAL makes every output safe again (R13, R23). -/
theorem returnNormal_safe {s : State} (k : SafeButZone s) (ht : s.tripped = false)
    (hp : ∀ p, (s.pumps.get p).state.contactor = false) : (returnNormal s).OutputsSafe := by
  unfold returnNormal
  have fp : sameOutside [.pumps] (refreshValves s) (PumpIx.all.foldl (fun s p => resumePump p s) (refreshValves s)) :=
    .foldl (fun p s => resumePump_frame p s) _ _
  have fr := refreshValves_frame s
  refine ⟨fun h => ?_, fun p hc => ?_, fun h hf => ?_⟩
  · have := (refreshValves_driven k h).2
    unfold State.drivenRight at this ⊢
    rw [dutyFor_congr (fp .unit (by decide)) (fp .tripUnit (by decide)) (fp.join (by decide)) h
      (by rw [fp .valves (by decide)]), fp .valves (by decide), fp .hoses (by decide)]
    exact this
  · refine ⟨by rw [tripped_congr (fp .tripUnit (by decide)), tripped_congr (fr .tripUnit (by decide))]; exact ht,
      fun _ => ?_⟩
    rcases resumePump_fold PumpIx.all (refreshValves s) p hc with h | h
    · rw [show (refreshValves s).pumps = s.pumps from fr .pumps (by decide), hp p] at h; cases h
    · rw [runCount_congr (fp .unit (by decide)) (fp .hoses (by decide))]
      simpa only [State.cfg, show (PumpIx.all.foldl (fun s p => resumePump p s) (refreshValves s)).unit
        = (refreshValves s).unit from fp .unit (by decide)] using h
  · rw [inConfigFault_congr (fp.join (by decide)), inConfigFault_congr (fr.join (by decide))] at hf
    rw [fp .hoses (by decide), fr .hoses (by decide)]
    exact k.held h hf

/-- A change of the zone record with what follows it keeps the outputs safe: the change itself touches no output. -/
theorem zoneFollows_safe {s0 s : State} (k : s0.OutputsSafe) (hu : s.unit = s0.unit) (hv : s.valves = s0.valves)
    (hp : s.pumps = s0.pumps) (hh : s.hoses = s0.hoses) (hj : s.link.join = s0.link.join) :
    (zoneFollows s0 s).OutputsSafe := by
  have b := k.butZone hu hv hp hh hj
  unfold zoneFollows
  split
  · rename_i c
    simp only [Bool.and_eq_true, Bool.not_eq_true'] at c
    exact enterTripped_safe b c.1
  · split
    · rename_i c
      simp only [Bool.and_eq_true, Bool.not_eq_true'] at c
      refine returnNormal_safe b c.2 fun p => ?_
      rw [hp]
      by_contra hc
      have := (k.2.1 p (by simpa using hc)).1
      rw [c.1] at this; cases this
    · rename_i c1 c2
      have ht : s.tripped = s0.tripped := by
        cases e : s.tripped <;> cases e0 : s0.tripped <;> simp_all
      exact SameOutputs.safe ⟨by simp only [State.cfg, hu], ht, inConfigFault_congr hj, fun h => by rw [hh],
        fun h => by rw [hv], fun h => by rw [hv], fun h => by rw [hv]; exact fun _ c => c,
        fun p => by rw [hp]; exact fun c => c⟩ k

/-- The parts of the zone record and of hand-overs, which hold no output. -/
theorem raise_safe {s : State} (c : Cause) (k : s.OutputsSafe) : (raise c s).OutputsSafe := by
  unfold raise
  split
  · exact k
  · have f : sameOutside (.tripUnit :: handing) s (if zoneWideCause c = true then
        announce (s.setTripUnit (s.tripUnit.latch c)) else s.setTripUnit (s.tripUnit.latch c)) :=
      .ite ((setTripUnit_frame _ _).then (announce_frame _) rfl rfl) ((setTripUnit_frame _ _).mono rfl)
    exact zoneFollows_safe k (f .unit (by decide)) (f .valves (by decide)) (f .pumps (by decide))
      (f .hoses (by decide)) (f.join (by decide))

theorem withZone_safe {f : State → State} {s : State} (k : s.OutputsSafe)
    (h : sameOutside [.tripUnit, .counts, .meters, .queue, .read] s (f s)) : (withZone f s).OutputsSafe :=
  zoneFollows_safe k (h .unit (by decide)) (h .valves (by decide)) (h .pumps (by decide)) (h .hoses (by decide))
    (h.join (by decide))

/-! ## Faults -/

theorem stuckOut_safe {f : State → State} {s : State} (k : (f s).OutputsSafe) : (stuckOut f s).OutputsSafe :=
  raise_safe _ (settling_safe k)

theorem valveStuck_safe {s : State} (h : HoseIx) (k : s.OutputsSafe) : (valveStuck h s).OutputsSafe := by
  have n (e : ¬heldState (s.hoses.get h).state) : s.inConfigFault = false := not_fault_of_state k h e
  unfold valveStuck
  split
  · rename_i e
    have f := n (by rw [e]; rintro (a | ⟨f, a⟩) <;> cases a)
    refine stuckOut_safe (closeRaw_safe h _ _ _ (enterEnding_safe h _ k f) ?_)
    rw [inConfigFault_congr ((enterEnding_frame h .valve s).join (by decide))]; exact f
  · rename_i e
    exact stuckOut_safe (closeRaw_safe h _ _ _ k (n (by rw [e]; rintro (a | ⟨f, a⟩) <;> cases a)))
  · exact k
  · exact k
  · exact k
  all_goals exact stuckOut_safe (moveHose_safe h _ k fun _ => .inr ⟨_, rfl⟩)

theorem checkStuck_safe {s : State} (h : HoseIx) (k : s.OutputsSafe) : (checkStuck h s).OutputsSafe := by
  unfold checkStuck
  split
  · exact valveStuck_safe h ((SameOutputs.setValve (by rfl) (by rfl) (by exact fun _ c => c)).safe k)
  · exact k

theorem meterFault_safe {s : State} (h : HoseIx) (k : s.OutputsSafe) : (meterFault h s).OutputsSafe := by
  have m : (markMeter h s).OutputsSafe := (SameOutputs.setHose (by rfl)).safe k
  unfold meterFault
  split
  case h_4 => exact m
  case h_5 => exact k
  all_goals first | exact endingRequest_safe h _ m | exact moveHose_safe h _ k fun _ => .inr ⟨_, rfl⟩

theorem faultPump_safe {s : State} (p : PumpIx) (k : s.OutputsSafe) : (faultPump p s).OutputsSafe :=
  settling_safe (endAll_safe _ _ ((SameOutputs.setPump (by simp [PumpState.contactor])).safe k))

theorem exitPriming_safe {s : State} (h : HoseIx) (k : s.OutputsSafe) : (exitPriming h s).OutputsSafe := by
  unfold exitPriming
  dsimp only
  split
  · rename_i e _
    have f : s.inConfigFault = false := not_fault_of_state k h (by rw [e]; rintro (a | ⟨f, a⟩) <;> cases a)
    have mv : ∀ st, (moveHose h st s).OutputsSafe := fun st => moveHose_safe h st k (by simp [f])
    split
    · exact endingRequest_safe h _ k
    · split
      · exact endingRequest_safe h _ k
      · split <;> exact mv _
  · exact k

/-! ## Taking a frame -/

theorem takeHead_safe {b : Block} {ks : List FrameKind} {f : Frame → State → State} {s : State} (k : s.OutputsSafe)
    (hf : ∀ a t, t.OutputsSafe → (f a t).OutputsSafe) : (takeHead b ks f s).OutputsSafe := by
  have d : ∀ t, t.OutputsSafe → (dropHead t).OutputsSafe := fun t h => (SameOutputs.setLink (by rfl)).safe h
  have m : ∀ t, t.OutputsSafe → (markHead b t).OutputsSafe := by
    intro t h; unfold markHead; split
    · exact h
    · exact (SameOutputs.setLink (by rfl)).safe h
  unfold takeHead
  split
  · exact k
  · split
    · exact k
    · split
      · exact k
      · split
        · exact ((countMalformed_frame _).outputs (by decide)).safe (d _ k)
        · exact ((refuse_frame _ _ _ _ _).outputs (by decide)).safe (d _ k)
        · dsimp only
          split
          · exact d _ k
          · split
            · exact k
            · refine hf _ _ ?_
              split
              · exact d _ k
              · exact m _ k

end Sys2Proof.Machine
end

