-- ==== Sys2Proof/WellFormed.lean ====
section
/-! DEFINITION. Which operands a command can carry: the widths the manual gives the counts, addresses and fields
that the operands stand for. A command with other operands is no event of the part. -/

namespace Sys2Proof

/-- A tag frame's machine id and hours travel in 24 bits each (R187 gives their fields three characters); their
validity is R29's own test, made when the frame is taken. -/
def tagFieldFits (n : Nat) : Bool := decide (n < 16777216)

/-- A peer-table address is a station address, 1 to 47 (R192). -/
def stationAddress (a : Nat) : Bool := decide (1 ≤ a) && decide (a ≤ 47)

/-- The operands of a command lie in the ranges of what they stand for: machine ids of permits (R83), tag fields
(R29), probe counts of 16 bits (R200), peer addresses (R192), six strap pins (R199), at most 798 characters read
(R200), at most six retained deliveries to close (R204). -/
def Instr.wellFormed : Instr → Bool
  | .tagFrame _ _ machine hours => tagFieldFits machine && (hours.all tagFieldFits)
  | .permitExpiry machine _ _ => decide (1 ≤ machine) && decide (machine ≤ 16777214)
  | .probeGateClose _ count => decide (count < 65536)
  | .peerQuietExpiry address _ => stationAddress address
  | .peerLostExpiry address _ => stationAddress address
  | .powerOn strap image _ lostAfter =>
    decide (strap < 64) && decide (image.length ≤ 798) && lostAfter.all fun n => decide (n ≤ 6)
  | .qualifiedPhaseChange _ _ _ _ _ => true
  | .creepWindowExpiry _ => true
  | .rateWindowExpiry _ _ => true
  | .meterSettled _ _ => true
  | .drivePeriodStart _ _ => true
  | .dutyOnTimeEnd _ _ => true
  | .valveProofChange _ _ _ => true
  | .zeroDutySettle _ _ => true
  | .flowPastExpiry _ _ => true
  | .pumpSettleExpiry _ _ => true
  | .pumpProofChange _ _ _ => true
  | .minimumOffExpiry _ _ => true
  | .nozzleHookChange _ _ _ => true
  | .claimTimerExpiry _ _ => true
  | .tagGraceExpiry _ _ => true
  | .noFlowTimeout _ _ => true
  | .lampFlashToggle _ _ => true
  | .drawBook => true
  | .drawAccount => true
  | .receipt => true
  | .level => true
  | .gaugeAgeExpiry _ _ => true
  | .conflictTimerExpiry _ => true
  | .scanTimerExpiry _ => true
  | .spillInputConfirm _ _ _ => true
  | .emergencyStop _ _ => true
  | .tripResetKey _ => true
  | .keyRelease _ => true
  | .overrideHoldExpiry _ => true
  | .trip => true
  | .clear => true
  | .beacon => true
  | .peerTableUpdate => true
  | .beaconTimerExpiry _ => true
  | .rosterSet => true
  | .rosterRemove => true
  | .permit => true
  | .accountRead => true
  | .journalRead => true
  | .collect => true
  | .stopHose => true
  | .statusReq => true
  | .identReq => true
  | .restart => true
  | .time => true
  | .unknownKindFrame => true
  | .characterReceived _ _ _ => true
  | .characterTimeout _ => true
  | .accessGapReached _ => true
  | .leadTimeEnd => true
  | .echoMismatch => true
  | .frameSent => true
  | .joinTimerExpiry _ => true
  | .isolationHoldExpiry _ => true
  | .mainPowerLoss => true

end Sys2Proof
end

