-- ==== Sys2Proof/Laws/PerInstr.lean ====
section
/-! SUPPORT. The families of statements made once for each constructor of `Instr`. "Operands": the well-formedness test
admits exactly the operands whose ranges the manual gives (R29, R83, R192, R199, R200, R204; log 26). -/

namespace Sys2Proof.Laws

/-- The ranges of a command's operands, as inequalities. -/
def Operands.Ranges : Instr → Prop
  | .qualifiedPhaseChange _ _ _ _ _ => True
  | .creepWindowExpiry _ => True
  | .rateWindowExpiry _ _ => True
  | .meterSettled _ _ => True
  | .drivePeriodStart _ _ => True
  | .dutyOnTimeEnd _ _ => True
  | .valveProofChange _ _ _ => True
  | .zeroDutySettle _ _ => True
  | .flowPastExpiry _ _ => True
  | .pumpSettleExpiry _ _ => True
  | .pumpProofChange _ _ _ => True
  | .minimumOffExpiry _ _ => True
  | .nozzleHookChange _ _ _ => True
  | .tagFrame _ _ machine hours => machine < 16777216 ∧ ∀ n, hours = some n → n < 16777216
  | .claimTimerExpiry _ _ => True
  | .tagGraceExpiry _ _ => True
  | .noFlowTimeout _ _ => True
  | .lampFlashToggle _ _ => True
  | .permitExpiry machine _ _ => 1 ≤ machine ∧ machine ≤ 16777214
  | .drawBook => True
  | .drawAccount => True
  | .receipt => True
  | .level => True
  | .gaugeAgeExpiry _ _ => True
  | .conflictTimerExpiry _ => True
  | .scanTimerExpiry _ => True
  | .probeGateClose _ count => count < 65536
  | .spillInputConfirm _ _ _ => True
  | .emergencyStop _ _ => True
  | .tripResetKey _ => True
  | .keyRelease _ => True
  | .overrideHoldExpiry _ => True
  | .trip => True
  | .clear => True
  | .beacon => True
  | .peerTableUpdate => True
  | .peerQuietExpiry address _ => 1 ≤ address ∧ address ≤ 47
  | .peerLostExpiry address _ => 1 ≤ address ∧ address ≤ 47
  | .beaconTimerExpiry _ => True
  | .rosterSet => True
  | .rosterRemove => True
  | .permit => True
  | .accountRead => True
  | .journalRead => True
  | .collect => True
  | .stopHose => True
  | .statusReq => True
  | .identReq => True
  | .restart => True
  | .time => True
  | .unknownKindFrame => True
  | .characterReceived _ _ _ => True
  | .characterTimeout _ => True
  | .accessGapReached _ => True
  | .leadTimeEnd => True
  | .echoMismatch => True
  | .frameSent => True
  | .joinTimerExpiry _ => True
  | .isolationHoldExpiry _ => True
  | .powerOn strap image _ lostAfter => strap < 64 ∧ image.length ≤ 798 ∧ ∀ n, lostAfter = some n → n ≤ 6
  | .mainPowerLoss => True

/-- The well-formedness test decides the ranges. -/
def Operands.Statement (i : Instr) : Prop := i.wellFormed = true ↔ Operands.Ranges i

theorem Operands.qualifiedPhaseChange (h : HoseIx) (levelA : Bool) (heldA : Nat) (levelB : Bool) (heldB : Nat) :
    Operands.Statement (.qualifiedPhaseChange h levelA heldA levelB heldB) := iff_of_true rfl trivial

theorem Operands.creepWindowExpiry (now : Instant) :
    Operands.Statement (.creepWindowExpiry now) := iff_of_true rfl trivial

theorem Operands.rateWindowExpiry (h : HoseIx) (now : Instant) :
    Operands.Statement (.rateWindowExpiry h now) := iff_of_true rfl trivial

theorem Operands.meterSettled (h : HoseIx) (now : Instant) :
    Operands.Statement (.meterSettled h now) := iff_of_true rfl trivial

theorem Operands.drivePeriodStart (h : HoseIx) (now : Instant) :
    Operands.Statement (.drivePeriodStart h now) := iff_of_true rfl trivial

theorem Operands.dutyOnTimeEnd (h : HoseIx) (now : Instant) :
    Operands.Statement (.dutyOnTimeEnd h now) := iff_of_true rfl trivial

theorem Operands.valveProofChange (h : HoseIx) (closed : Bool) (heldMs : Nat) :
    Operands.Statement (.valveProofChange h closed heldMs) := iff_of_true rfl trivial

theorem Operands.zeroDutySettle (h : HoseIx) (now : Instant) :
    Operands.Statement (.zeroDutySettle h now) := iff_of_true rfl trivial

theorem Operands.flowPastExpiry (h : HoseIx) (now : Instant) :
    Operands.Statement (.flowPastExpiry h now) := iff_of_true rfl trivial

theorem Operands.pumpSettleExpiry (p : PumpIx) (now : Instant) :
    Operands.Statement (.pumpSettleExpiry p now) := iff_of_true rfl trivial

theorem Operands.pumpProofChange (p : PumpIx) (present : Bool) (heldMs : Nat) :
    Operands.Statement (.pumpProofChange p present heldMs) := iff_of_true rfl trivial

theorem Operands.minimumOffExpiry (p : PumpIx) (now : Instant) :
    Operands.Statement (.minimumOffExpiry p now) := iff_of_true rfl trivial

theorem Operands.nozzleHookChange (h : HoseIx) (offHook : Bool) (heldMs : Nat) :
    Operands.Statement (.nozzleHookChange h offHook heldMs) := iff_of_true rfl trivial

theorem Operands.tagFrame (h : HoseIx) (checkGood : Bool) (machine : Nat) (hours : Option Nat) :
    Operands.Statement (.tagFrame h checkGood machine hours) := by
  cases hours <;> simp [Operands.Statement, Operands.Ranges, Instr.wellFormed, tagFieldFits]

theorem Operands.claimTimerExpiry (h : HoseIx) (now : Instant) :
    Operands.Statement (.claimTimerExpiry h now) := iff_of_true rfl trivial

theorem Operands.tagGraceExpiry (h : HoseIx) (now : Instant) :
    Operands.Statement (.tagGraceExpiry h now) := iff_of_true rfl trivial

theorem Operands.noFlowTimeout (h : HoseIx) (now : Instant) :
    Operands.Statement (.noFlowTimeout h now) := iff_of_true rfl trivial

theorem Operands.lampFlashToggle (h : HoseIx) (now : Instant) :
    Operands.Statement (.lampFlashToggle h now) := iff_of_true rfl trivial

theorem Operands.permitExpiry (machine : Nat) (product : Product) (now : Instant) :
    Operands.Statement (.permitExpiry machine product now) := by
  simp [Operands.Statement, Operands.Ranges, Instr.wellFormed]

theorem Operands.drawBook :
    Operands.Statement .drawBook := iff_of_true rfl trivial

theorem Operands.drawAccount :
    Operands.Statement .drawAccount := iff_of_true rfl trivial

theorem Operands.receipt :
    Operands.Statement .receipt := iff_of_true rfl trivial

theorem Operands.level :
    Operands.Statement .level := iff_of_true rfl trivial

theorem Operands.gaugeAgeExpiry (k : BookIx) (now : Instant) :
    Operands.Statement (.gaugeAgeExpiry k now) := iff_of_true rfl trivial

theorem Operands.conflictTimerExpiry (now : Instant) :
    Operands.Statement (.conflictTimerExpiry now) := iff_of_true rfl trivial

theorem Operands.scanTimerExpiry (now : Instant) :
    Operands.Statement (.scanTimerExpiry now) := iff_of_true rfl trivial

theorem Operands.probeGateClose (c : ProbeIx) (count : Nat) :
    Operands.Statement (.probeGateClose c count) := by
  simp [Operands.Statement, Operands.Ranges, Instr.wellFormed]

theorem Operands.spillInputConfirm (i : InputIx) (contactClosed : Bool) (heldMs : Nat) :
    Operands.Statement (.spillInputConfirm i contactClosed heldMs) := iff_of_true rfl trivial

theorem Operands.emergencyStop (pressed : Bool) (heldMs : Nat) :
    Operands.Statement (.emergencyStop pressed heldMs) := iff_of_true rfl trivial

theorem Operands.tripResetKey (heldMs : Nat) :
    Operands.Statement (.tripResetKey heldMs) := iff_of_true rfl trivial

theorem Operands.keyRelease (heldMs : Nat) :
    Operands.Statement (.keyRelease heldMs) := iff_of_true rfl trivial

theorem Operands.overrideHoldExpiry (now : Instant) :
    Operands.Statement (.overrideHoldExpiry now) := iff_of_true rfl trivial

theorem Operands.trip :
    Operands.Statement .trip := iff_of_true rfl trivial

theorem Operands.clear :
    Operands.Statement .clear := iff_of_true rfl trivial

theorem Operands.beacon :
    Operands.Statement .beacon := iff_of_true rfl trivial

theorem Operands.peerTableUpdate :
    Operands.Statement .peerTableUpdate := iff_of_true rfl trivial

theorem Operands.peerQuietExpiry (address : Nat) (now : Instant) :
    Operands.Statement (.peerQuietExpiry address now) := by
  simp [Operands.Statement, Operands.Ranges, Instr.wellFormed, stationAddress]

theorem Operands.peerLostExpiry (address : Nat) (now : Instant) :
    Operands.Statement (.peerLostExpiry address now) := by
  simp [Operands.Statement, Operands.Ranges, Instr.wellFormed, stationAddress]

theorem Operands.beaconTimerExpiry (now : Instant) :
    Operands.Statement (.beaconTimerExpiry now) := iff_of_true rfl trivial

theorem Operands.rosterSet :
    Operands.Statement .rosterSet := iff_of_true rfl trivial

theorem Operands.rosterRemove :
    Operands.Statement .rosterRemove := iff_of_true rfl trivial

theorem Operands.permit :
    Operands.Statement .permit := iff_of_true rfl trivial

theorem Operands.accountRead :
    Operands.Statement .accountRead := iff_of_true rfl trivial

theorem Operands.journalRead :
    Operands.Statement .journalRead := iff_of_true rfl trivial

theorem Operands.collect :
    Operands.Statement .collect := iff_of_true rfl trivial

theorem Operands.stopHose :
    Operands.Statement .stopHose := iff_of_true rfl trivial

theorem Operands.statusReq :
    Operands.Statement .statusReq := iff_of_true rfl trivial

theorem Operands.identReq :
    Operands.Statement .identReq := iff_of_true rfl trivial

theorem Operands.restart :
    Operands.Statement .restart := iff_of_true rfl trivial

theorem Operands.time :
    Operands.Statement .time := iff_of_true rfl trivial

theorem Operands.unknownKindFrame :
    Operands.Statement .unknownKindFrame := iff_of_true rfl trivial

theorem Operands.characterReceived (data : Byte) (marked : Bool) (stopGood : Bool) :
    Operands.Statement (.characterReceived data marked stopGood) := iff_of_true rfl trivial

theorem Operands.characterTimeout (waited : Nat) :
    Operands.Statement (.characterTimeout waited) := iff_of_true rfl trivial

theorem Operands.accessGapReached (silence : Nat) :
    Operands.Statement (.accessGapReached silence) := iff_of_true rfl trivial

theorem Operands.leadTimeEnd :
    Operands.Statement .leadTimeEnd := iff_of_true rfl trivial

theorem Operands.echoMismatch :
    Operands.Statement .echoMismatch := iff_of_true rfl trivial

theorem Operands.frameSent :
    Operands.Statement .frameSent := iff_of_true rfl trivial

theorem Operands.joinTimerExpiry (now : Instant) :
    Operands.Statement (.joinTimerExpiry now) := iff_of_true rfl trivial

theorem Operands.isolationHoldExpiry (now : Instant) :
    Operands.Statement (.isolationHoldExpiry now) := iff_of_true rfl trivial

theorem Operands.powerOn (strap : Nat) (image : List Byte) (domainHeld : Bool) (lostAfter : Option Nat) :
    Operands.Statement (.powerOn strap image domainHeld lostAfter) := by
  cases lostAfter <;>
    simp [Operands.Statement, Operands.Ranges, Instr.wellFormed, and_assoc]

theorem Operands.mainPowerLoss :
    Operands.Statement .mainPowerLoss := iff_of_true rfl trivial

end Sys2Proof.Laws
end

