-- ==== Sys2Proof/Laws/Settling.lean ====
section
/-! SUPPORT. What requests that end several deliveries at once do to each: it settles in ENDING, or is among the closes that
follow at once (R43 to R45); and what the dead-level watch does (R92). -/

namespace Sys2Proof.Machine

/-! ## One hose beside the others -/

/-- What an ending request, or the close of another hose, leaves of a hose: the hose, its meter channel, its valve. -/
def SameHose (g : HoseIx) (s t : State) : Prop :=
  t.hoses.get g = s.hoses.get g ∧ t.meters.get g = s.meters.get g ∧ t.valves.get g = s.valves.get g

theorem SameHose.refl (g : HoseIx) (s : State) : SameHose g s s := ⟨rfl, rfl, rfl⟩

theorem SameHose.trans {g : HoseIx} {s t u : State} (h : SameHose g s t) (k : SameHose g t u) : SameHose g s u :=
  ⟨k.1.trans h.1, k.2.1.trans h.2.1, k.2.2.trans h.2.2⟩

theorem SameHose.of_frame {ps : List Part} {g : HoseIx} {s t : State} (f : sameOutside ps s t) (h1 : Part.hoses ∉ ps)
    (h2 : Part.meters ∉ ps) (h3 : Part.valves ∉ ps) : SameHose g s t :=
  ⟨congrArg (·.get g) (f .hoses h1), congrArg (·.get g) (f .meters h2), congrArg (·.get g) (f .valves h3)⟩

/-- A move of a hose leaves the other hoses. -/
theorem moveHose_others {h g : HoseIx} (st : HoseState) (s : State) (hg : g ≠ h) : SameHose g s (moveHose h st s) :=
  ⟨by simp [hg], moveHose_meter_ne h st s hg, by simp [moveHose_valves, hg]⟩

/-- The entry of a hose to ENDING leaves the other hoses. -/
theorem enterEnding_others {h g : HoseIx} (r : EndReason) (s : State) (hg : g ≠ h) : SameHose g s (enterEnding h r s) := by
  unfold enterEnding
  exact SameHose.trans (t := s.setHose h _) ⟨by simp [hg], rfl, rfl⟩ (moveHose_others _ _ hg)

/-- An ending request leaves every hose that is not drawing, and every hose but its own. -/
theorem endRaw_others {h g : HoseIx} (r : EndReason) (s : State) (hg : g ≠ h ∨ runState (s.hoses.get g).state = false) :
    SameHose g s (endRaw h r s) := by
  by_cases hr : runState (s.hoses.get h).state = true
  · rw [endRaw_run r hr]
    refine enterEnding_others r s fun e => ?_
    subst e
    rcases hg with k | k
    · exact k rfl
    · rw [k] at hr; cases hr
  · rw [endRaw_rest r (by simpa using hr)]; exact .refl _ _

/-- Ending requests leave every hose that is not drawing, and every hose not asked. -/
theorem endAll_others {g : HoseIx} (r : EndReason) : ∀ (hs : List HoseIx) (s : State),
    g ∉ hs ∨ runState (s.hoses.get g).state = false → SameHose g s (endAll hs r s)
  | [], s, _ => .refl _ _
  | a :: hs, s, hg => by
    have k : SameHose g s (endRaw a r s) := endRaw_others r s (hg.imp (fun h e => h (by simp [e])) id)
    refine k.trans (endAll_others r hs _ (hg.imp (fun h e => h (by simp [e])) fun h => ?_))
    rw [k.1]; exact h

theorem watchRaw_others {g : HoseIx} {tank : Nat} {s : State}
    (hg : runState (s.hoses.get g).state = false ∨ s.liveTank g ≠ some tank) : SameHose g s (watchRaw tank s) := by
  unfold watchRaw
  split
  · refine endAll_others _ _ _ (hg.symm.imp (fun h e => h ?_) id)
    simpa [State.liveOn] using (List.mem_filter.mp e).2
  · exact .refl _ _

/-- Ending requests keep which hoses hold a live delivery (R27, R43). -/
theorem endRaw_live {h g : HoseIx} (r : EndReason) (s : State) :
    liveState ((endRaw h r s).hoses.get g).state = liveState (s.hoses.get g).state := by
  by_cases hr : runState (s.hoses.get h).state = true
  · by_cases e : g = h
    · subst e
      rw [endRaw_run r hr, liveState_run hr]
      unfold enterEnding; simp [Hose.enter, liveState]
    · rw [(endRaw_others r s (.inl e)).1]
  · rw [endRaw_rest r (by simpa using hr)]

theorem endAll_live {g : HoseIx} (r : EndReason) : ∀ (hs : List HoseIx) (s : State),
    liveState ((endAll hs r s).hoses.get g).state = liveState (s.hoses.get g).state
  | [], _ => rfl
  | a :: hs, s => (endAll_live r hs (endRaw a r s)).trans (endRaw_live r s)

theorem watchRaw_live {g : HoseIx} (tank : Nat) (s : State) :
    liveState ((watchRaw tank s).hoses.get g).state = liveState (s.hoses.get g).state := by
  unfold watchRaw; split
  · exact endAll_live _ _ _
  · rfl

/-- A close in its parts: the move, the hand-off, the watch. -/
theorem closeRaw_parts {s : State} {h : HoseIx} {l : Live} (r : EndReason) (hl : (s.hoses.get h).live = some l) :
    ∃ x m u, x = { s.hoses.get h with
          live := none, meterMark := false
          overrun := if r = .preset then learned l.overrunUsed (observedOverrun (s.hoseCfg h).meterK
              (l.closeCount.getD (s.meters.get h).net) (s.meters.get h).net) else (s.hoses.get h).overrun }
      ∧ m = moveHose h (afterClose (s.hoses.get h) none r) (s.setHose h x)
      ∧ u = handOff (closedOf h l (s.meters.get h).net r s) m
      ∧ (closeRaw h true none r s = u ∨ closeRaw h true none r s = watchRaw l.tank u) := by
  refine ⟨_, _, _, rfl, rfl, rfl, ?_⟩
  unfold closeRaw
  simp only [hl, true_and]
  split
  · exact .inl rfl
  · exact .inr rfl

/-- A close leaves every other hose that is not drawing on its tank. -/
theorem closeRaw_others {s : State} {h g : HoseIx} {r : EndReason} (hg : g ≠ h)
    (hr : runState (s.hoses.get g).state = false ∨ ∀ l, (s.hoses.get h).live = some l → s.liveTank g ≠ some l.tank) :
    SameHose g s (closeRaw h true none r s) := by
  rcases hl : (s.hoses.get h).live with _ | l
  · simp only [closeRaw, hl]; exact .refl _ _
  · obtain ⟨x, m, u, hx, hm, hu, ht⟩ := closeRaw_parts r hl
    have k : SameHose g s u := by
      refine SameHose.trans (t := s.setHose h x) ⟨by simp [hg], rfl, rfl⟩ ?_
      refine (moveHose_others _ _ hg).trans (t := moveHose h (afterClose (s.hoses.get h) none r) (s.setHose h x)) ?_
      rw [← hm, hu]
      exact .of_frame (handOff_frame _ _) (by decide) (by decide) (by decide)
    rcases ht with e | e <;> rw [e]
    · exact k
    · refine k.trans (watchRaw_others ?_)
      rw [k.1]
      refine hr.imp id fun h' => ?_
      simpa only [State.liveTank, k.1] using h' l hl

/-- The closed hose itself: what `closeRaw` leaves of it. -/
theorem closeRaw_self {s : State} {h : HoseIx} {l : Live} {r : EndReason} (hl : (s.hoses.get h).live = some l) :
    let t := closeRaw h true none r s
    (t.hoses.get h).state = afterClose (s.hoses.get h) none r ∧ (t.hoses.get h).live = none
      ∧ (r ≠ .preset → (t.hoses.get h).overrun = (s.hoses.get h).overrun)
      ∧ (t.meters.get h).net = (s.meters.get h).net
      ∧ (t.valves.get h).commanded = .shut ∧ (t.valves.get h).duty = 0 ∧ (t.valves.get h).flowPast = none
      ∧ (0 < volume (s.hoseCfg h).meterK (s.meters.get h).net → ∃ a d, t.journal.records = a ++ [d]
        ∧ d.hose = h ∧ d.machine = l.machine ∧ d.hours = l.hours ∧ d.product = l.product ∧ d.tank = l.tank
        ∧ d.limit = l.limit ∧ d.quantity = volume (s.hoseCfg h).meterK (s.meters.get h).net ∧ d.reason = r
        ∧ d.startTime = l.startTime ∧ d.collected = false) := by
  intro t
  obtain ⟨x, m, u, hx, hm, hu, ht⟩ := closeRaw_parts r hl
  have hst := afterClose_rest (s.hoses.get h) r
  have fo : sameOutside handOffParts m u := by rw [hu]; exact handOff_frame _ _
  have hhs : u.hoses.get h = x.enter (afterClose (s.hoses.get h) none r) := by
    rw [show u.hoses = m.hoses from fo .hoses (by decide), hm]; simp
  have hrun : runState (u.hoses.get h).state = false := by rw [hhs]; exact hst.2.1
  have k : SameHose h u t := by
    rcases ht with e | e
    · rw [show t = u from e]; exact .refl _ _
    · rw [show t = _ from e]; exact watchRaw_others (.inl hrun)
  have hj : t.journal.records = u.journal.records := by
    rcases ht with e | e
    · rw [show t = u from e]
    · rw [show t = _ from e]; exact (watchRaw_frame _ _).records (by decide)
  have hv : t.valves.get h = m.valves.get h := by rw [k.2.2, show u.valves = m.valves from fo .valves (by decide)]
  refine ⟨?_, ?_, fun hr => ?_, ?_, ?_, ?_, ?_, fun hq => ?_⟩
  · rw [k.1, hhs]; rfl
  · rw [k.1, hhs, hx]; rfl
  · rw [k.1, hhs, hx]; simp [Hose.enter, hr]
  · rw [k.2.1, show u.meters = m.meters from fo .meters (by decide), hm, moveHose_net]; rfl
  · rw [hv, hm]; simp [moveHose_valves, Valve.apply_commanded, hst.2.2.1]
  · rw [hv, hm]; simp [moveHose_valves, hst.2.2.1, stageDuty]
  · rw [hv, hm]; simp [moveHose_valves, Valve.apply_flowPast, hst.2.2.2]
  · have hh := (handOff_handedOn m (c := closedOf h l (s.meters.get h).net r s) (Nat.ne_of_gt hq)).2.1
    rw [← hu] at hh
    exact ⟨_, _, hj.trans hh, rfl, rfl, rfl, rfl, rfl, rfl, rfl, rfl, rfl, rfl⟩

/-- A close adds one record at most, and takes one off at most. -/
theorem closeRaw_records (h : HoseIx) (r : EndReason) (s : State) :
    (closeRaw h true none r s).journal.records = s.journal.records
      ∨ ∃ d, (closeRaw h true none r s).journal.records
        = (if s.journal.records.length < 128 then s.journal.records else s.journal.records.drop 1) ++ [d] := by
  rcases hl : (s.hoses.get h).live with _ | l
  · left; simp only [closeRaw, hl]
  · obtain ⟨x, m, u, hx, hm, hu, ht⟩ := closeRaw_parts r hl
    have hj : (closeRaw h true none r s).journal.records = u.journal.records := by
      rcases ht with e | e <;> rw [e]
      exact (watchRaw_frame _ _).records (by decide)
    have hmj : m.journal.records = s.journal.records := by
      rw [hm]; exact ((setHose_frame s h x).then (moveHose_frame _ _ _) (rs := moving) rfl rfl).records (by decide)
    rw [hj]
    by_cases hq : (closedOf h l (s.meters.get h).net r s).quantity = 0
    · left; rw [hu, (handOff_released m hq).1]; exact hmj
    · right
      have := (handOff_handedOn m hq).2.1
      rw [← hu, hmj] at this
      exact ⟨_, this⟩

theorem closeRaw_live {s : State} {h g : HoseIx} {l : Live} {r : EndReason} (hl : (s.hoses.get h).live = some l)
    (hg : g ≠ h) : liveState ((closeRaw h true none r s).hoses.get g).state = liveState (s.hoses.get g).state := by
  obtain ⟨x, m, u, hx, hm, hu, ht⟩ := closeRaw_parts r hl
  have k : u.hoses.get g = s.hoses.get g := by
    rw [hu, show _ = m.hoses from handOff_frame _ _ .hoses (by decide), hm]; simp [hg]
  rcases ht with e | e <;> rw [e]
  · rw [k]
  · rw [watchRaw_live, k]

theorem nextSettled_some {s0 s : State} {h : HoseIx} (hn : nextSettled s0 s = some h) :
    (s.hoses.get h).state = .ending ∧ (s0.hoses.get h).state ≠ .ending ∧ (s.hoses.get h).live.isSome
      ∧ s.quietForSettle h = true := by
  have := List.find?_some hn
  simpa [and_assoc] using this

/-- The closes that follow at once leave every hose that is not drawing and not one of them (R45). -/
theorem settleNew_others {s0 : State} {g : HoseIx} : ∀ (n : Nat) (s : State),
    runState (s.hoses.get g).state = false →
    ((s.hoses.get g).state ≠ .ending ∨ (s0.hoses.get g).state = .ending ∨ s.quietForSettle g = false) →
    SameHose g s (settleNew s0 n s)
  | 0, s, _, _ => .refl _ _
  | n + 1, s, hr, hn => by
    unfold settleNew
    split
    · exact .refl _ _
    · rename_i h he
      obtain ⟨h1, h2, -, h3⟩ := nextSettled_some he
      have hg : g ≠ h := fun e => by
        subst e
        rcases hn with k | k | k
        · exact k h1
        · exact h2 k
        · rw [h3] at k; cases k
      have k := closeRaw_others (r := reasonOr (s.hoses.get h) .preset) hg (.inl hr)
      have hu : (closeRaw h true none (reasonOr (s.hoses.get h) .preset) s).unit = s.unit :=
        closeRaw_frame _ _ _ _ _ .unit (by decide)
      refine k.trans (settleNew_others n _ (by rw [k.1]; exact hr) ?_)
      rw [k.1]
      simpa only [State.quietForSettle, State.cfg, hu, k.2.1] using hn

/-- A record stays in the journal through the few closes that follow at once. -/
theorem settleNew_record {s0 : State} {d : DeliveryRecord} : ∀ (n : Nat) (s : State) (a b : List DeliveryRecord),
    s.journal.records = a ++ d :: b → b.length + n < 127 → d ∈ (settleNew s0 n s).journal.records
  | 0, s, a, b, h, _ => by simp [settleNew, h]
  | n + 1, s, a, b, h, hb => by
    unfold settleNew
    split
    · simp [h]
    · rename_i g he
      rcases closeRaw_records g (reasonOr (s.hoses.get g) .preset) s with e | ⟨d', e⟩
      · exact settleNew_record n _ a b (e.trans h) (by omega)
      · rw [h] at e
        by_cases hlen : (a ++ d :: b).length < 128
        · rw [if_pos hlen] at e
          exact settleNew_record n _ a (b ++ [d']) (by rw [e]; simp) (by simp; omega)
        · rw [if_neg hlen] at e
          have ha : 1 ≤ a.length := by simp at hlen; omega
          refine settleNew_record n _ (a.drop 1) (b ++ [d']) ?_ (by simp; omega)
          rw [e, List.drop_append_of_le_length ha]; simp

theorem countP_lt {α : Type} {p q : α → Bool} : ∀ {l : List α}, (∀ a ∈ l, q a = true → p a = true) →
    ∀ {x}, x ∈ l → p x = true → q x = false → l.countP q < l.countP p
  | a :: l, h, x, hx, hp, hq => by
    have ih : l.countP q ≤ l.countP p := List.countP_mono_left fun b hb => h b (by simp [hb])
    rcases List.mem_cons.mp hx with e | hm
    · subst e; simp [hp, hq]; omega
    · have k := countP_lt (l := l) (fun b hb => h b (by simp [hb])) hm hp hq
      have ha := h a (by simp)
      rw [List.countP_cons, List.countP_cons]
      cases hqa : q a <;> cases hpa : p a <;> simp_all

/-- The number of hoses with a live delivery. -/
def State.liveCount (s : State) : Nat := HoseIx.all.countP fun g => liveState (s.hoses.get g).state

/-- What the close of a hose's delivery has left of the hose since `s` (R48, R50). -/
structure HoseClosed (h : HoseIx) (l : Live) (r : EndReason) (s t : State) : Prop where
  state : (t.hoses.get h).state = afterClose (s.hoses.get h) none r
  live : (t.hoses.get h).live = none
  overrun : r ≠ .preset → (t.hoses.get h).overrun = (s.hoses.get h).overrun
  net : (t.meters.get h).net = (s.meters.get h).net
  commanded : (t.valves.get h).commanded = .shut
  duty : (t.valves.get h).duty = 0
  flowPast : (t.valves.get h).flowPast = none
  record : 0 < volume (s.hoseCfg h).meterK (s.meters.get h).net → ∃ d ∈ t.journal.records,
    d.hose = h ∧ d.machine = l.machine ∧ d.hours = l.hours ∧ d.product = l.product ∧ d.tank = l.tank
      ∧ d.limit = l.limit ∧ d.quantity = volume (s.hoseCfg h).meterK (s.meters.get h).net ∧ d.reason = r
      ∧ d.startTime = l.startTime ∧ d.collected = false

/-- A hose in ENDING with a quiet meter is closed by the closes that follow at once (R45). -/
theorem settleNew_self {s0 : State} {h : HoseIx} {l : Live} {r : EndReason} (hr : l.endReason = some r)
    (h0 : (s0.hoses.get h).state ≠ .ending) (n : Nat) : ∀ s : State, s.liveCount ≤ n → n ≤ 6 →
    (s.hoses.get h).state = .ending → (s.hoses.get h).live = some l → s.quietForSettle h = true →
    HoseClosed h l r s (settleNew s0 n s) := by
  induction n with
  | zero =>
    intro s hc _ hs _ _
    have : 0 < s.liveCount := List.countP_pos_iff.mpr ⟨h, HoseIx.mem_all h, by rw [hs]; rfl⟩
    omega
  | succ n ih =>
    intro s hc h6 hs hl hq
    rw [settleNew]
    split
    · rename_i he
      have := List.find?_eq_none.mp he h (HoseIx.mem_all h)
      simp [hs, h0, hq, hl] at this
    · rename_i g he
      obtain ⟨g1, -, g3, -⟩ := nextSettled_some he
      by_cases e : h = g
      · subst e
        have hre : reasonOr (s.hoses.get h) .preset = r := by simp [reasonOr, hl, hr]
        rw [hre]
        obtain ⟨c1, c2, c3, c4, c5, c6, c7, c8⟩ := closeRaw_self (r := r) hl
        have hst := afterClose_rest (s.hoses.get h) r
        have k := settleNew_others (s0 := s0) (g := h) n (closeRaw h true none r s)
          (by rw [c1]; exact hst.2.1) (.inl (by rw [c1]; exact hst.2.2.2))
        refine ⟨?_, ?_, fun hp => ?_, ?_, ?_, ?_, ?_, fun hv => ?_⟩
        · rw [k.1, c1]
        · rw [k.1, c2]
        · rw [k.1, c3 hp]
        · rw [k.2.1, c4]
        · rw [k.2.2, c5]
        · rw [k.2.2, c6]
        · rw [k.2.2, c7]
        · obtain ⟨a, d, ha, hd⟩ := c8 hv
          exact ⟨d, settleNew_record n _ a [] ha (by simp; omega), hd⟩
      · have k := closeRaw_others (r := reasonOr (s.hoses.get g) .preset) e (.inl (by rw [hs]; rfl))
        obtain ⟨t, ht⟩ : ∃ t, t = closeRaw g true none (reasonOr (s.hoses.get g) .preset) s := ⟨_, rfl⟩
        rw [← ht] at k ⊢
        have hu : t.unit = s.unit := by rw [ht]; exact closeRaw_frame _ _ _ _ _ .unit (by decide)
        rcases hgl : (s.hoses.get g).live with _ | lg
        · rw [hgl] at g3; cases g3
        · have hcount : t.liveCount < s.liveCount := by
            refine countP_lt (fun a _ ha => ?_) (HoseIx.mem_all g) (by rw [g1]; rfl) ?_
            · by_cases e' : a = g
              · subst e'; rw [g1]; rfl
              · rw [ht, closeRaw_live hgl e'] at ha; exact ha
            · rw [ht, (closeRaw_self (r := _) hgl).1]; exact (afterClose_rest _ _).1
          have c := ih t (by omega) (by omega) (by rw [k.1]; exact hs)
            (by rw [k.1]; exact hl) (by simpa only [State.quietForSettle, State.cfg, hu, k.2.1] using hq)
          refine ⟨by rw [c.state, k.1], c.live, fun hp => by rw [c.overrun hp, k.1], by rw [c.net, k.2.1], c.commanded,
            c.duty, c.flowPast, ?_⟩
          have := c.record
          simpa only [k.2.1, State.hoseCfg, State.cfg, hu] using this

/-! ## Requests to several hoses at once (R45) -/

/-- What the entry to ENDING leaves of its hose (R44): the state, the record, the valve shut, and a meter that is quiet
exactly where the delivery does not settle later. -/
structure HoseInEnding (h : HoseIx) (l : Live) (r : EndReason) (s t : State) : Prop where
  state : (t.hoses.get h).state = .ending
  live : (t.hoses.get h).live
    = some { l with endReason := some r, closeCount := some (l.closeCount.getD (s.meters.get h).net) }
  hook : (t.hoses.get h).hook = (s.hoses.get h).hook
  meterMark : (t.hoses.get h).meterMark = (s.hoses.get h).meterMark
  overrun : (t.hoses.get h).overrun = (s.hoses.get h).overrun
  net : (t.meters.get h).net = (s.meters.get h).net
  commanded : (t.valves.get h).commanded = .shut
  duty : (t.valves.get h).duty = 0
  flowPast : (t.valves.get h).flowPast = some 0
  quiet : t.quietForSettle h = true ↔ ¬s.settlesLater h

theorem endRaw_inEnding {s : State} {h : HoseIx} {l : Live} (r : EndReason)
    (hr : runState (s.hoses.get h).state = true) (hl : (s.hoses.get h).live = some l) :
    HoseInEnding h l r s (endRaw h r s) := by
  rw [endRaw_run r hr]
  obtain ⟨e1, e2, e3, e4, e5, -, -, -⟩ := enterEnding_entersEnding r hr hl
  refine ⟨e1, e2, ?_, ?_, ?_, ?_, e3, e4, e5, ?_⟩
  · unfold enterEnding; simp [Hose.enter]
  · unfold enterEnding; simp [Hose.enter]
  · unfold enterEnding; simp [Hose.enter]
  · unfold enterEnding; rw [moveHose_net]; rfl
  · by_cases k : s.settlesLater h
    · simp [k, enterEnding_settlesLater r k]
    · simp [k, enterEnding_quiet r k]

/-- What one hose brings to its own ending. -/
theorem HoseInEnding.congr {h : HoseIx} {l : Live} {r : EndReason} {s s' t t' : State} (k : SameHose h s s')
    (ku : s'.unit = s.unit) (i : HoseInEnding h l r s' t) (k' : SameHose h t t') (ku' : t'.unit = t.unit) :
    HoseInEnding h l r s t' := by
  have hq : t'.quietForSettle h = t.quietForSettle h := by
    simp only [State.quietForSettle, State.cfg, ku', k'.2.1]
  have hs : s'.settlesLater h ↔ s.settlesLater h := by
    simp only [State.settlesLater, State.quietForSettle, State.cfg, ku, k.2.1, k.2.2]
  have hn : (s'.meters.get h).net = (s.meters.get h).net := by rw [k.2.1]
  refine ⟨?_, ?_, ?_, ?_, ?_, ?_, ?_, ?_, ?_, ?_⟩
  · rw [k'.1, i.state]
  · rw [k'.1, i.live, hn]
  · rw [k'.1, i.hook, k.1]
  · rw [k'.1, i.meterMark, k.1]
  · rw [k'.1, i.overrun, k.1]
  · rw [k'.2.1, i.net, hn]
  · rw [k'.2.2, i.commanded]
  · rw [k'.2.2, i.duty]
  · rw [k'.2.2, i.flowPast]
  · rw [hq, i.quiet, hs]

section
variable {F : HoseIx → State → State} (ho : ∀ a g s, g ≠ a → SameHose g s (F a s))
  (hf : ∀ a s, sameOutside moving s (F a s)) {h : HoseIx}
include ho

/-- A pass over hoses that acts on each alone leaves the others. -/
theorem foldHoses_out : ∀ (l : List HoseIx) (s : State), h ∉ l → SameHose h s (l.foldl (fun s a => F a s) s)
  | [], s, _ => .refl _ _
  | a :: l, s, hn => (ho a h s fun e => hn (by simp [e])).trans (foldHoses_out l _ fun e => hn (by simp [e]))

include hf

/-- A pass over hoses that acts on each alone acts on one as it stood. -/
theorem foldHoses_at (l : List HoseIx) : ∀ s : State, l.Nodup → h ∈ l →
    ∃ s', SameHose h s s' ∧ sameOutside moving s s' ∧ SameHose h (F h s') (l.foldl (fun s a => F a s) s) := by
  induction l with
  | nil => intro s _ hm; cases hm
  | cons a l ih =>
    intro s hd hm
    rw [List.nodup_cons] at hd
    by_cases e : h = a
    · subst e
      exact ⟨s, .refl _ _, .refl _ _, foldHoses_out ho l _ hd.1⟩
    · obtain ⟨s', k1, k2, k3⟩ := ih (F a s) hd.2 (by simpa [e] using hm)
      exact ⟨s', (ho a h s e).trans k1, (hf a s).trans k2, k3⟩
end

theorem HoseIx.nodup_all : HoseIx.all.Nodup := by decide

/-- The request of several hoses, at one of them (R43, R44). -/
theorem endAll_inEnding {s : State} {h : HoseIx} {l : Live} {hs : List HoseIx} (r : EndReason) (hd : hs.Nodup)
    (hm : h ∈ hs) (hr : runState (s.hoses.get h).state = true) (hl : (s.hoses.get h).live = some l) :
    HoseInEnding h l r s (endAll hs r s) := by
  obtain ⟨s', k1, k2, k3⟩ := foldHoses_at (F := fun a s => endRaw a r s) (h := h)
    (fun a g s hg => endRaw_others r s (.inl hg)) (fun a s => endRaw_frame a r s) hs s hd hm
  have hu' : (endRaw h r s').unit = s'.unit := endRaw_frame h r s' .unit (by decide)
  have hu : s'.unit = s.unit := k2 .unit (by decide)
  have hu2 : (endAll hs r s).unit = s.unit := endAll_frame hs r s .unit (by decide)
  exact (endRaw_inEnding r (s := s') (by rw [k1.1]; exact hr) (by rw [k1.1]; exact hl)).congr k1 hu k3
    (hu2.trans (hu.symm.trans hu'.symm))

theorem liveCount_le (s : State) : s.liveCount ≤ 6 := List.countP_le_length

/-- A hose that a change brings to ENDING has its delivery settle there, or close at once (R45). -/
theorem settling_hoseEnded {f : State → State} {s0 s : State} {h : HoseIx} {l : Live} {r : EndReason}
    (i : HoseInEnding h l r s (f s0)) (h0 : (s0.hoses.get h).state ≠ .ending) (hu : (f s0).unit = s.unit) :
    HoseEnded h l r s (settling f s0) := by
  have hrun : runState ((f s0).hoses.get h).state = false := by rw [i.state]; rfl
  by_cases k : s.settlesLater h
  · have hq : (f s0).quietForSettle h = false := by
      have := i.quiet; cases hb : (f s0).quietForSettle h
      · rfl
      · exact absurd k (this.mp hb)
    have e : SameHose h (f s0) (settling f s0) := settleNew_others 6 _ hrun (.inr (.inr hq))
    refine ⟨?_, ?_, ?_, fun _ => ⟨?_, ?_, ?_⟩, fun h' => absurd k h'⟩
    · rw [e.2.2, i.commanded]
    · rw [e.2.2, i.duty]
    · rw [e.2.1, i.net]
    · rw [e.1, i.state]
    · rw [e.2.2, i.flowPast]
    · rw [e.1, i.live]
  · have c := settleNew_self (s0 := s0) (r := r) rfl h0 6 (f s0) (liveCount_le _) (le_refl _) i.state i.live
      (i.quiet.mpr k)
    have hcfg : (f s0).hoseCfg h = s.hoseCfg h := by simp only [State.hoseCfg, State.cfg, hu]
    refine ⟨c.commanded, c.duty, c.net.trans i.net, fun h' => absurd h' k,
      fun _ => ⟨?_, c.live, c.flowPast, fun hp => (c.overrun hp).trans i.overrun, fun hv => ?_⟩⟩
    · show ((settleNew s0 6 (f s0)).hoses.get h).state = _
      rw [c.state]; simp only [afterClose, i.meterMark, i.hook]
    · have := c.record
      rw [hcfg, i.net] at this
      exact this hv

/-- Ending requests leave the tank of a live delivery (R43). -/
theorem endRaw_liveTank {h g : HoseIx} (r : EndReason) (s : State) : (endRaw h r s).liveTank g = s.liveTank g := by
  refine liveTank_congr (endRaw_live r s) ?_
  by_cases hr : runState (s.hoses.get h).state = true
  · by_cases e : g = h
    · subst e
      rw [endRaw_run r hr]
      unfold enterEnding
      cases hl : (s.hoses.get g).live <;> simp [Hose.enter, Live.ending, hl]
    · rw [(endRaw_others r s (.inl e)).1]
  · rw [endRaw_rest r (by simpa using hr)]

theorem endAll_liveTank {g : HoseIx} (r : EndReason) : ∀ (hs : List HoseIx) (s : State),
    (endAll hs r s).liveTank g = s.liveTank g
  | [], _ => rfl
  | a :: hs, s => (endAll_liveTank r hs (endRaw a r s)).trans (endRaw_liveTank r s)

theorem watchRaw_liveTank {g : HoseIx} (tank : Nat) (s : State) : (watchRaw tank s).liveTank g = s.liveTank g := by
  unfold watchRaw; split
  · exact endAll_liveTank _ _ _
  · rfl

theorem closeRaw_liveTank {s : State} {h g : HoseIx} {l : Live} {r : EndReason} (hl : (s.hoses.get h).live = some l)
    (hg : g ≠ h) : (closeRaw h true none r s).liveTank g = s.liveTank g := by
  obtain ⟨x, m, u, hx, hm, hu, ht⟩ := closeRaw_parts r hl
  have k : u.liveTank g = s.liveTank g := by
    have : u.hoses.get g = s.hoses.get g := by
      rw [hu, show _ = m.hoses from handOff_frame _ _ .hoses (by decide), hm]; simp [hg]
    simp only [State.liveTank, this]
  rcases ht with e | e <;> rw [e]
  · exact k
  · rw [watchRaw_liveTank, k]

/-- Where the deliveries that came to ENDING are all of one tank, the closes that follow leave every delivery of another
(R45, R92). -/
theorem settleNew_tank {s0 : State} {tank : Nat} {h : HoseIx} (n : Nat) : ∀ s : State,
    (∀ g, (s.hoses.get g).state = .ending → (s0.hoses.get g).state ≠ .ending → (s.hoses.get g).live.isSome →
      s.liveTank g = some tank) → s.liveTank h ≠ some tank → SameHose h s (settleNew s0 n s) := by
  induction n with
  | zero => intro s _ _; exact .refl _ _
  | succ n ih =>
    intro s hi hh
    unfold settleNew
    split
    · exact .refl _ _
    · rename_i g he
      obtain ⟨g1, g2, g3, -⟩ := nextSettled_some he
      have gt := hi g g1 g2 g3
      obtain ⟨l, hl⟩ := Option.isSome_iff_exists.mp g3
      have hlt : l.tank = tank := by simpa [State.liveTank, g1, liveState, hl] using gt
      have hgh : h ≠ g := fun e => hh (e ▸ gt)
      have k := closeRaw_others (r := reasonOr (s.hoses.get g) .preset) hgh
        (.inr fun l' hl' => by rw [hl] at hl'; cases hl'; rw [hlt]; exact hh)
      refine k.trans (ih _ (fun a a1 a2 a3 => ?_) ?_)
      · have hag : a ≠ g := fun e => by
          subst e; rw [(closeRaw_self hl).1] at a1; exact (afterClose_rest _ _).2.2.2 a1
        rw [closeRaw_liveTank hl hag]
        by_cases ht : s.liveTank a = some tank
        · exact ht
        · have ka := closeRaw_others (r := reasonOr (s.hoses.get g) .preset) hag
            (.inr fun l' hl' => by rw [hl] at hl'; cases hl'; rw [hlt]; exact ht)
          rw [ka.1] at a1 a3
          exact hi a a1 a2 a3
      · rw [closeRaw_liveTank hl hgh]; exact hh

/-! ## The dead-level watch (R90, R92) -/

/-- The dead-level condition of a CURRENT book with a value (R90, R92). -/
theorem stockGone_eq {s : State} {tank : Nat} {k : BookIx} {v : Nat} (hk : s.bookOf tank = some k)
    (hc : (s.books.get k).state = .current) (hv : (s.books.get k).value = some v) :
    s.stockGone tank = decide (v - s.drawnFrom tank ≤ (s.cfg.books.get k).dead) := by
  have ht : (s.cfg.books.get k).tank = tank := by
    have := List.find?_some hk
    simp only [Bool.and_eq_true, beq_iff_eq] at this
    exact this.1
  have hsum : s.liveSum tank = s.drawnFrom tank := by
    unfold State.liveSum State.drawnFrom
    congr 1
    refine List.map_congr_left fun h hm => ?_
    have : s.liveTank h = some tank := by simpa using (List.mem_filter.mp hm).2
    have hl : liveState (s.hoses.get h).state = true := by
      by_contra e; simp [State.liveTank, e] at this
    simp [State.liveVolume, hl]
  simp [State.stockGone, hk, hc, State.available, hv, ht, hsum]

/-- The dead-level watch with the stock gone ends each delivery that is drawing on the tank (R92). -/
theorem deadLevelWatch_stockEnds {s : State} {tank : Nat} (hg : s.stockGone tank = true) :
    StockEnds tank s (deadLevelWatch tank s) := by
  have hw : watchRaw tank s = endAll (s.liveOn tank) .stock s := by simp [watchRaw, hg]
  have hd : (s.liveOn tank).Nodup := List.Nodup.filter _ HoseIx.nodup_all
  refine ⟨fun h l hr hl ht => ⟨?_, fun ho => ?_⟩, fun h hn => ?_, settling_frame _ ((watchRaw_frame _ _).mono rfl) rfl⟩
  · refine settling_hoseEnded (f := watchRaw tank) ?_ (fun e => by rw [e] at hr; cases hr)
      (watchRaw_frame _ _ .unit (by decide))
    rw [hw]
    refine endAll_inEnding _ hd (List.mem_filter.mpr ⟨HoseIx.mem_all h, ?_⟩) hr hl
    simp [State.liveTank, liveState_run hr, hl, ht]
  · subst ht; exact deadLevelWatch_ended hr hl hg ho
  · have k : SameHose h s (watchRaw tank s) := watchRaw_others hn
    by_cases hr : runState (s.hoses.get h).state = false
    · refine (k.trans (settleNew_others 6 _ (by rw [k.1]; exact hr) ?_)).1
      by_cases he : (s.hoses.get h).state = .ending
      · exact .inr (.inl he)
      · left; rw [k.1]; exact he
    · have ht : s.liveTank h ≠ some tank := by
        rcases hn with e | e
        · exact absurd e hr
        · exact e
      refine (k.trans (settleNew_tank 6 _ (fun g g1 g2 g3 => ?_) (by rw [watchRaw_liveTank]; exact ht))).1
      by_cases kg : runState (s.hoses.get g).state = false ∨ s.liveTank g ≠ some tank
      · rw [(watchRaw_others kg).1] at g1; exact absurd g1 g2
      · rw [watchRaw_liveTank]; by_contra e; exact kg (.inr e)

/-! ## Endings seen from an earlier state -/

/-- A request's effect on one hose is read from what the request finds there. -/
theorem HoseEnded.of_same {h : HoseIx} {l : Live} {r : EndReason} {s s' t : State} (hu : s'.unit = s.unit)
    (hs : s'.settlesLater h ↔ s.settlesLater h) (hn : (s'.meters.get h).net = (s.meters.get h).net)
    (hm : (s'.hoses.get h).meterMark = (s.hoses.get h).meterMark) (hh : (s'.hoses.get h).hook = (s.hoses.get h).hook)
    (ho : (s'.hoses.get h).overrun = (s.hoses.get h).overrun) (k : HoseEnded h l r s' t) : HoseEnded h l r s t := by
  unfold HoseEnded at k ⊢
  simpa only [hs, hn, hm, hh, ho, State.hoseCfg, State.cfg, hu] using k

/-- A close is handed on from parts that the move of a hose leaves. -/
theorem ClosedAs.of_moved {h : HoseIx} {l : Live} {r : EndReason} {s s' t : State} (f : sameOutside moving s s')
    (hn : (s'.meters.get h).net = (s.meters.get h).net) (k : ClosedAs h l r s' t) : ClosedAs h l r s t := by
  have hu : s'.unit = s.unit := f .unit (by decide)
  unfold ClosedAs closedOf at k ⊢
  simp only [hn, State.hoseCfg, State.cfg, hu] at k
  refine ⟨fun q => (k.1 q).of_moved f, fun q => (k.2 q).of_moved ?_ ?_ ?_ ?_ ?_⟩
  · exact f.journal (by decide) (by decide)
  · exact f .accounts (by decide)
  · exact f .books (by decide)
  · exact f.link (by decide) (by decide)
  · exact f .counts (by decide)

/-- The same of all that the ending of the one delivery of a tank does. -/
theorem Ended.of_same {h : HoseIx} {l : Live} {r : EndReason} {s s' t : State} (f : sameOutside moving s s')
    (hs : s'.settlesLater h ↔ s.settlesLater h) (hn : (s'.meters.get h).net = (s.meters.get h).net)
    (hm : (s'.hoses.get h).meterMark = (s.hoses.get h).meterMark) (hh : (s'.hoses.get h).hook = (s.hoses.get h).hook)
    (hov : (s'.hoses.get h).overrun = (s.hoses.get h).overrun) (hg : ∀ g, g ≠ h → s'.hoses.get g = s.hoses.get g)
    (k : Ended h l r s' t) : Ended h l r s t := by
  have hu : s'.unit = s.unit := f .unit (by decide)
  have hc : s'.hoseCfg h = s.hoseCfg h := by simp only [State.hoseCfg, State.cfg, hu]
  have hp : ∀ n, s'.pumpOf n = s.pumpOf n := fun n => pumpOf_congr hu n
  refine ⟨fun q => ?_, fun q ho => ?_⟩
  · obtain ⟨e1, e2, e3, e4, e5, e6, e7, e8⟩ := k.1 (hs.mpr q)
    rw [hc] at e6; simp only [hp] at e6
    exact ⟨e1, by rw [e2, hn], e3, e4, e5, e6, fun g gh => by rw [e7 g gh, hg g gh], f.trans e8⟩
  · obtain ⟨c1, c2, c3, c4, c5, c6, c7, c8, c9, c10, c11, c12⟩ := k.2 (fun e => q (hs.mp e)) fun g gh => by
      have := ho g gh; simpa only [State.liveTank, hg g gh] using this
    rw [hc] at c9 c4; simp only [hp] at c9
    exact ⟨by rw [c1, hm, hh], c2, c3, by rw [c4, hn, hov], by rw [c5, hn], c6, c7, c8, c9, c10.of_moved f hn,
      fun g gh => by rw [c11 g gh, hg g gh], f.then c12 rfl rfl⟩

/-! ## What the closes that follow leave -/

section
variable {α : Type} {f : State → α} (hm : ∀ s s', sameOutside moving s s' → f s' = f s) (ho : ∀ c s, f (handOff c s) = f s)
include hm ho
/-- What no move of a hose and no hand-off changes, no close changes. -/
theorem closeRaw_keeps (b : Bool) (o : Option HoseFault) (h : HoseIx) (r : EndReason) (s : State) : f (closeRaw h b o r s) = f s := by
  unfold closeRaw
  dsimp only
  split
  · rfl
  · split
    · rw [ho, hm _ _ (moveHose_frame _ _ _), hm _ _ ((setHose_frame _ _ _).mono rfl)]
    · rw [hm _ _ (watchRaw_frame _ _), ho, hm _ _ (moveHose_frame _ _ _), hm _ _ ((setHose_frame _ _ _).mono rfl)]
/-- Nor do the closes that follow at once (R45). -/
theorem settleNew_keeps (s0 : State) : ∀ (n : Nat) (s : State), f (settleNew s0 n s) = f s
  | 0, _ => rfl
  | n + 1, s => by
    unfold settleNew
    split
    · rfl
    · rw [settleNew_keeps s0 n, closeRaw_keeps hm ho]
end

/-- The hand-off of a close leaves the reserved entries: its DRAW is an ordinary frame (R50, R168). -/
theorem handOff_reserved (c : Closed) (s : State) : (handOff c s).link.reserved = s.link.reserved := by
  unfold handOff
  split
  · rfl
  · dsimp only
    have hb : ∀ (f : NewFrame) (s : State), f.kind = .draw → (handOver f s).link.reserved = s.link.reserved := by
      intro f s hf
      unfold handOver
      split
      · rfl
      · rw [hf]
        dsimp only
        unfold handOrdinary
        split
        · rfl
        · rw [hf]
          have hl : ∀ p s, (reportLost p s).link = s.link := by intro p s; cases p <;> rfl
          simp only [beq_self_eq_true, Bool.true_or, if_true]
          unfold displace
          dsimp only
          split
          · rw [hl]; rfl
          · split
            · rw [hl]; rfl
            · unfold dropNew; rw [hl]; rfl
    rw [hb _ _ rfl]
    have : ∀ n q s, (bookClose n q s).link = s.link := by intro n q s; unfold bookClose; split <;> rfl
    rw [this]
    have : (accountClose c s).2.link = s.link := by
      rw [accountClose_set]; rfl
    exact congrArg Link.reserved this

end Sys2Proof.Machine
end

