-- ==== Sys2Proof/Laws/Steps.lean ====
section
/-! SUPPORT. What a completed phase move does (R2 to R7): a step of a live delivery and an invalid transition, each as one
change of the meter and the hose before what follows from it. -/

namespace Sys2Proof.Machine

/-- A completed phase move is taken by its judgement (R2). -/
theorem exec_phaseMoves {s : State} {h : HoseIx} {la : Bool} {ha : Nat} {lb : Bool} {hb : Nat} {a b : Bool} {m : PhaseMove}
    (hm : s.phaseMoves h la ha lb hb a b m) : exec (.qualifiedPhaseChange h la ha lb hb) s
      = .next (takeMove h m (s.setMeter h { s.meters.get h with levelA := some a, levelB := some b })) := by
  obtain ⟨hp, hu, h1, h2, h3, h4, h5⟩ := hm
  simp only [exec, execQualifiedPhaseChange, whenPowered_on hp, phaseChange, hu, h3, h4]
  obtain ⟨x, hx⟩ := Option.isSome_iff_exists.mp h1
  obtain ⟨y, hy⟩ := Option.isSome_iff_exists.mp h2
  simp only [hx, hy] at h5 ⊢
  rw [← h5]; rfl

/-- A step of a live delivery, before the threshold comparison and the dead-level watch (R3, R7, R40, R92). -/
theorem exec_liveStep {s : State} {h : HoseIx} {la : Bool} {ha : Nat} {lb : Bool} {hb : Nat} {a b forward : Bool}
    (hm : s.phaseMoves h la ha lb hb a b (stepMove forward)) (hl : liveState (s.hoses.get h).state = true) :
    exec (.qualifiedPhaseChange h la ha lb hb) s = .next (afterLiveStep h
      ((s.setMeter h ((s.meters.get h).stepped a b forward)).setHose h (s.hoses.get h).moved)) := by
  rw [exec_phaseMoves hm]
  have : ∀ x : State, takeMove h (stepMove forward) x = takeStep h forward (seeMotion h x) := by
    intro x; cases forward <;> rfl
  rw [this]
  congr 1
  simp only [takeStep, seeMotion, restartQuiet, clampNet]
  have hl2 : liveState (({ s.hoses.get h with noFlow := (s.hoses.get h).noFlow.map fun _ => 0 } : Hose)).state = true := hl
  simp [hl, Hose.moved, Meter.stepped, Meter.moved, stepCount]
  congr 1
  cases h <;> rfl

/-- An invalid transition: the count moves, and as it passes the limit a meter fault follows (R4, R46). -/
theorem exec_invalidStep {s : State} {h : HoseIx} {la : Bool} {ha : Nat} {lb : Bool} {hb : Nat} {a b : Bool} {m : Meter}
    (hm : s.phaseMoves h la ha lb hb a b .invalid)
    (he : m = { (s.meters.get h).moved a b with phaseErrors := min ((s.meters.get h).phaseErrors + 1) 65535 }) :
    exec (.qualifiedPhaseChange h la ha lb hb) s = .next
      (if (s.meters.get h).phaseErrors ≤ (s.hoseCfg h).phaseErrorLimit ∧ (s.hoseCfg h).phaseErrorLimit < m.phaseErrors
        then meterFault h ((s.setMeter h m).setHose h (s.hoses.get h).moved)
        else (s.setMeter h m).setHose h (s.hoses.get h).moved) := by
  rw [exec_phaseMoves hm]
  subst he
  cases h <;> rfl

end Sys2Proof.Machine
end

