-- ==== Sys2Proof/Laws/Trips.lean ====
section
/-! SUPPORT. What the entry to TRIPPED does to valves, pumps and hoses, and a raised cause in a NORMAL zone with it (R13,
R23, R55, R114, R121). -/

namespace Sys2Proof.Machine

/-! ## Entering TRIPPED (R13, R23, R55) -/

/-- What holds of valves and pumps from the moment the zone is shut down: the zone TRIPPED, every duty 0 with its output as
it was left, and the pumps as they were left, no contactor on. -/
structure HeldDown (o : HoseIx → Bool) (P : PerPump Pump) (s : State) : Prop where
  tripped : s.tripped = true
  valves : ∀ h, (s.valves.get h).duty = 0 ∧ (s.valves.get h).output = o h
  pumps : s.pumps = P
  off : ∀ p, (P.get p).state.contactor = false

theorem HeldDown.frame {o : HoseIx → Bool} {P : PerPump Pump} {ps : List Part} {s t : State} (k : HeldDown o P s)
    (f : sameOutside ps s t) (h1 : Part.tripUnit ∉ ps) (h2 : Part.valves ∉ ps) (h3 : Part.pumps ∉ ps) : HeldDown o P t := by
  have hv : t.valves = s.valves := f .valves h2
  have hp : t.pumps = s.pumps := f .pumps h3
  exact ⟨(tripped_congr (f .tripUnit h1)).trans k.tripped, by rw [hv]; exact k.valves, hp.trans k.pumps, k.off⟩

/-- A move of a hose in a TRIPPED zone opens no valve and starts no pump (R13, R19). -/
theorem HeldDown.move {o : HoseIx → Bool} {P : PerPump Pump} {s : State} (k : HeldDown o P s) (h : HoseIx)
    (st : HoseState) : HeldDown o P (moveHose h st s) := by
  refine ⟨(tripped_congr (moveHose_frame h st s .tripUnit (by decide))).trans k.tripped, fun g => ?_, ?_, k.off⟩
  · rw [moveHose_valves]
    simp only [k.tripped, Bool.true_or, if_true]
    by_cases e : g = h
    · subst e
      have := k.valves g
      simp [Valve.apply, this.1, this.2]
    · simpa [e] using k.valves g
  · apply PerPump.ext_get
    intro p
    have hoff : (s.pumps.get p).state.contactor = false := by rw [k.pumps]; exact k.off p
    unfold moveHose
    let u := commandStage h st (s.setHose h ((s.hoses.get h).enter st))
    have fu : sameOutside [.hoses, .valves, .meters] s u :=
      (setHose_frame s h _).then (commandStage_frame _ _ _) rfl rfl
    have hp : u.pumps = s.pumps := fu .pumps (by decide)
    have ht : u.tripped = true := (tripped_congr (fu .tripUnit (by decide))).trans k.tripped
    show (pumpFollows h _ u).pumps.get p = P.get p
    rw [← k.pumps]
    unfold pumpFollows
    split
    · rw [hp]
    · rename_i q hq
      split
      · simp [pumpRise, ht, hp]
      · split
        · have : (u.pumps.get q).state.contactor = false := by rw [hp, k.pumps]; exact k.off q
          unfold pumpFall
          rw [this]
          simp [hp]
        · rw [hp]

theorem HeldDown.endRaw {o : HoseIx → Bool} {P : PerPump Pump} {s : State} (k : HeldDown o P s) (h : HoseIx)
    (r : EndReason) : HeldDown o P (endRaw h r s) := by
  have e : HeldDown o P (enterEnding h r s) := by
    unfold enterEnding
    exact (k.frame (setHose_frame _ _ _) (by decide) (by decide) (by decide)).move h .ending
  unfold Machine.endRaw
  split <;> first | exact e | exact k

theorem HeldDown.fold {o : HoseIx → Bool} {P : PerPump Pump} {F : HoseIx → State → State}
    (hF : ∀ a s, HeldDown o P s → HeldDown o P (F a s)) : ∀ (l : List HoseIx) (s : State), HeldDown o P s →
    HeldDown o P (l.foldl (fun s a => F a s) s)
  | [], _, k => k
  | a :: l, s, k => HeldDown.fold hF l _ (hF a s k)

theorem HeldDown.watch {o : HoseIx → Bool} {P : PerPump Pump} {s : State} (k : HeldDown o P s) (tank : Nat) :
    HeldDown o P (watchRaw tank s) := by
  unfold watchRaw
  split
  · exact HeldDown.fold (fun a s k => k.endRaw a .stock) _ _ k
  · exact k

theorem HeldDown.close {o : HoseIx → Bool} {P : PerPump Pump} {s : State} (k : HeldDown o P s) (h : HoseIx)
    (r : EndReason) : HeldDown o P (closeRaw h true none r s) := by
  rcases hl : (s.hoses.get h).live with _ | l
  · simp only [closeRaw, hl]; exact k
  · obtain ⟨x, m, u, hx, hm, hu, ht⟩ := closeRaw_parts r hl
    have km : HeldDown o P m := by
      rw [hm]; exact (k.frame (setHose_frame _ _ _) (by decide) (by decide) (by decide)).move _ _
    have ku : HeldDown o P u := by
      rw [hu]; exact km.frame (handOff_frame _ _) (by decide) (by decide) (by decide)
    rcases ht with e | e <;> rw [e]
    · exact ku
    · exact ku.watch _

theorem HeldDown.settle {o : HoseIx → Bool} {P : PerPump Pump} {s0 : State} : ∀ (n : Nat) (s : State), HeldDown o P s →
    HeldDown o P (settleNew s0 n s)
  | 0, _, k => k
  | n + 1, s, k => by
    unfold settleNew
    split
    · exact k
    · exact HeldDown.settle n _ (k.close _ _)

/-- A refresh of the valves in a TRIPPED zone, at one hose (R5, R12, R13). -/
theorem refreshValves_at {h : HoseIx} {l : List HoseIx} : ∀ (s : State), s.tripped = true → l.Nodup → h ∈ l →
    let t := l.foldl (fun s a => refreshValve a s) s
    t.valves.get h = (s.valves.get h).apply 0
      ∧ t.meters.get h = (if (s.valves.get h).duty = 0 then s.meters.get h else { s.meters.get h with quiet := 0 }) := by
  have out : ∀ (l : List HoseIx) (s : State), h ∉ l →
      (l.foldl (fun s a => refreshValve a s) s).valves.get h = s.valves.get h
        ∧ (l.foldl (fun s a => refreshValve a s) s).meters.get h = s.meters.get h := by
    intro l
    induction l with
    | nil => exact fun s _ => ⟨rfl, rfl⟩
    | cons a l ih =>
      intro s hn
      have e : h ≠ a := fun e => hn (by simp [e])
      obtain ⟨i1, i2⟩ := ih (refreshValve a s) fun m => hn (by simp [m])
      rw [List.foldl_cons, i1, i2, refreshValve_valves]
      refine ⟨by simp [e], ?_⟩
      rcases refreshValve_meters a s with k | k <;> rw [k]
      simp [e]
  induction l with
  | nil => intro s _ _ hm; cases hm
  | cons a l ih =>
    intro s ht hd hm
    rw [List.nodup_cons] at hd
    have ft := refreshValve_frame a s
    by_cases e : h = a
    · subst e
      obtain ⟨i1, i2⟩ := out l (refreshValve h s) hd.1
      have hz : s.dutyFor h = 0 := by simp [State.dutyFor, ht]
      simp only [List.foldl_cons]
      rw [i1, i2, refreshValve_valves, hz]
      refine ⟨by simp, ?_⟩
      unfold refreshValve
      dsimp only
      rw [hz]
      by_cases hd0 : (s.valves.get h).duty = 0 <;> simp [hd0, restartQuiet]
    · obtain ⟨i1, i2⟩ := ih (refreshValve a s) ((tripped_congr (ft .tripUnit (by decide))).trans ht) hd.2
        (by simpa [e] using hm)
      have hv : (refreshValve a s).valves.get h = s.valves.get h := by rw [refreshValve_valves]; simp [e]
      have hmt : (refreshValve a s).meters.get h = s.meters.get h := by
        rcases refreshValve_meters a s with k | k <;> rw [k]
        simp [e]
      simp only [List.foldl_cons]
      rw [i1, i2, hv, hmt]
      exact ⟨rfl, rfl⟩

/-- Every pump once the zone has entered TRIPPED (R23). -/
theorem tripPumps_at {p : PumpIx} : ∀ (l : List PumpIx) (s : State), l.Nodup →
    (l.foldl (fun s a => tripPump a s) s).pumps.get p = if p ∈ l then
      (if (s.pumps.get p).state = .off ∨ (s.pumps.get p).state = .faulted then s.pumps.get p
        else { s.pumps.get p with state := .cooldown, timer := some 0 }) else s.pumps.get p := by
  have one : ∀ (a : PumpIx) (s : State), (tripPump a s).pumps.get p = if p = a then
      (if (s.pumps.get p).state = .off ∨ (s.pumps.get p).state = .faulted then s.pumps.get p
        else { s.pumps.get p with state := .cooldown, timer := some 0 }) else s.pumps.get p := by
    intro a s
    by_cases e : p = a
    · subst e
      unfold tripPump
      split <;> simp_all [coolPump]
    · unfold tripPump
      split <;> simp [coolPump, e]
  intro l
  induction l with
  | nil => intro s _; simp
  | cons a l ih =>
    intro s hd
    rw [List.nodup_cons] at hd
    rw [List.foldl_cons, ih _ hd.2, one]
    by_cases e : p = a
    · subst e; simp [hd.1]
    · simp [e]

/-- What a trip does at each hose (R55). -/
theorem tripHose_others {h g : HoseIx} (s : State) (hg : g ≠ h) : SameHose g s (tripHose h s) := by
  unfold tripHose
  split
  · exact moveHose_others _ _ hg
  · exact endRaw_others _ _ (.inl hg)

/-- Shutting a valve changes nothing in whether an ending settles later (R5, R12, R45). -/
theorem settlesLater_shut {s w : State} {h : HoseIx} (hu : w.unit = s.unit) (hv : (w.valves.get h).duty = 0)
    (hm : w.meters.get h = (if (s.valves.get h).duty = 0 then s.meters.get h else { s.meters.get h with quiet := 0 })) :
    w.settlesLater h ↔ s.settlesLater h := by
  unfold State.settlesLater State.quietForSettle
  simp only [State.cfg, hu, hv, ne_eq, not_true_eq_false, false_or, hm, secondsMs]
  refine and_congr_right fun h0 => ?_
  by_cases hd : (s.valves.get h).duty = 0
  · rw [if_pos hd]; simp only [hd, not_true_eq_false, false_or, decide_eq_false_iff_not]
    exact ⟨decide_eq_false, of_decide_eq_false⟩
  · simp only [hd, not_false_eq_true, true_or, if_false, iff_true, decide_eq_false_iff_not]
    omega

/-- The zone's entry to TRIPPED: valves, pumps and hoses (R13, R23, R55, R121). -/
theorem enterTripped_shutDown {s m : State} (ht : m.tripped = true) (hu : m.unit = s.unit) (hh : m.hoses = s.hoses)
    (hv : m.valves = s.valves) (hp : m.pumps = s.pumps) (hm : m.meters = s.meters) : ShutDown s (enterTripped m) := by
  obtain ⟨v, hvd⟩ : ∃ v, v = refreshValves m := ⟨_, rfl⟩
  obtain ⟨w, hwd⟩ : ∃ w, w = PumpIx.all.foldl (fun s p => tripPump p s) v := ⟨_, rfl⟩
  have fv : sameOutside [.valves, .meters] m v := by rw [hvd]; exact refreshValves_frame m
  have fw : sameOutside [.pumps] v w := by
    rw [hwd]; exact .foldl (fun p s => tripPump_frame p s) _ _
  have wv : w.valves = v.valves := fw .valves (by decide)
  have wm : w.meters = v.meters := fw .meters (by decide)
  have wh : w.hoses = s.hoses := Eq.trans (fw .hoses (by decide)) (Eq.trans (fv .hoses (by decide)) hh)
  have wu : w.unit = s.unit := Eq.trans (fw .unit (by decide)) (Eq.trans (fv .unit (by decide)) hu)
  have wt : w.tripped = true := (tripped_congr (fw .tripUnit (by decide))).trans
    ((tripped_congr (fv .tripUnit (by decide))).trans ht)
  have at1 : ∀ h, w.valves.get h = (s.valves.get h).apply 0 ∧ w.meters.get h
      = (if (s.valves.get h).duty = 0 then s.meters.get h else { s.meters.get h with quiet := 0 }) := by
    intro h
    have := refreshValves_at (h := h) m ht HoseIx.nodup_all (HoseIx.mem_all h)
    rw [hv, hm] at this
    rw [wv, wm, hvd]
    exact this
  have wp : ∀ p, w.pumps.get p = (if (s.pumps.get p).state = .off ∨ (s.pumps.get p).state = .faulted then s.pumps.get p
      else { s.pumps.get p with state := .cooldown, timer := some 0 }) := by
    intro p
    have hd : PumpIx.all.Nodup := by decide
    rw [hwd, tripPumps_at PumpIx.all v hd, if_pos (PumpIx.mem_all p), show v.pumps = m.pumps from fv .pumps (by decide), hp]
  have k0 : HeldDown (fun h => (w.valves.get h).output) w.pumps w := by
    refine ⟨wt, fun h => ⟨by rw [(at1 h).1]; simp, rfl⟩, rfl, fun p => ?_⟩
    rw [hwd]; exact tripPumps_off PumpIx.all v p (.inl (PumpIx.mem_all p))
  let G : State → State := fun s => HoseIx.all.foldl (fun s h => tripHose h s) s
  have ek : enterTripped m = settling G w := by rw [hwd, hvd]; rfl
  have fG : sameOutside moving w (G w) := .foldl (fun h s => tripHose_frame h s) _ _
  have kG : HeldDown (fun h => (w.valves.get h).output) w.pumps (G w) := by
    refine HeldDown.fold (fun a s k => ?_) _ _ k0
    unfold tripHose
    split
    · exact k.move _ _
    · exact k.endRaw _ _
  have kt := HeldDown.settle (s0 := w) 6 (G w) kG
  have ekt : enterTripped m = settleNew w 6 (G w) := ek
  rw [← ekt] at kt
  have out : ∀ h, runState ((G w).hoses.get h).state = false →
      (((G w).hoses.get h).state ≠ .ending ∨ (s.hoses.get h).state = .ending) →
      SameHose h (G w) (enterTripped m) := fun h h1 h2 => by
    rw [ekt]; exact settleNew_others 6 _ h1 (h2.imp id fun e => .inl (by rw [wh]; exact e))
  have at2 := fun h => foldHoses_at (F := tripHose) (h := h) (fun a g s hg => tripHose_others s hg)
    (fun a s => tripHose_frame a s) HoseIx.all w HoseIx.nodup_all (HoseIx.mem_all h)
  refine ⟨kt.tripped, fun h => ⟨(kt.valves h).1, fun hd => ?_⟩, fun p => ?_, fun h => ⟨fun hw => ?_, fun l hr hl => ?_,
    fun hw hr => ?_⟩⟩
  · rw [(kt.valves h).2, (at1 h).1]; simp [Valve.apply, Ne.symm hd]
  · rw [kt.pumps, wp]
  · obtain ⟨s', k1, k2, k3⟩ := at2 h
    have e : tripHose h s' = moveHose h (.refused .tripped) s' := by
      unfold tripHose; rw [k1.1, wh, hw]
    have gs : (G w).hoses.get h = ((s'.hoses.get h).enter (.refused .tripped)) := by
      rw [show G w = _ from rfl, k3.1, e]; simp
    have k := out h (by rw [gs]; rfl) (.inl (by rw [gs]; simp [Hose.enter]))
    rw [k.1, gs]
    simp [Hose.enter]
  · obtain ⟨s', k1, k2, k3⟩ := at2 h
    have e : tripHose h s' = endRaw h .trip s' := by
      unfold tripHose; rw [k1.1, wh]
      split
      · rename_i hw; rw [hw] at hr; cases hr
      · rfl
    rw [e] at k3
    have i : HoseInEnding h l .trip w (G w) := by
      have hu' : (endRaw h .trip s').unit = s'.unit := endRaw_frame h .trip s' .unit (by decide)
      have hu1 : s'.unit = w.unit := k2 .unit (by decide)
      exact (endRaw_inEnding .trip (s := s') (by rw [k1.1, wh]; exact hr) (by rw [k1.1, wh]; exact hl)).congr k1 hu1 k3
        (Eq.trans (fG .unit (by decide)) (hu1.symm.trans hu'.symm))
    have hsl : w.settlesLater h ↔ s.settlesLater h := settlesLater_shut wu (by rw [(at1 h).1]; simp) (at1 h).2
    have hnet : (w.meters.get h).net = (s.meters.get h).net := by rw [(at1 h).2]; split <;> rfl
    have i' : HoseInEnding h l .trip s (G w) := by
      refine ⟨i.state, by rw [i.live, hnet], by rw [i.hook, wh], by rw [i.meterMark, wh], by rw [i.overrun, wh],
        by rw [i.net, hnet], i.commanded, i.duty, i.flowPast, by rw [i.quiet, hsl]⟩
    rw [ek]
    refine settling_hoseEnded i' (fun e0 => ?_) (Eq.trans (fG .unit (by decide)) wu)
    rw [wh] at e0; rw [e0] at hr; cases hr
  · obtain ⟨s', k1, k2, k3⟩ := at2 h
    have e : tripHose h s' = s' := by
      unfold tripHose; rw [k1.1, wh]
      split
      · rename_i hw'; exact absurd hw' hw
      · exact endRaw_rest _ (by rw [k1.1, wh]; exact hr)
    rw [e] at k3
    have gs : (G w).hoses.get h = s.hoses.get h := by rw [show G w = _ from rfl, k3.1, k1.1, wh]
    have k := out h (by rw [gs]; exact hr) (by
      by_cases he : (s.hoses.get h).state = .ending
      · exact .inr he
      · exact .inl (by rw [gs]; exact he))
    rw [k.1, gs]

/-- A cause raised in a zone that was NORMAL (R114, R121). -/
theorem raise_shutDown {s : State} {c : Cause} (ht : s.tripped = false) : ShutDown s (raise c s) := by
  have hc : s.tripUnit.causes.has c = false := by
    have : s.tripUnit.causes.any = false := by
      simp only [State.tripped, Bool.or_eq_false_iff] at ht; exact ht.1
    cases c <;> simp_all [CauseSet.any, CauseSet.has]
  unfold raise
  rw [hc]
  simp only [Bool.false_eq_true, if_false]
  obtain ⟨m, hm⟩ : ∃ m, m = (if zoneWideCause c = true then announce (s.setTripUnit (s.tripUnit.latch c))
    else s.setTripUnit (s.tripUnit.latch c)) := ⟨_, rfl⟩
  have f : sameOutside (.tripUnit :: handing) s m := by
    rw [hm]
    exact .ite ((setTripUnit_frame _ _).then (announce_frame _) rfl rfl) ((setTripUnit_frame _ _).mono rfl)
  have hcs : m.tripUnit.causes = s.tripUnit.causes.put c true := by
    have hlatch : (s.tripUnit.latch c).causes = s.tripUnit.causes.put c true := by
      unfold TripUnit.latch; dsimp only; split <;> rfl
    rw [hm]
    split
    · unfold announce
      split
      · exact hlatch
      · rw [show (handOver _ _).tripUnit = _ from handOver_frame _ _ .tripUnit (by decide)]; exact hlatch
    · exact hlatch
  have hmt : m.tripped = true := by
    have : m.tripUnit.causes.any = true := by rw [hcs]; cases c <;> simp [CauseSet.put, CauseSet.any]
    simp [State.tripped, this]
  rw [← hm]
  simp only [zoneFollows, hmt, ht, Bool.not_false, Bool.and_self, if_true]
  exact enterTripped_shutDown hmt (f .unit (by decide)) (f .hoses (by decide)) (f .valves (by decide))
    (f .pumps (by decide)) (f .meters (by decide))

/-- A frame handed over leaves the zone shut down. -/
theorem ShutDown.handed {s t t' : State} (f : sameOutside handing t t') (k : ShutDown s t) : ShutDown s t' := by
  obtain ⟨a, b, c, d⟩ := k
  have hv : t'.valves = t.valves := f .valves (by decide)
  have hp : t'.pumps = t.pumps := f .pumps (by decide)
  have hh : t'.hoses = t.hoses := f .hoses (by decide)
  have hm : t'.meters = t.meters := f .meters (by decide)
  have hj : t'.journal.records = t.journal.records := f.records (by decide)
  refine ⟨(tripped_congr (f .tripUnit (by decide))).trans a, by rw [hv]; exact b, by rw [hp]; exact c, ?_⟩
  unfold HoseEnded at d ⊢
  rw [hv, hh, hm, hj]; exact d

/-- The shutdown seen from an earlier state. -/
theorem ShutDown.of_same {s s' t : State} (hu : s'.unit = s.unit) (hv : ∀ h, (s'.valves.get h).duty = (s.valves.get h).duty) (hp : s'.pumps = s.pumps)
    (hh : s'.hoses = s.hoses) (hm : s'.meters = s.meters) (k : ShutDown s' t) : ShutDown s t := by
  obtain ⟨a, b, c, d⟩ := k
  refine ⟨a, fun h => ⟨(b h).1, fun q => (b h).2 (by rw [hv]; exact q)⟩, by rw [← hp]; exact c, fun h => ?_⟩
  rw [← hh]
  refine ⟨(d h).1, fun l hr hl => ((d h).2.1 l hr hl).of_same hu ?_ (by rw [hm]) (by rw [hh]) (by rw [hh]) (by rw [hh]), (d h).2.2⟩
  simp only [State.settlesLater, State.quietForSettle, State.cfg, hu, hv, hm]

/-- What no move of a hose and no hand-off changes, the entry to TRIPPED leaves (R121). -/
theorem enterTripped_keeps {α : Type} {f : State → α} (hm : ∀ s t, sameOutside moving s t → f t = f s)
    (ho : ∀ c s, f (handOff c s) = f s) (s : State) : f (enterTripped s) = f s := by
  have b : sameOutside [.pumps] (refreshValves s) (PumpIx.all.foldl (fun s p => tripPump p s) (refreshValves s)) :=
    .foldl (fun p s => tripPump_frame p s) _ _
  unfold enterTripped settling
  rw [settleNew_keeps hm ho, hm _ _ (.foldl (fun h s => tripHose_frame h s) _ _), hm _ _ (b.mono rfl),
    hm _ _ ((refreshValves_frame s).mono rfl)]

/-- The entry to TRIPPED leaves the trip record and the reserved entries (R119, R121). -/
theorem enterTripped_kept (s : State) :
    (enterTripped s).tripUnit = s.tripUnit ∧ (enterTripped s).link.reserved = s.link.reserved :=
  ⟨enterTripped_keeps (f := State.tripUnit) (fun _ _ h => h .tripUnit (by decide))
    (fun c s => handOff_frame c s .tripUnit (by decide)) s,
    enterTripped_keeps (f := fun s => s.link.reserved) (fun _ _ h => (h .queue (by decide)).2) handOff_reserved s⟩

end Sys2Proof.Machine
end

