-- ==== Sys2Proof/Tests/Slice0.lean ====
section
/-! SUPPORT. The tests: what WellFormed refuses, one step on a small station against the manual's worked examples, and
for each statement a state and operands that meet its hypotheses. -/

namespace Sys2Proof.Tests

open Sys2Proof Sys2Proof.Machine

-- One proof at a time: side by side, the tests that evaluate the image would take several times the memory.
set_option Elab.async false

/-! ## What WellFormed refuses -/

/-- R29: a tag's machine id has 24 bits. -/
theorem test_wellFormed_tag_machine : (Instr.tagFrame .h1 true 16777216 none).wellFormed = false := by decide

/-- R29: and so have its hours. -/
theorem test_wellFormed_tag_hours : (Instr.tagFrame .h1 true 1 (some 16777216)).wellFormed = false := by decide

/-- R83: a permit is of a machine id from 1. -/
theorem test_wellFormed_permit_low : (Instr.permitExpiry 0 .diesel).wellFormed = false := by decide

/-- R83: to 16,777,214. -/
theorem test_wellFormed_permit_high : (Instr.permitExpiry 16777215 .diesel).wellFormed = false := by decide

/-- R200: a probe count has 16 bits. -/
theorem test_wellFormed_probe_count : (Instr.probeGateClose .c1 65536).wellFormed = false := by decide

/-- R192: a peer is a station, from 1. -/
theorem test_wellFormed_quiet_address : (Instr.peerQuietExpiry 0).wellFormed = false := by decide

/-- R192: to 47. -/
theorem test_wellFormed_lost_address : (Instr.peerLostExpiry 48).wellFormed = false := by decide

/-- R199: six strap pins. -/
theorem test_wellFormed_strap : (Instr.powerOn 64 [] true none).wellFormed = false := by decide

/-- R200: 798 characters at most. -/
theorem test_wellFormed_image : (Instr.powerOn 7 (List.replicate 799 0) true none).wellFormed = false := by
  decide +kernel

/-- R204: six closes at most. -/
theorem test_wellFormed_lostAfter : (Instr.powerOn 7 [] true (some 7)).wellFormed = false := by decide

/-- Operands at the ends of their ranges are well formed. -/
theorem test_wellFormed_ends : (Instr.tagFrame .h1 true 16777215 (some 16777215)).wellFormed = true
    ∧ (Instr.permitExpiry 16777214 .diesel).wellFormed = true ∧ (Instr.probeGateClose .c1 65535).wellFormed = true
    ∧ (Instr.peerLostExpiry 47).wellFormed = true ∧ (Instr.powerOn 63 [] true (some 6)).wellFormed = true := by decide

/-- The table gives no bits, so a word spells no command and stores none. -/
theorem test_words_spell_nothing : decodeTableWord 8 1 = none ∧ State.reset.withFetchWord 8 1 = State.reset := by decide

/-! ## A small station -/

/-- A hose with the settings of the worked examples of chapters 1 and 2: K 2,480, trim allowance 15,000 mL, maximum
flow 16,667 mL/s. -/
def hoseOf (p : Product) (tank : Nat) : HoseSetting :=
  ⟨p, tank, 2480, 20, 5, 16667, 100, 30, 100, 1500000, 15000, 2300, 20000, true⟩

/-- A book's settings in the style of 4.7 and 4.8. -/
def bookOf (p : Product) (tank : Nat) : BookSetting := ⟨tank, p, 120000000, 8000000, 5000000, 2700, 400000, 1500000⟩

/-- Station settings: DIESEL hoses 1 to 5 of tank 5 on pump 2 and an ENGINE_OIL hose 6 of tank 6 on pump 1, probe
channel 1 on tank 9 with the strapping table of R109, input 1 a SUMP and input 2 a VAPOUR of sense OPEN. -/
def settings : Settings where
  lineRate := 1
  lead := 16
  tail := 16
  zone := some 3
  beaconInterval := 5
  joinTime := 12
  lostTimeout := 30
  isolationHold := 30
  claimTime := 60
  tagGrace := 3
  noFlowTime := 20
  endSettle := 2
  endingLimit := 30
  pumpSettle := 3
  pumpMinimumOff := 30
  scanInterval := 5
  gaugeAgeLimit := 600
  spillConfirm := 10
  creepWindow := 60
  creepLimit := 500
  creepUsable := true
  maxHourStep := 200
  backTolerance := 20
  spill := ⟨⟨.sump, false⟩, ⟨.vapour, true⟩, ⟨.none, false⟩, ⟨.none, false⟩⟩
  hoses := ⟨hoseOf .diesel 5, hoseOf .diesel 5, hoseOf .diesel 5, hoseOf .diesel 5, hoseOf .diesel 5,
    hoseOf .engineOil 6⟩
  pumpTanks := ⟨6, 5, 0, 0⟩
  books := ⟨bookOf .diesel 5, bookOf .engineOil 6, bookOf .diesel 9, bookOf .diesel 0, bookOf .diesel 0,
    bookOf .diesel 0, bookOf .diesel 0, bookOf .diesel 0⟩
  probes := ⟨⟨9, 100, 1500, 15000, 2000, 14000, 3000, 10, [(0, 0), (500, 18000000), (1500, 61000000), (2800, 110000000)]⟩,
    ⟨0, 0, 0, 0, 0, 0, 0, 0, []⟩, ⟨0, 0, 0, 0, 0, 0, 0, 0, []⟩, ⟨0, 0, 0, 0, 0, 0, 0, 0, []⟩⟩

/-- Station 7 of zone 3, JOINED, NORMAL, with every hose IDLE, every pump OFF and every book of its tanks CURRENT. -/
def up : State := { State.reset with
  unit := { State.reset.unit with powered := true, strap := 7, settings := settings, kind := some .cold }
  link := { State.reset.link with join := .joined }
  books := .fill { State.reset.books.b1 with value := some 40000000, state := .current, ageTimer := some 0 }
  meters := .fill { State.reset.meters.h1 with levelA := some false, levelB := some false }
  valves := .fill { State.reset.valves.h1 with closed := true } }

/-- The station after a command. -/
def after (c : Instr) (s : State) : State :=
  match exec c s with
  | .next t => t
  | _ => s

/-- A station whose timers have run on by so many milliseconds. -/
def later (n : Nat) (s : State) : State :=
  let on : Timer → Timer := Option.map (· + n)
  { s with
    creepTimer := s.creepTimer + n
    beaconTimer := s.beaconTimer + n
    meters := s.meters.map fun m => { m with quiet := m.quiet + n, rateTimer := m.rateTimer + n }
    valves := s.valves.map fun v => { v with
      periodTime := v.periodTime + n, zeroTime := v.zeroTime + n, flowPast := on v.flowPast }
    hoses := s.hoses.map fun x => { x with tagTimer := on x.tagTimer, noFlow := on x.noFlow, flash := on x.flash }
    books := s.books.map fun b => { b with ageTimer := on b.ageTimer }
    gauging := { s.gauging with scanTimer := s.gauging.scanTimer + n, conflictTimer := on s.gauging.conflictTimer } }

/-- The live record of hose 2 in the worked case of 2.3. -/
def liveTwo : Live :=
  ⟨40117, some 48, .diesel, 5, noFlags, 1200000, 2300, 1197700, 1182700, 297030, 293310, none, none, 0⟩

/-- A hose in a state with a live record, its hook off. -/
def liveHose (st : HoseState) (l : Live) : Hose :=
  { State.reset.hoses.h1 with
    state := st, live := some l, overrun := 2300, hook := some .offHook, tagTimer := some 0
    noFlow := if st = .flowing ∨ st = .trimming then some 0 else none }

/-- A hose without a delivery. -/
def restHose (st : HoseState) (hook : Option Hook) : Hose :=
  { State.reset.hoses.h1 with state := st, hook := hook, overrun := 2300 }

/-- The station with hose 2 in a state with the record of 2.3, its net count and its valve. -/
def withTwo (st : HoseState) (net : Int) : State :=
  (((up.setHose .h2 (liveHose st liveTwo)).setMeter .h2 { up.meters.h1 with net := net }).setValve .h2
    { up.valves.h1 with
      commanded := stageOf st
      duty := if st = .flowing then 100 else if st = .trimming then 30 else 0
      closed := false
      flowPast := if st = .ending then some 0 else none }).setJournal { up.journal with reserved := 1 }

/-- The same in ENDING with a first reason and P_close. -/
def endingTwo (r : EndReason) (close net : Int) : State :=
  (withTwo .ending net).setHose .h2
    (liveHose .ending { liveTwo with endReason := some r, closeCount := some close })

/-- Hose 2 in PRIMING with its meter quiet for the end-settle time, so that an ending closes at its entry (R45). -/
def settled (net : Int) : State := (withTwo .priming net).setMeter .h2 { up.meters.h1 with net := net, quiet := 2000 }

/-- Hose 2 is then alone on its tank, and an ending does not settle first. -/
theorem settled_closes : ¬(settled 124).settlesLater .h2 ∧ ∀ g, g ≠ .h2 → (settled 124).liveTank g ≠ some 5 :=
  ⟨fun h => h.2.elim (absurd rfl) fun q => absurd q (by decide), by intro g; cases g <;> decide⟩

/-- A station with hose 1 FLOWING too, at a net count of 9,000. -/
def alsoOne (s : State) : State :=
  (((s.setHose .h1 (liveHose .flowing liveTwo)).setMeter .h1 { up.meters.h1 with net := 9000 }).setValve .h1
    { up.valves.h1 with commanded := .full, duty := 100, closed := false }).setJournal
      { s.journal with reserved := s.journal.reserved + 1 }

/-- The frame at the head of the receive buffer of a station. -/
def heard (src dest : Nat) (k : FrameKind) (body : List Byte) (s : State) : State :=
  s.setLink { s.link with buffer := [⟨⟨dest, src, kindCode k, body⟩, []⟩] }

/-- That entry. -/
def entry (src dest : Nat) (k : FrameKind) (body : List Byte) : RxEntry := ⟨⟨dest, src, kindCode k, body⟩, []⟩

/-- Machine 40,117 of the worked cases of chapter 3. -/
def truck : MachineRecord :=
  ⟨40117, .haul, false, some 999950, some ⟨999930, 1020000⟩, 9500, 1500000, 50000,
   [⟨.engineOil, 5000, 100, 999900, 100, 180000⟩], ⟨3, 0, 0, 0, 0⟩, none⟩

/-- The station with that record. -/
def withTruck (s : State) : State := s.setAccounts { s.accounts with roster := [truck] }


/-! ## The meter, the valves and the pumps: the figures of chapter 1 -/

/-- The table of R9. -/
theorem test_volume_table : volume 2480 (-3) = 0 ∧ volume 2480 1 = 4 ∧ volume 2480 124 = 500
    ∧ volume 2480 297030 = 1197702 ∧ volume 2480 297611 = 1200044 ∧ volume 160 1 = 63 ∧ volume 160 3 = 188 := by decide

/-- 1.1: with K 2,480 and a limit of 500 mL the 124th forward step raises CREEP. -/
theorem test_creep_124th_step :
    (after (.qualifiedPhaseChange .h1 true 20 false 20)
      (up.setMeter .h1 { up.meters.h1 with creep := 123 })).tripUnit.causes.creep = true := by decide

/-- R1: a level held for less than the minimum phase width is no change. -/
theorem test_narrow_phase : after (.qualifiedPhaseChange .h1 true 19 false 20) up = up := by decide

/-- R6: the accumulators are cleared. -/
theorem test_creep_window :
    ((after .creepWindowExpiry (later 60000 (up.setMeter .h1 { up.meters.h1 with creep := 123 }))).meters.get .h1).creep = 0 := by
  decide

/-- 1.1: a window of 4,133 steps gives 16,665 mL/s and no HOSE_BREAK. -/
theorem test_rate_below :
    let t := after (.rateWindowExpiry .h2)
      (later 1000 ((withTwo .flowing 9000).setMeter .h2 { (withTwo .flowing 9000).meters.h2 with window := 4133 }))
    t.meters.h2.rate = 16665 ∧ t.tripped = false := by decide

/-- 1.1: one of 5,200 steps gives 20,968 mL/s and raises it. -/
theorem test_rate_above :
    let t := after (.rateWindowExpiry .h2)
      (later 1000 ((withTwo .flowing 9000).setMeter .h2 { (withTwo .flowing 9000).meters.h2 with window := 5200 }))
    t.meters.h2.rate = 20968 ∧ t.tripUnit.causes.hoseBreak = true := by decide

/-- 2.3: the close of 297,611 after 297,030 is 1,200,044 mL and teaches 2,310 mL. -/
theorem test_settled_close :
    let t := after (.meterSettled .h2) (later 2000 (endingTwo .preset 297030 297611))
    t.hoses.h2.overrun = 2310 ∧ t.hoses.h2.state = .done .preset
      ∧ t.journal.records.map (fun r => (r.sequence, r.quantity, r.limit)) = [(1, 1200044, 1200000)] := by decide

/-- R45: at 1,999 ms of quiet the delivery does not close. -/
theorem test_unsettled : after (.meterSettled .h2) (later 1999 (endingTwo .preset 297030 297611))
    = later 1999 (endingTwo .preset 297030 297611) := by decide

/-- 2.10: and that of 289,840 after 289,836 teaches 1,737 mL from 2,310. -/
theorem test_learning_down : learned 2310 (observedOverrun 2480 289836 289840) = 1737 := by decide

/-- R12: a period begins with the output on. -/
theorem test_period_start : ((after (.drivePeriodStart .h2) (withTwo .trimming 9000)).valves.get .h2).output = true := by
  decide

/-- R12: the on-time of a duty below 100 % ends with the output off. -/
theorem test_on_time_end : ((after (.dutyOnTimeEnd .h2)
    (later 30 (after (.drivePeriodStart .h2) (withTwo .trimming 9000)))).valves.get .h2).output = false := by decide

/-- R14: a proof held for 100 ms is taken. -/
theorem test_valve_proof : ((after (.valveProofChange .h2 true 100) (withTwo .trimming 9000)).valves.get .h2).closed = true := by
  decide

/-- 1.5: at 602 the delivery closes with 297,036 and keeps PRESET; the hose is OUT_OF_SERVICE. -/
theorem test_valve_stuck :
    let t := after (.zeroDutySettle .h2) (later 2000 (endingTwo .preset 297030 297036))
    t.hoses.h2.state = .outOfService .valveStuck ∧ t.tripUnit.causes.valveStuck = true
      ∧ t.journal.records.map (fun r => r.reason) = [.preset] := by decide

/-- 1.5: stuck by flow at 630 the quantity of 297,121 is 1,198,069 mL. -/
theorem test_stuck_by_flow : (after (.flowPastExpiry .h2) (later 30000 (endingTwo .preset 297030 297121))).journal.records.map
    (fun r => r.quantity) = [1198069] := by decide

/-- 1.4: with proof present the pump enters RUNNING and its hose FLOWING. -/
theorem test_pump_settles :
    let t := after (.pumpSettleExpiry .p2) ((withTwo .priming 0).setPump .p2 ⟨.starting, some 3000, true⟩)
    t.pumps.p2.state = .running ∧ t.hoses.h2.state = .flowing ∧ t.valves.h2.duty = 100 := by decide

/-- R21: a proof lost in RUNNING ends the delivery with PUMP. -/
theorem test_pump_proof_lost :
    let t := after (.pumpProofChange .p2 false 100) ((withTwo .flowing 9000).setPump .p2 ⟨.running, none, true⟩)
    t.pumps.p2.state = .faulted ∧ t.hoses.h2.live.bind (fun l => l.endReason) = some .pump := by decide

/-- R22: with no run count the pump enters OFF. -/
theorem test_minimum_off :
    ((after (.minimumOffExpiry .p2) (up.setPump .p2 ⟨.cooldown, some 30000, false⟩)).pumps.get .p2).state = .off := by
  decide

/-! ## Deliveries and accounts: the figures of chapters 2 and 3 -/

/-- 2.10: a lift. -/
theorem test_lift : ((after (.nozzleHookChange .h3 true 100)
    (up.setHose .h3 (restHose .idle (some .onHook)))).hoses.get .h3).state = .waiting := by decide

/-- 2.10 and 3.2: the truck's claim at 48 is for 1,171,000 mL, with Pstop 289,836 and Ptrim 286,116. -/
theorem test_truck_claim :
    let s := withTruck (up.setHose .h3 { restHose .waiting (some .offHook) with overrun := 2310, claimTimer := some 9 })
    let t := after (.tagFrame .h3 true 40117 (some 48)) s
    t.hoses.h3.state = .priming ∧ t.pumps.p2.state = .starting ∧ t.journal.reserved = 1
      ∧ t.hoses.h3.live.map (fun l => (l.limit, l.stopCount, l.trimCount)) = some (1171000, 289836, 286116) := by decide

/-- 2.3: the thresholds of the worked case. -/
theorem test_thresholds : thresholds 1200000 2300 15000 2480 = ⟨1197700, 1182700, 297030, 293310⟩
    ∧ thresholds 2000 2310 15000 2480 = ⟨0, 0, 0, 0⟩ := by decide

/-- 3.2: at 999,935 the claim is HOURS_BACK with 50,000 mL; at 2,000 it is refused with HOURS_JUMP. -/
theorem test_hours_check :
    (hoursCheck settings (hoseOf .diesel 5) truck (some 999935)).answer
        = .given (50000, { noFlags with hoursBack := true })
      ∧ (hoursCheck settings (hoseOf .diesel 5) truck (some 2000)).answer = .refused .hoursJump := by decide

/-- R30: the claim timer refuses with NO_TAG. -/
theorem test_claim_timer : ((after (.claimTimerExpiry .h3)
    (up.setHose .h3 { restHose .waiting (some .offHook) with claimTimer := some 60000 })).hoses.get .h3).state
      = .refused .noTag := by decide

/-- R42: the tag grace ends a flowing delivery. -/
theorem test_tag_grace : ((after (.tagGraceExpiry .h2) (later 3000 (withTwo .flowing 9000))).hoses.get .h2).live.bind
    (fun l => l.endReason) = some .tagLost := by decide

/-- R41: so does the no-flow time. -/
theorem test_no_flow : ((after (.noFlowTimeout .h2) (later 20000 (withTwo .flowing 9000))).hoses.get .h2).live.bind
    (fun l => l.endReason) = some .noFlow := by decide

/-- R26: the lamp of a hose OUT_OF_SERVICE flashes. -/
theorem test_lamp : ((after (.lampFlashToggle .h3)
    (up.setHose .h3 { restHose (.outOfService .meter) none with lamp := true, flash := some 500 })).hoses.get .h3).lamp = false := by decide

/-- 3.3: the truck's close of 1,168,710 mL at 48 is a high burn, its fourth, and moves hours and fill. -/
theorem test_fuel_close :
    let r := closeRecord settings truck
      ⟨.h3, 40117, some 48, .diesel, 5, 1171000, 1168710, .preset, noFlags, 0, 0⟩ 48
    r.2.highBurn = true ∧ r.1.anomalies.highBurn = 4 ∧ r.1.lastHours = some 48 ∧ r.1.lastFill = some ⟨48, 1168710⟩ := by
  decide

/-- R50, R187: its DRAW, with journal sequence 885. -/
theorem test_draw_body : drawBytes 885 ⟨.h3, 40117, some 48, .diesel, 5, 1171000, 1168710, .preset, noFlags, 0, 0⟩
    = [0, 0, 3, 117, 5, 1, 0, 156, 181, 0, 0, 48, 0, 17, 213, 70] := by decide

/-- R186: 2^30 steps at a meter constant of 100 are a multiple of 2^32 mL, and their DRAW still carries a quantity of its
range. -/
theorem test_draw_above_its_field : volume 100 1073741824 = 25 * 4294967296
    ∧ 1 ≤ volumeAt .draw (25 * 4294967296) ∧ volumeAt .draw (25 * 4294967296) ≤ 4294967295 :=
  ⟨by decide, least_le_volumeAt (p := .draw) (by decide), volumeAt_le _ _⟩

/-- 3.3: its oil at 60 is SCHEDULED and moves the window to 4,960 to 5,160. -/
theorem test_lube_close :
    let r := lubeClose { truck with lastHours := some 48 } .engineOil 60 true
    r.2 = { noFlags with scheduled := true }
      ∧ r.1.windows.map (fun w => (w.dueFrom, w.dueUntil)) = [(4960, 5160)] := by decide

/-- 3.3: against the moved window 6,900 is OVERDUE, 8,000 and 4,000 are EARLY. -/
theorem test_lube_timing :
    let w : ServiceWindow := ⟨.engineOil, 5000, 100, 4960, 5160, 180000⟩
    (classify truck w 6900).2 = { noFlags with overdue := true }
      ∧ (classify truck w 8000).2 = { noFlags with early := true }
      ∧ (classify truck w 4000).2 = { noFlags with early := true } := by decide

/-- R85: a permit leaves at its expiry in local seconds. -/
theorem test_permit_expiry : (after (.permitExpiry 9 .diesel)
    ((up.setAccounts { up.accounts with permits := [⟨9, .diesel, 5000, 5⟩] }).setUnit
      { up.unit with seconds := 5 })).accounts.permits = [] := by decide

/-- R76: a peer's DRAW of 40,117 at 48 moves its hours and fill. -/
theorem test_draw_account :
    let t := after .drawAccount (heard 12 0 .draw
      (beBytes 4 884 ++ [22, 1] ++ beBytes 3 40117 ++ beBytes 3 48 ++ beBytes 4 900000) (withTruck up))
    t.accounts.roster.map (fun r => (r.lastHours, r.lastFill)) = [(some 48, some ⟨48, 900000⟩)]
      ∧ t.link.buffer.map (fun e => e.taken) = [[.accountTable]] := by decide

/-- The body of a ROSTER_SET of one window. -/
def setBody : List Byte :=
  beBytes 3 501 ++ [20] ++ beBytes 2 9500 ++ beBytes 3 1500000 ++ beBytes 3 50000 ++ beBytes 3 16777215 ++ [1]
    ++ [2] ++ beBytes 3 5000 ++ beBytes 2 100 ++ beBytes 3 50 ++ beBytes 3 180000

/-- 8.6: a broadcast ROSTER_SET of 28 characters creates the record; standing 20 is PRIORITY, SUSPENDED. -/
theorem test_roster_set :
    let t := after .rosterSet (heard 50 0 .rosterSet setBody up)
    setBody.length = 28 ∧ t.link.ordinary = []
      ∧ t.accounts.roster.map (fun r => (r.id, r.cls, r.suspended, r.windows))
        = [(501, .priority, true, [⟨.engineOil, 5000, 100, 999950, 150, 180000⟩])] := by decide

/-- 8.6: one of three declared windows and 40 characters draws BAD_LENGTH. -/
theorem test_roster_set_length :
    let t := after .rosterSet (heard 50 7 .rosterSet (setBody.take 15 ++ [3] ++ List.replicate 24 0) up)
    t.accounts.roster = [] ∧ t.link.ordinary.map (fun e => (e.dest, e.kind, e.body)) = [(50, .refused, [17, 1])] := by
  decide

/-- R82: a removed record leaves. -/
theorem test_roster_remove :
    (after .rosterRemove (heard 50 0 .rosterRemove (beBytes 3 40117) (withTruck up))).accounts.roster = [] := by decide

/-- R84: a permit of one hour from local second 0 expires at 3,600. -/
theorem test_permit : (after .permit
    (heard 50 7 .permit (beBytes 3 9 ++ [1] ++ beBytes 3 5000 ++ beBytes 3 3600) up)).accounts.permits
      = [⟨9, .diesel, 5000, 3600⟩] := by decide

/-- 8.6: an ACCOUNT_READ of 16,777,215 draws OUT_OF_RANGE. -/
theorem test_account_read_range : (after .accountRead
    (heard 50 7 .accountRead (beBytes 3 16777215 ++ [1, 1]) up)).link.ordinary.map (fun e => (e.kind, e.body))
      = [(.refused, [34, 3])] := by decide

/-- R86, R187: the head of 40,117 as an ACCOUNT_REP. -/
theorem test_account_head : (after .accountRead
    (heard 50 7 .accountRead (beBytes 3 40116 ++ [2, 1]) (withTruck up))).link.ordinary.map (fun e => (e.kind, e.body))
      = [(.accountRep, [1, 0, 156, 181, 1, 15, 66, 14, 15, 65, 250, 0, 15, 144, 96, 37, 28, 22, 227, 96, 0, 195, 80,
        3, 0, 0, 0, 0, 0, 0, 0, 0, 0, 1, 0, 1])] := by decide

/-! ## Tanks and the trip unit: the figures of chapters 4 and 5 -/

/-- The station with the book of tank 5 at a value and some keys. -/
def withBook (v : Nat) (keys : List Key) (s : State) : State :=
  s.setBook .b1 ⟨some v, .current, 0, 0, keys, some 0⟩

/-- 4.7: DRAW (12, 884) of 900,000 mL takes 9,600,000 to 8,700,000 mL. -/
theorem test_draw_book :
    let t := after .drawBook (heard 12 0 .draw
      (beBytes 4 884 ++ [5, 1] ++ beBytes 3 9 ++ beBytes 3 16777215 ++ beBytes 4 900000)
      (withBook 9600000 [⟨7, 410⟩, ⟨12, 883⟩, ⟨31, 77⟩] up))
    t.books.b1.value = some 8700000 ∧ t.books.b1.recent = [⟨7, 410⟩, ⟨12, 883⟩, ⟨31, 77⟩, ⟨12, 884⟩] := by decide

/-- 4.7: a HAUL truck is refused at the reserve, a PRIORITY machine is given the stock above the dead level. -/
theorem test_stock_gate : stockGate 5 false (withBook 5870000 [] up) = .refused .stockReserve
    ∧ stockGate 5 true (withBook 5870000 [] up) = .given (870000, false) := by decide

/-- 4.7: RECEIPT 3,316 of 60,000,000 mL takes 4,886,600 to 64,886,600 mL. -/
theorem test_receipt :
    let t := after .receipt (heard 50 0 .receipt (beBytes 4 3316 ++ [5] ++ beBytes 4 60000000) (withBook 4886600 [] up))
    t.books.b1.value = some 64886600 ∧ t.books.b1.recent = [⟨50, 3316⟩] := by decide

/-- R97, R99: a peer's LEVEL of tank 6 within the tolerance keeps the book and gives the variance. -/
theorem test_level :
    let t := after .level (heard 12 0 .level ([6] ++ beBytes 2 1000 ++ beBytes 4 39900000) up)
    t.books.b2.value = some 40000000 ∧ t.books.b2.variance = -100000 := by decide

/-- R101: the book ages. -/
theorem test_gauge_age : ((after (.gaugeAgeExpiry .b1) (later 600000 up)).books.get .b1).state = .aged := by decide

/-- R101: at a LEVEL of the same instant the timer restarts and the book does not age. -/
theorem test_gauge_age_restarted : (after (.gaugeAgeExpiry .b1) (later 599999 up)).books.b1.state = .current := by decide

/-- R103: a LEVEL of a tank gauged here sets the conflict flag, and the timer clears it. -/
theorem test_conflict :
    let t := after .level (heard 12 0 .level ([9] ++ beBytes 2 1000 ++ beBytes 4 39900000) up)
    t.gauging.conflict = true ∧ (after .conflictTimerExpiry (later 600000 t)).gauging.conflict = false := by decide

/-- R104: the used channel alone opens its gate. -/
theorem test_scan :
    let t := after .scanTimerExpiry (later 5000 up)
    t.probes.c1.gate = some 0 ∧ t.probes.c2.gate = none := by decide

/-- The station with channel 1's gate open on a history. -/
def gated (st : ProbeState) (hs : List Nat) : State :=
  (up.setProbe .c1 ⟨st, hs, true, some 100⟩).setBook .b3 ⟨some 48900000, .aged, 0, 0, [], none⟩

/-- 4.8: scan 3 tracks at 1,230 mm, and the book takes 49,390,000 mL with a variance of 490,000 mL. -/
theorem test_tracking_scan :
    let t := after (.probeGateClose .c1 6918) (gated .acquiring [1228, 1233])
    t.probes.c1 = ⟨.tracking, [1228, 1233, 1229], false, none⟩
      ∧ t.books.b3 = ⟨some 49390000, .current, 490000, 0, [], some 0⟩
      ∧ t.link.ordinary.map (fun e => (e.kind, e.body)) = [(.level, [9, 4, 206, 2, 241, 161, 176])] := by decide

/-- 4.8: scan 5, a count of 40, is a fault. -/
theorem test_probe_fault : ((after (.probeGateClose .c1 40) (gated .tracking [1228, 1233, 1229, 1232])).probes.get .c1)
    = ⟨.fault, [], true, none⟩ := by decide

/-- R104: no count is taken while the gate time of 100 ms runs. -/
theorem test_gate_open : let s := up.setProbe .c1 ⟨.tracking, [1228], true, some 99⟩
    after (.probeGateClose .c1 6918) s = s := by decide

/-- R109: heights above the last point and on a point. -/
theorem test_strapping : strapVolume settings.probes.c1.points 2950 = 110000000
    ∧ strapVolume settings.probes.c1.points 500 = 18000000 := by decide

/-- 5.7: SUMP with the counter at 41 begins episode 42 and hands over TRIP (3, 42, SUMP). -/
theorem test_sump :
    let t := after (.spillInputConfirm .i1 true 1000)
      (up.setTripUnit { up.tripUnit with stampCounter := 41, inputs := .fill .atRest })
    t.tripUnit.episode = some 42 ∧ t.tripUnit.announced = true
      ∧ t.link.reserved.map (fun e => (e.kind, e.body)) = [(.trip, [3, 0, 42, 1])] := by decide

/-- Episode 42 of station 7 with its cause SUMP announced. -/
def tripped : State :=
  up.setTripUnit { up.tripUnit with
    causes := { noCauses with sump := true }, stampCounter := 42, episode := some 42, announced := true
    inputs := .fill .atRest, keySwitch := .atRest, button := .released }

/-- 5.7: ESTOP joins episode 42, and the TRIP names both causes. -/
theorem test_estop :
    let t := after (.emergencyStop true 100) tripped
    t.tripUnit.episode = some 42 ∧ t.link.reserved.map (fun e => e.body) = [[3, 0, 42, 5]] := by decide

/-- 5.7: the key at 330 removes the last cause; CLEAR (3, 42) is handed over and the zone is NORMAL. -/
theorem test_reset_key :
    let t := after (.tripResetKey 100) tripped
    t.tripped = false ∧ t.tripUnit.episode = none ∧ t.tripUnit.announced = false
      ∧ t.link.reserved.map (fun e => (e.kind, e.body)) = [(.clear, [3, 0, 42])] := by decide

/-- R130: a key operation before the 124th step clears the accumulators, so that the step raises no CREEP. -/
theorem test_key_clears_creep :
    (after (.qualifiedPhaseChange .h1 true 20 false 20) (after (.tripResetKey 100)
      ((up.setTripUnit { up.tripUnit with keySwitch := .atRest }).setMeter .h1
        { up.meters.h1 with creep := 123 }))).tripped = false := by decide

/-- R129: the key at rest stops the override hold. -/
theorem test_key_release : (after (.keyRelease 100) (after (.tripResetKey 100) tripped)).tripUnit.overrideTimer = none := by
  decide

/-- R133: the override removes an origin that is not in the peer table. -/
theorem test_override :
    let t := after .overrideHoldExpiry
      (up.setTripUnit { up.tripUnit with origins := [⟨12, 42, noCauses⟩], overrideTimer := some 5000 })
    t.tripUnit.origins = [] ∧ t.tripped = false := by decide

/-- 5.7: at 1.8 the TRIP adds (7, 42, SUMP), ends hose 2 with TRIP and refuses hose 5 with TRIPPED. -/
theorem test_trip :
    let s := (withTwo .flowing 9000).setHose .h5 (restHose .waiting (some .offHook))
    let t := after .trip (heard 12 0 .trip [3, 0, 42, 1] s)
    t.tripUnit.origins = [⟨12, 42, { noCauses with sump := true }⟩] ∧ t.hoses.h5.state = .refused .tripped
      ∧ t.hoses.h2.live.bind (fun l => l.endReason) = some .trip ∧ t.valves.h2.duty = 0 := by decide

/-- R126: a CLEAR of the same stamp removes the entry. -/
theorem test_clear :
    (after .clear (heard 12 0 .clear [3, 0, 42]
      (up.setTripUnit { up.tripUnit with origins := [⟨12, 42, noCauses⟩] }))).tripUnit.origins = [] := by decide

/-- The body of a beacon of zone 3 with a stamp and a cause code. -/
def beaconOf (interval stamp causes : Nat) (tanks : List Nat) : List Byte :=
  oneByte interval ++ [3, 2, 0] ++ beBytes 2 stamp ++ oneByte causes ++ [0] ++ beBytes 4 1000 ++ oneByte tanks.length
    ++ tanks.flatMap oneByte

/-- 5.7: at 331 the beacon with stamp 0 removes the entry whose CLEAR was missed. -/
theorem test_beacon_clears :
    (after .beacon (heard 12 0 .beacon (beaconOf 5 0 0 [])
      (up.setTripUnit { up.tripUnit with origins := [⟨12, 42, noCauses⟩] }))).tripUnit.origins = [] := by decide

/-- 5.7: at 311 a beacon with stamp 42 brings the entry up to date. -/
theorem test_beacon_updates :
    (after .beacon (heard 12 0 .beacon (beaconOf 5 42 4 [])
      (up.setTripUnit { up.tripUnit with origins := [⟨12, 42, { noCauses with sump := true }⟩] }))).tripUnit.origins
      = [⟨12, 42, { noCauses with estop := true }⟩] := by decide

/-! ## Peers, journal and frames: the figures of chapters 6, 8 and 9 -/

/-- A peer of 9.5. -/
def peerOf (a : Nat) (heardAt : Nat) (st : Liveness) : Peer := ⟨a, 5, heardAt, st, [], none, none⟩

/-- A table of 32 peers, of which 5, 19 and 33 are LOST. -/
def fullTable : List Peer :=
  (List.range 32).map fun i =>
    if i + 4 = 5 then peerOf 5 800 .lost
    else if i + 4 = 19 ∨ i + 4 = 33 then peerOf (i + 4) 650 .lost else peerOf (i + 4) 990 .heard

/-- 9.5: at 1,000 the DRAW of 44 takes the place of 19, heard at 650 like 33 and of the lower address. -/
theorem test_peer_table :
    let s := (up.setPeers fullTable).setUnit { up.unit with seconds := 1000 }
    let t := after .peerTableUpdate (heard 44 0 .draw
      (beBytes 4 1 ++ [5, 1] ++ beBytes 3 9 ++ beBytes 3 16777215 ++ beBytes 4 900000) s)
    t.peers.length = 32 ∧ (t.peer 19).isNone = true ∧ (t.peer 33).isSome = true
      ∧ t.peer 44 = some ⟨44, 5, 1000, .heard, [], some 0, some 0⟩ := by decide

/-- 9.5: at 1,003 the BEACON of 44 gives interval 10 and tank 22. -/
theorem test_peer_beacon :
    (after .peerTableUpdate (heard 44 0 .beacon (beaconOf 10 0 0 [22]) (up.setPeers [peerOf 44 1000 .heard]))).peers.map
      (fun p => (p.interval, p.tanks)) = [(10, [22])] := by decide

/-- 9.5: at 1,023 the QUIET timer runs out. -/
theorem test_peer_quiet :
    (after (.peerQuietExpiry 44) (up.setPeers [⟨44, 10, 1003, .heard, [22], some 20000, some 20000⟩])).peers.map
      (fun p => p.state) = [.quiet] := by decide

/-- R102, R196: a lost peer's tanks age. -/
theorem test_peer_lost :
    let t := after (.peerLostExpiry 44) (up.setPeers [⟨44, 10, 1003, .quiet, [5], none, some 30000⟩])
    t.books.b1.state = .aged ∧ t.books.b2.state = .current ∧ t.peers.map (fun p => p.state) = [.lost] := by decide

/-- R194: heard again at the same instant, the peer stays HEARD and no book ages. -/
theorem test_peer_heard_again :
    let s := up.setPeers [⟨44, 10, 1003, .heard, [5], some 19999, some 29999⟩]
    after (.peerLostExpiry 44) s = s ∧ after (.peerQuietExpiry 44) s = s := by decide

/-- R189, R187: the station's beacon. -/
theorem test_beacon_timer : (after .beaconTimerExpiry (later 5000 up)).link.ordinary.map (fun e => (e.kind, e.body))
    = [(.beacon, [5, 3, 2, 0, 0, 0, 0, 0, 0, 0, 0, 0, 1, 9])] := by decide

/-- Records of the journal of 6.8. -/
def recordAt (q : Nat) (collected : Bool) : DeliveryRecord :=
  ⟨q, .h2, .diesel, 5, 40117, none, 1000, 1000, .preset, noFlags, 0, 0, none, collected⟩

/-- A short journal, 5,101 to 5,103 with the mark at 5,101. -/
def shortJournal : Journal := ⟨[recordAt 5101 true, recordAt 5102 false, recordAt 5103 false], 5104, 5101, 0, none⟩

/-- 6.8: a sequence behind marks nothing, one ahead marks all to the newest. -/
theorem test_collect :
    (after .collect (heard 51 7 .collect (beBytes 4 4990) (up.setJournal shortJournal))).journal = shortJournal
      ∧ (after .collect (heard 50 7 .collect (beBytes 4 6000) (up.setJournal shortJournal))).journal.mark = 5103
      ∧ (after .collect (heard 50 7 .collect (beBytes 4 6000) (up.setJournal shortJournal))).journal.uncollected = 0 := by
  decide

/-- R138: the forward distance from 5,101 to 4,990 is 4,294,967,184. -/
theorem test_sequence_distance : sequenceForward 5101 4990 = 4294967184 ∧ nextSequence 4294967295 = 1 := by decide

/-- 6.8: a read naming 5,103 to 5,107 answers 5,103 first. -/
theorem test_journal_read :
    let t := after .journalRead (heard 50 7 .journalRead (beBytes 4 5103 ++ [5]) (up.setJournal shortJournal))
    t.journal.read = some ⟨50, 5104, 4, false⟩ ∧ t.link.ordinary.map (fun e => (e.kind, e.body.take 4))
      = [(.journalRec, [0, 0, 19, 239])] := by decide +kernel

/-- R54: STOP_HOSE ends a flowing delivery, and finds an idle hose NOT_LIVE. -/
theorem test_stop_hose :
    ((after .stopHose (heard 50 7 .stopHose [2] (withTwo .flowing 9000))).hoses.get .h2).live.bind (fun l => l.endReason)
        = some .officeStop
      ∧ (after .stopHose (heard 50 7 .stopHose [4] up)).link.ordinary.map (fun e => e.body) = [[38, 4]] := by decide

/-- 8.6: STATUS_REQ part 1 with clearing is answered with framing 3 and malformed 2, and clears. -/
theorem test_status_req :
    let t := after .statusReq (heard 50 7 .statusReq [1, 1] (up.setCounts ⟨3, 0, 0, 0, 0, 2, 0, 0⟩))
    t.counts = ⟨0, 0, 0, 0, 0, 0, 0, 0⟩
      ∧ t.link.ordinary.map (fun e => (e.body.length, e.body.drop 29)) = [(45, [0, 3, 0, 0, 0, 0, 0, 0, 0, 0, 0, 2, 0, 0, 0, 0])] := by
  decide

/-- 8.6: part 2 with clearing draws OUT_OF_RANGE. -/
theorem test_status_req_range : (after .statusReq (heard 50 7 .statusReq [2, 1] up)).link.ordinary.map (fun e => e.body)
    = [[32, 3]] := by decide

/-- R182: vendor 2,817, part 7,310, revision 1, check value 0 without an image. -/
theorem test_ident : (after .identReq (heard 50 7 .identReq [] up)).link.ordinary.map (fun e => (e.kind, e.body))
    = [(.identRep, [11, 1, 28, 142, 1, 0, 0])] := by decide

/-- R183: a RESTART waits for the sending of its reply. -/
theorem test_restart : (after .restart (heard 50 7 .restart [] up)).link.ordinary.map (fun e => (e.kind, e.purpose))
    = [(.identRep, .restartReply)] := by decide

/-- 8.6: TIME 812,400,000 at local seconds 96,000 gives the offset 812,304,000. -/
theorem test_time : (after .time (heard 50 0 .time (beBytes 4 812400000)
    (up.setUnit { up.unit with seconds := 96000 }))).unit.siteOffset = some 812304000 := by decide

/-- 8.6: kind 90 to station 7 draws UNKNOWN_KIND, and STOP_HOSE to 0 is counted. -/
theorem test_unknown_kind :
    (after .unknownKindFrame (up.setLink { up.link with buffer := [⟨⟨7, 50, 90, []⟩, []⟩] })).link.ordinary.map
        (fun e => e.body) = [[90, 2]]
      ∧ (after .stopHose (heard 50 0 .stopHose [4] up)).counts.malformed = 1 := by decide

/-! ## The line and the starts: the figures of chapters 7 and 10 -/

/-- The check of R153 over the characters of "123456789" is 10,673 (the published check value of this code). -/
theorem test_check_code : checkCode ([49, 50, 51, 52, 53, 54, 55, 56, 57] : List Byte) = 10673 := by decide +kernel

/-- R154, R155: a broken start of a frame is counted once, and the next head opens a frame. -/
theorem test_character :
    let t := after (.characterReceived 7 true true) (up.setLink { up.link with receiver := .assembling 0 [12] })
    t.link.receiver = .assembling 7 [] ∧ t.counts.framing = 1 := by decide

/-- R156, R157: the second check character completes a frame. -/
theorem test_frame_complete :
    let cs : List Byte := [50, 33, 0]
    let t := after (.characterReceived (BitVec.ofNat 8 (checkCode cs)) false true)
      (up.setLink { up.link with receiver := .assembling 7 (cs ++ oneByte (checkCode cs / 256)) })
    t.link.buffer = [⟨⟨7, 50, 33, []⟩, []⟩] := by decide

/-- R155: three silent character times discard a partial frame. -/
theorem test_character_timeout :
    (after (.characterTimeout 3) (up.setLink { up.link with receiver := .assembling 0 [12] })).counts.framing = 1 := by decide

/-- R155: where the third silent character time ends as a new head arrives, one framing error is counted in either order,
and the new frame is assembled. -/
theorem test_timeout_and_head :
    let s := up.setLink { up.link with receiver := .assembling 0 [12], silence := some 2 }
    let t := after (.characterTimeout 1) (after (.characterReceived 7 true true) s)
    let u := after (.characterReceived 7 true true) (after (.characterTimeout 1) s)
    t.link.receiver = .assembling 7 [] ∧ t.counts.framing = 1 ∧ u.link.receiver = .assembling 7 [] ∧ u.counts.framing = 1 := by
  decide

/-- A queued DRAW at an attempt. -/
def queuedDraw (attempt : Nat) (st : TxStatus) : TxEntry := ⟨0, .draw, [1, 2], 5, .deliveryController, .plain, attempt, st, 0⟩

/-- 7.7, 7.8: the backoffs of stations 7 and 12. -/
theorem test_backoff : backoff 7 2 = 9 ∧ backoff 12 2 = 2 ∧ backoff 7 4 = 15 ∧ accessGap 7 (queuedDraw 1 .fresh) = 7
    ∧ accessGap 7 (queuedDraw 2 .started) = 16 ∧ accessGap 12 ⟨0, .level, [], 0, .tankBooks, .plain, 2, .started, 0⟩ = 9 := by
  decide

/-- 7.7: the fresh DRAW's attempt begins at silence 7, not at 6. -/
theorem test_access_gap :
    let s := up.setLink { up.link with ordinary := [queuedDraw 1 .fresh] }
    (after (.accessGapReached 6) s).link.driver = .released ∧ (after (.accessGapReached 7) s).link.driver = .lead := by
  decide

/-- R161: the lead time ends in the sending of the characters. -/
theorem test_lead : (after .leadTimeEnd (up.setLink { up.link with driver := .lead })).link.driver = .sending 0 := by decide

/-- 7.7: a mismatch counts a collision, and the DRAW waits for attempt 2. -/
theorem test_echo_mismatch :
    let t := after .echoMismatch
      (up.setLink { up.link with ordinary := [queuedDraw 1 .inTransmission], driver := .sending 1 })
    t.counts.collision = 1 ∧ t.link.ordinary = [queuedDraw 2 .started] ∧ t.link.driver = .released := by decide

/-- R169: a sent frame leaves the queue. -/
theorem test_frame_sent :
    let t := after .frameSent (up.setLink { up.link with ordinary := [queuedDraw 1 .inTransmission], driver := .tail })
    t.link.ordinary = [] ∧ t.link.failures = 0 := by decide

/-- R171: the join timer leads to JOINED. -/
theorem test_join : (after .joinTimerExpiry
    (up.setLink { up.link with join := .listen, joinTimer := some 12000 })).link.join = .joined := by decide

/-- R172: the isolation hold leads to LISTEN. -/
theorem test_isolation : (after .isolationHoldExpiry
    (up.setLink { up.link with join := .isolated, isolationTimer := some 30000 })).link.join = .listen := by decide

/-- R202: a memory without an image starts in CONFIG_FAULT with NO_IMAGE, an address of 0 with BAD_ADDRESS. -/
theorem test_no_image : (after (.powerOn 7 [] false none) State.reset).unit.fault = .noImage
    ∧ (after (.powerOn 0 [] false none) State.reset).unit.fault = .badAddress := by decide

/-- R203: the net count of a live delivery is retained at a loss of power. -/
theorem test_power_loss :
    let t := after .mainPowerLoss (withTwo .flowing 9000)
    t.unit.powered = false ∧ t.retained.h2 = some ⟨liveTwo, 9000⟩ ∧ t.valves.h2.duty = 0 := by decide

/-- R157: an idle station passes a buffered DRAW on to its three owners. -/
theorem test_idle_passes : (idle (heard 12 0 .draw
    (beBytes 4 884 ++ [5, 1] ++ beBytes 3 9 ++ beBytes 3 16777215 ++ beBytes 4 900000) up)).pending
      = [.drawBook, .drawAccount, .peerTableUpdate] := by decide

/-- R159: a frame that joins when the silence held has passed its gap is attempted at once. -/
theorem test_idle_attempts : (idle (up.setLink { up.link with
    ordinary := [queuedDraw 1 .fresh], silence := some 7 })).pending = [.accessGapReached 7] := by decide

/-- R206: an idle station's millisecond brings the expiry that falls due. -/
theorem test_idle_ticks : .claimTimerExpiry .h1 ∈
    (idle (up.setHose .h1 { restHose .waiting (some .offHook) with claimTimer := some 59999 })).pending := by decide

/-! ## Witnesses: for each statement with hypotheses, a state and operands that meet them together -/

theorem witness_StepTakesTheFrontCommand : ∃ (c : Instr) (rest : List Instr) (s : State), s.pending = c :: rest :=
  ⟨.creepWindowExpiry, [.conflictTimerExpiry],
    { up with pending := [.creepWindowExpiry, .conflictTimerExpiry] }, rfl⟩

/-- Sound frames of every kind that has an owner, from station 12 and from an office. -/
def soundFrames : List (FrameKind × RxEntry) :=
  [(.beacon, entry 12 0 .beacon (beaconOf 5 0 0 [])), (.trip, entry 12 0 .trip [3, 0, 42, 1]),
   (.clear, entry 12 0 .clear [3, 0, 42]),
   (.draw, entry 12 0 .draw (beBytes 4 884 ++ [5, 1] ++ beBytes 3 9 ++ beBytes 3 16777215 ++ beBytes 4 900000)),
   (.level, entry 12 0 .level ([6] ++ beBytes 2 1000 ++ beBytes 4 39900000)),
   (.level, entry 50 0 .level ([6] ++ beBytes 2 1000 ++ beBytes 4 39900000)),
   (.receipt, entry 50 0 .receipt (beBytes 4 3316 ++ [5] ++ beBytes 4 60000000)), (.rosterSet, entry 50 0 .rosterSet setBody),
   (.rosterRemove, entry 50 0 .rosterRemove (beBytes 3 40117)),
   (.permit, entry 50 7 .permit (beBytes 3 9 ++ [1] ++ beBytes 3 5000 ++ beBytes 3 3600)),
   (.accountRead, entry 50 7 .accountRead (beBytes 3 40116 ++ [2, 1])),
   (.journalRead, entry 50 7 .journalRead (beBytes 4 5103 ++ [5])), (.collect, entry 50 7 .collect (beBytes 4 1)),
   (.stopHose, entry 50 7 .stopHose [4]), (.restart, entry 50 7 .restart []), (.statusReq, entry 50 7 .statusReq [1, 1]),
   (.identReq, entry 50 7 .identReq []), (.time, entry 50 0 .time (beBytes 4 1))]

/-- A station whose queue holds a fresh DRAW, of gap 7, at a silence. -/
def ready (silence : Option Nat) : State :=
  up.setLink { up.link with ordinary := [⟨0, .draw, [1, 2], 5, .deliveryController, .plain, 1, .fresh, 0⟩], silence := silence }

/-- Without power; a silence at the gap; the five reasons for no attempt, the silence one below the gap among them, with a
buffered frame and at the last millisecond of the last second; a frame of no kind, a reply, one that is not sound, and a
sound one of each other kind. -/
theorem witness_IdleStationPassesFramesAndTime :
    (∃ s : State, s.pending = [] ∧ s.unit.powered = false)
      ∧ (∃ (s : State) (n : Nat) (e : TxEntry), s.pending = [] ∧ s.unit.powered = true ∧ s.link.driver = .released
        ∧ s.mayDrive = true ∧ s.link.silence = some n ∧ s.link.first = some e ∧ accessGap s.ownAddress e = n)
      ∧ (∀ s ∈ [(ready none).setLink { (ready (some 9)).link with driver := .lead },
          (ready none).setLink { (ready (some 9)).link with join := .listen }, ready none,
          up.setLink { up.link with silence := some 9 }, ready (some 6)],
        (∃ (t : State) (e : RxEntry), t = heard 50 7 .identReq [] s ∧ t.link.buffer = [e])
          ∧ (∃ t : State, t = s.setUnit { s.unit with millis := 999, seconds := 4294967295 } ∧ t.link.buffer = []
            ∧ t.unit.millis < 1000 ∧ t.unit.seconds < 4294967296)
          ∧ s.pending = [] ∧ s.unit.powered = true
          ∧ (s.link.driver ≠ .released ∨ s.mayDrive = false ∨ s.link.silence = none ∨ s.link.first = none
            ∨ ∃ n e, s.link.silence = some n ∧ s.link.first = some e ∧ n + 1 = accessGap s.ownAddress e))
      ∧ (∃ e : RxEntry, kindOfCode e.frame.kind = none)
      ∧ (∃ (e : RxEntry) (k : FrameKind), kindOfCode e.frame.kind = some k ∧ familyOf k = .reply)
      ∧ (∃ (e : RxEntry) (k : FrameKind), kindOfCode e.frame.kind = some k ∧ verdict e.frame ≠ .sound
        ∧ familyOf k ≠ .reply)
      ∧ ∀ p ∈ soundFrames, kindOfCode p.2.frame.kind = some p.1 ∧ verdict p.2.frame = .sound ∧ p.2.taken = [] := by
  refine ⟨⟨State.reset, rfl, rfl⟩, ⟨ready (some 7), 7, _, rfl, rfl, rfl, by decide, rfl, rfl, by decide⟩, ?_,
    ⟨⟨⟨7, 50, 90, []⟩, []⟩, by decide⟩, ⟨entry 50 7 .statusRep [], .statusRep, by decide, by decide⟩,
    ⟨entry 50 0 .stopHose [4], .stopHose, by decide, by decide, by decide⟩, by decide⟩
  intro s hs
  simp only [List.mem_cons, List.not_mem_nil, or_false] at hs
  rcases hs with rfl | rfl | rfl | rfl | rfl
  · exact ⟨⟨_, _, rfl, rfl⟩, ⟨_, rfl, rfl, by decide, by decide⟩, rfl, rfl, .inl (by decide)⟩
  · exact ⟨⟨_, _, rfl, rfl⟩, ⟨_, rfl, rfl, by decide, by decide⟩, rfl, rfl, .inr (.inl (by decide))⟩
  · exact ⟨⟨_, _, rfl, rfl⟩, ⟨_, rfl, rfl, by decide, by decide⟩, rfl, rfl, .inr (.inr (.inl rfl))⟩
  · exact ⟨⟨_, _, rfl, rfl⟩, ⟨_, rfl, rfl, by decide, by decide⟩, rfl, rfl, .inr (.inr (.inr (.inl rfl)))⟩
  · exact ⟨⟨_, _, rfl, rfl⟩, ⟨_, rfl, rfl, by decide, by decide⟩, rfl, rfl,
      .inr (.inr (.inr (.inr ⟨6, _, rfl, rfl, by decide⟩)))⟩

/-- The station with a delivery FLOWING and its pump RUNNING. -/
def busy : State := (withTwo .flowing 9000).setPump .p2 ⟨.running, none, true⟩

theorem witness_EveryStepKeepsTheOutputsSafe : ∃ s t : State, s.OutputsSafe ∧ step s = .next t := by
  refine ⟨busy, _, ⟨?_, ?_, ?_⟩, rfl⟩
  · intro h; cases h <;> exact ⟨by decide, by decide, by decide⟩
  · intro p; cases p <;> exact fun c => ⟨by decide, by revert c; decide⟩
  · intro h c; exact absurd c (by decide)

theorem witness_EveryStepKeepsTheDeliveries : ∃ s t : State, s.DeliveriesKept ∧ step s = .next t := by
  refine ⟨busy, _, ⟨?_, by decide, by decide, by decide, by decide, by decide⟩, rfl⟩
  intro h
  refine ⟨by cases h <;> decide, ?_⟩
  cases h <;> intro l e <;> simp [busy, withTwo, liveHose, up, State.reset] at e ⊢
  subst e
  decide

theorem witness_EveryStepKeepsTheCollections : ∃ s t : State, s.CollectionsKept ∧ step s = .next t := by
  refine ⟨heard 50 7 .identReq [] ((withTruck (withBook 9600000 [⟨7, 410⟩, ⟨12, 883⟩] up)).setPeers
      [⟨44, 10, 1003, .heard, [5, 64], some 0, some 0⟩]), _,
    ⟨?_, ?_, ?_, ?_, ?_, ?_, by decide, by decide, by decide, ?_, ?_, by decide⟩, rfl⟩
  · exact ⟨by decide, by decide⟩
  · exact ⟨by decide, by decide⟩
  · intro k; cases k <;> exact ⟨by decide, by decide⟩
  · intro c; cases c <;> decide
  · exact ⟨by decide, by decide⟩
  · exact ⟨by decide, by decide⟩
  · intro r hr
    rcases List.mem_singleton.mp hr with rfl
    exact ⟨by decide, by decide⟩
  · intro p hp
    rcases List.mem_singleton.mp hp with rfl
    exact ⟨by decide, by decide⟩

theorem witness_EveryStepKeepsTheWidths : ∃ s t : State, s.WidthsKept ∧ step s = .next t := by
  refine ⟨((withTruck up).setMeter .h1 { up.meters.h1 with net := 2147483647, phaseErrors := 65535, creep := 4294967295 }).setCounts
    ⟨65535, 0, 0, 0, 0, 0, 0, 0⟩, _, ⟨?_, ?_, ?_, ?_, ?_, ?_, by decide, by decide⟩, rfl⟩
  · unfold Counts.fit; decide
  · intro h; unfold netFits; cases h <;> decide
  · intro h r e; cases h <;> cases e
  · intro h; cases h <;> decide
  · intro r hr
    rcases List.mem_singleton.mp hr with rfl
    unfold Anomalies.fit; decide
  · intro k; cases k <;> decide

/-- A station whose hose 1, IDLE, stands at a creep accumulator. -/
def creeping (n : Nat) : State := up.setMeter .h1 { up.meters.h1 with creep := n }

/-- The 123rd forward step stays below 500 mL, a reverse step at 0 stays at 0, the 124th reaches the limit. -/
theorem witness_StepOutsideADeliveryMovesTheCreepAccumulator :
    (∃ (s : State) (h : HoseIx) (la : Bool) (ha : Nat) (lb : Bool) (hb : Nat) (a b : Bool),
      s.phaseMoves h la ha lb hb a b (stepMove true) ∧ liveState (s.hoses.get h).state = false
        ∧ s.cfg.creepUsable = true
        ∧ volume (s.hoseCfg h).meterK (min ((s.meters.get h).creep + 1) 4294967295 : Nat) < s.cfg.creepLimit)
      ∧ (∃ (s : State) (h : HoseIx) (la : Bool) (ha : Nat) (lb : Bool) (hb : Nat) (a b : Bool),
        s.phaseMoves h la ha lb hb a b (stepMove false) ∧ liveState (s.hoses.get h).state = false)
      ∧ ∃ (s : State) (h : HoseIx) (la : Bool) (ha : Nat) (lb : Bool) (hb : Nat) (a b : Bool),
        s.phaseMoves h la ha lb hb a b .forward ∧ liveState (s.hoses.get h).state = false ∧ s.cfg.creepUsable = true
          ∧ s.cfg.creepLimit ≤ volume (s.hoseCfg h).meterK (min ((s.meters.get h).creep + 1) 4294967295 : Nat) :=
  ⟨⟨creeping 122, .h1, true, 20, false, 0, true, false, ⟨rfl, rfl, rfl, rfl, rfl, rfl, rfl⟩, rfl, rfl, by decide⟩,
    ⟨creeping 0, .h1, false, 20, true, 20, false, true, ⟨rfl, rfl, rfl, rfl, rfl, rfl, rfl⟩, rfl⟩,
    ⟨creeping 123, .h1, true, 20, false, 0, true, false, ⟨rfl, rfl, rfl, rfl, rfl, rfl, rfl⟩, rfl, rfl, by decide⟩⟩

/-- The steps of hose 2 that come to 293,309, to Ptrim 293,310 and to Pstop 297,030, from FLOWING and TRIMMING, and one
in PRIMING and in ENDING, there with the stock gone too; steps that bring the stock to the dead level, below Pstop and at
it, from each state of the hose, alone on its tank and beside hose 1. -/
theorem witness_StepsOfALiveDeliveryMeetItsThresholds :
    (∀ p ∈ [(HoseState.priming, (400000 : Int)), (.ending, 400000), (.flowing, 293308), (.trimming, 297028)],
      ∃ (s : State) (h : HoseIx) (la : Bool) (ha : Nat) (lb : Bool) (hb : Nat) (a b : Bool) (l : Live),
        s.phaseMoves h la ha lb hb a b (stepMove true) ∧ (s.hoses.get h).live = some l
          ∧ (s.hoses.get h).state = p.1 ∧ ((s.meters.get h).stepped a b true).net = p.2 + 1
          ∧ (s.setMeter h ((s.meters.get h).stepped a b true)).stockGone l.tank = false)
      ∧ (∃ (s : State) (h : HoseIx) (la : Bool) (ha : Nat) (lb : Bool) (hb : Nat) (a b : Bool) (l : Live),
        s.phaseMoves h la ha lb hb a b (stepMove true) ∧ (s.hoses.get h).live = some l
          ∧ (s.hoses.get h).state = .ending ∧ (∀ g, g ≠ h → s.liveTank g ≠ some l.tank)
          ∧ (s.setMeter h ((s.meters.get h).stepped a b true)).stockGone l.tank = true)
      ∧ (∀ p ∈ [(HoseState.flowing, (297029 : Int)), (.trimming, 297029)],
        ∃ (s : State) (h : HoseIx) (la : Bool) (ha : Nat) (lb : Bool) (hb : Nat) (a b : Bool) (l : Live),
          s.phaseMoves h la ha lb hb a b (stepMove true) ∧ (s.hoses.get h).live = some l
            ∧ (s.setMeter h ((s.meters.get h).stepped a b true)).stockGone l.tank = false
            ∧ (s.hoses.get h).state = p.1 ∧ 0 < s.cfg.endSettle
            ∧ (l.stopCount : Int) = ((s.meters.get h).stepped a b true).net ∧ p.2 + 1 = l.stopCount)
      ∧ (∃ (s : State) (h : HoseIx) (la : Bool) (ha : Nat) (lb : Bool) (hb : Nat) (a b : Bool) (l : Live),
        s.phaseMoves h la ha lb hb a b (stepMove true) ∧ (s.hoses.get h).live = some l
          ∧ (s.setMeter h ((s.meters.get h).stepped a b true)).stockGone l.tank = false
          ∧ (s.hoses.get h).state = .flowing ∧ (l.trimCount : Int) = ((s.meters.get h).stepped a b true).net
          ∧ ((s.meters.get h).stepped a b true).net < l.stopCount)
      ∧ ∀ p ∈ [(HoseState.priming, (9000 : Int), 5036294), (.ending, 9000, 5036294), (.flowing, 9000, 5036294),
          (.trimming, 9000, 5036294), (.flowing, 297028, 6197698), (.flowing, 297029, 6197702),
          (.trimming, 297029, 6197702)],
        ∀ q ∈ [((fun s => s : State → State), 0), (alsoOne, 36290)],
        ∃ (s s1 : State) (h : HoseIx) (la : Bool) (ha : Nat) (lb : Bool) (hb : Nat) (a b : Bool) (l : Live) (k : BookIx)
          (v : Nat), s = q.1 (withBook v [] (withTwo p.1 p.2.1))
          ∧ s.phaseMoves h la ha lb hb a b (stepMove true) ∧ (s.hoses.get h).live = some l
          ∧ s1 = (s.setMeter h ((s.meters.get h).stepped a b true)).setHose h (s.hoses.get h).moved
          ∧ (s.hoses.get h).state = p.1 ∧ 0 < s.cfg.endSettle
          ∧ s.bookOf l.tank = some k ∧ (s.books.get k).state = .current
          ∧ (s.books.get k).value = some v ∧ v = p.2.2 + q.2
          ∧ v - s1.drawnFrom l.tank = (s.cfg.books.get k).dead
          ∧ (s1.meters.get h).net = p.2.1 + 1 ∧ l.stopCount = 297030 := by
  have forward : judgeMove (phasePosition false false) (phasePosition true false) = stepMove true := by decide
  have moves (st : HoseState) (n : Int) (v : Nat) :
      (withBook v [] (withTwo st n)).phaseMoves .h2 true 20 false 0 true false (stepMove true)
        ∧ (withTwo st n).phaseMoves .h2 true 20 false 0 true false (stepMove true)
        ∧ (alsoOne (withBook v [] (withTwo st n))).phaseMoves .h2 true 20 false 0 true false (stepMove true) :=
    ⟨⟨rfl, rfl, rfl, rfl, rfl, rfl, forward⟩, ⟨rfl, rfl, rfl, rfl, rfl, rfl, forward⟩,
      ⟨rfl, rfl, rfl, rfl, rfl, rfl, forward⟩⟩
  refine ⟨?_, ⟨withBook 5036294 [] (withTwo .ending 9000), .h2, true, 20, false, 0, true, false, liveTwo,
      (moves _ _ _).1, rfl, rfl, by intro g; cases g <;> decide, by decide⟩, ?_,
    ⟨withTwo .flowing 293309, .h2, true, 20, false, 0, true, false, liveTwo, (moves _ _ 0).2.1, rfl, rfl, rfl, rfl,
      by decide⟩, ?_⟩
  · intro p hp
    refine ⟨withTwo p.1 p.2, .h2, true, 20, false, 0, true, false, liveTwo, (moves _ _ 0).2.1, rfl, rfl, ?_, ?_⟩
    all_goals
      simp only [List.mem_cons, List.not_mem_nil, or_false] at hp
      rcases hp with rfl | rfl | rfl | rfl <;> rfl
  · intro p hp
    refine ⟨withTwo p.1 p.2, .h2, true, 20, false, 0, true, false, liveTwo, (moves _ _ 0).2.1, rfl, ?_, rfl, ?_, ?_, ?_⟩
    all_goals
      simp only [List.mem_cons, List.not_mem_nil, or_false] at hp
      rcases hp with rfl | rfl <;> decide
  · intro p hp q hq
    simp only [List.mem_cons, List.not_mem_nil, or_false] at hq
    rcases hq with rfl | rfl
    · refine ⟨withBook (p.2.2 + 0) [] (withTwo p.1 p.2.1), _, .h2, true, 20, false, 0, true, false, liveTwo, .b1, p.2.2 + 0,
        rfl, (moves _ _ _).1, rfl, rfl, rfl, (by decide : 0 < 2), rfl, rfl, rfl, rfl, ?_, ?_, rfl⟩ <;>
        simp only [List.mem_cons, List.not_mem_nil, or_false] at hp <;>
        rcases hp with rfl | rfl | rfl | rfl | rfl | rfl | rfl <;> decide
    · refine ⟨alsoOne (withBook (p.2.2 + 36290) [] (withTwo p.1 p.2.1)), _, .h2, true, 20, false, 0, true, false, liveTwo,
        .b1, p.2.2 + 36290, rfl, (moves _ _ _).2.2, rfl, rfl, rfl, (by decide : 0 < 2), rfl, rfl, rfl, rfl, ?_, ?_, rfl⟩ <;>
        simp only [List.mem_cons, List.not_mem_nil, or_false] at hp <;>
        rcases hp with rfl | rfl | rfl | rfl | rfl | rfl | rfl <;> decide

/-- The fifth invalid transition, and the sixth, past the limit of 5: at a hose without a delivery in each of its states, in
FLOWING, in ENDING and OUT_OF_SERVICE. -/
theorem witness_InvalidTransitionsRaiseThePhaseErrorCount :
    (∃ (s : State) (h : HoseIx) (a b : Bool), s.phaseMoves h true 20 true 20 a b .invalid
      ∧ (s.meters.get h).phaseErrors + 1 = (s.hoseCfg h).phaseErrorLimit)
      ∧ (∀ st ∈ [HoseState.idle, .waiting, .done .preset, .refused .noTag, .ending, .outOfService .valveStuck],
        ∃ (s : State) (h : HoseIx) (a b : Bool), s.phaseMoves h true 20 true 20 a b .invalid
          ∧ (s.meters.get h).phaseErrors = (s.hoseCfg h).phaseErrorLimit ∧ (s.hoses.get h).state = st)
      ∧ ∃ (s : State) (h : HoseIx) (a b : Bool) (l : Live), s.phaseMoves h true 20 true 20 a b .invalid
        ∧ (s.meters.get h).phaseErrors = (s.hoseCfg h).phaseErrorLimit
        ∧ runState (s.hoses.get h).state = true ∧ 0 < s.cfg.endSettle ∧ (s.hoses.get h).live = some l :=
  ⟨⟨up.setMeter .h1 { up.meters.h1 with phaseErrors := 4 }, .h1, true, true, ⟨rfl, rfl, rfl, rfl, rfl, rfl, rfl⟩, rfl⟩,
    fun st _ => ⟨(up.setHose .h1 (restHose st none)).setMeter .h1 { up.meters.h1 with phaseErrors := 5 }, .h1, true, true,
      ⟨rfl, rfl, rfl, rfl, rfl, rfl,
        show judgeMove (phasePosition false false) (phasePosition true true) = .invalid by decide⟩, rfl, rfl⟩,
    ⟨(withTwo .flowing 9000).setMeter .h2 { (withTwo .flowing 9000).meters.h2 with phaseErrors := 5 }, .h2, true, true,
      liveTwo, ⟨rfl, rfl, rfl, rfl, rfl, rfl, rfl⟩, rfl, rfl, by decide, rfl⟩⟩

/-- The two windows at their settings and a millisecond before; windows of 5,166 and 5,167 steps stand on the two sides of
125 % of 16,667 mL/s. -/
theorem witness_MeterWindowsExpire :
    (∀ w ∈ [59999, 60000], ∃ s : State, s.unit.powered = true ∧ s.creepTimer = w
      ∧ (s.creepTimer = s.cfg.creepWindow * 1000 ↔ w = 60000))
      ∧ (∀ w ∈ [999, 1000], ∃ (s : State) (h : HoseIx), s.unit.powered = true
        ∧ (s.meters.get h).rateTimer = w ∧ ((s.meters.get h).rateTimer = 1000 ↔ w = 1000))
      ∧ (∃ (s : State) (h : HoseIx), s.unit.powered = true ∧ (s.hoses.get h).state = .flowing
        ∧ ¬125 * (s.hoseCfg h).maxFlow
          < 100 * (((s.meters.get h).window.toNat * 10000 + (s.hoseCfg h).meterK / 2) / (s.hoseCfg h).meterK))
      ∧ ∃ (s : State) (h : HoseIx), s.unit.powered = true ∧ (s.hoses.get h).state = .flowing
        ∧ 0 < (s.meters.get h).window
        ∧ 125 * (s.hoseCfg h).maxFlow
          < 100 * (((s.meters.get h).window.toNat * 10000 + (s.hoseCfg h).meterK / 2) / (s.hoseCfg h).meterK) :=
  ⟨fun w _ => ⟨later w up, rfl, Nat.zero_add w, by show 0 + w = 60 * 1000 ↔ _; omega⟩,
    fun w _ => ⟨later w up, .h1, rfl, Nat.zero_add w, by show 0 + w = 1000 ↔ _; omega⟩,
    ⟨(withTwo .flowing 9000).setMeter .h2 { (withTwo .flowing 9000).meters.h2 with window := 5166 }, .h2, rfl, rfl,
      by decide⟩,
    ⟨(withTwo .flowing 9000).setMeter .h2 { (withTwo .flowing 9000).meters.h2 with window := 5167 }, .h2, rfl, rfl,
      by decide, by decide⟩⟩

/-- Counts below and at 0, a volume on a count, an overrun at its limit and learning at rest. -/
theorem witness_VolumesThresholdsAndLearning :
    (∃ (k : Nat) (p : Int), 0 < k ∧ p < 0) ∧ (∃ (k : Nat) (p : Int), 0 < k ∧ 0 ≤ p)
      ∧ (∃ k v p : Nat, v * k = p * 10000 ∧ 0 < v ∧ 0 < k) ∧ (∃ o obs : Nat, o ≤ 5000 ∧ o ≤ obs)
      ∧ ∃ o obs : Nat, o ≤ 5000 ∧ obs ≤ o :=
  ⟨⟨2480, -1, by decide, by decide⟩, ⟨2480, 0, by decide, by decide⟩, ⟨2480, 500, 124, by decide, by decide, by decide⟩,
    ⟨5000, 4294967295, by decide, by decide⟩, ⟨2310, 2310, by decide, by decide⟩⟩

/-- The close of 2.3 as its settle time ends, a meter that settles with no delivery, and one a millisecond short. -/
theorem witness_MeterSettledClosesTheDelivery :
    (∃ (s : State) (h : HoseIx) (l : Live) (r : EndReason), s.unit.powered = true
      ∧ s.cfg.endSettle * 1000 = (s.meters.get h).quiet ∧ (s.hoses.get h).state = .ending
      ∧ (s.hoses.get h).live = some l ∧ l.endReason = some r ∧ ∀ g, g ≠ h → s.liveTank g ≠ some l.tank)
      ∧ (∃ (s : State) (h : HoseIx), s.unit.powered = true ∧ (s.hoses.get h).state ≠ .ending
        ∧ s.cfg.endSettle * 1000 = (s.meters.get h).quiet)
      ∧ ∃ (s : State) (h : HoseIx), s.unit.powered = true ∧ (s.hoses.get h).state = .ending
        ∧ (s.meters.get h).quiet + 1 = s.cfg.endSettle * 1000 :=
  ⟨⟨later 2000 (endingTwo .preset 297030 297611), .h2, _, .preset, rfl, rfl, rfl, rfl, rfl, by intro g; cases g <;> decide⟩,
    ⟨later 2000 up, .h1, rfl, by decide, rfl⟩, ⟨later 1999 (endingTwo .preset 297030 297611), .h2, rfl, rfl, rfl⟩⟩

/-- A station whose hose 1 is in a drive period. -/
def driving (duty period time : Nat) : State :=
  up.setValve .h1 { up.valves.h1 with duty := duty, periodDuty := period, periodTime := time, output := true }

/-- A duty with no period and with one at its end; none, and a period a millisecond before its end; on-times of 30 and 99
of 100 ms at their ends, and before; no period, and one at 100 %. -/
theorem witness_DrivePeriodsSwitchTheOutput :
    (∃ (s : State) (h : HoseIx), s.unit.powered = true ∧ (s.valves.get h).duty ≠ 0 ∧ (s.valves.get h).periodDuty = 0)
      ∧ (∃ (s : State) (h : HoseIx), s.unit.powered = true ∧ (s.valves.get h).duty ≠ 0
        ∧ (s.valves.get h).periodDuty ≠ 0 ∧ (s.hoseCfg h).drivePeriodMs = (s.valves.get h).periodTime)
      ∧ (∃ (s : State) (h : HoseIx), s.unit.powered = true ∧ (s.valves.get h).duty = 0)
      ∧ (∃ (s : State) (h : HoseIx), s.unit.powered = true ∧ (s.valves.get h).duty ≠ 0
        ∧ (s.valves.get h).periodDuty ≠ 0 ∧ (s.valves.get h).periodTime + 1 = (s.hoseCfg h).drivePeriodMs)
      ∧ (∀ d ∈ [30, 99], ∃ (s : State) (h : HoseIx), s.unit.powered = true ∧ (s.valves.get h).periodDuty = d
        ∧ ((s.valves.get h).periodDuty * (s.hoseCfg h).drivePeriodMs + 99) / 100 = (s.valves.get h).periodTime)
      ∧ (∀ d ∈ [0, 100], ∃ (s : State) (h : HoseIx), s.unit.powered = true ∧ (s.valves.get h).periodDuty = d)
      ∧ ∃ (s : State) (h : HoseIx), s.unit.powered = true ∧ (s.valves.get h).periodDuty = 30
        ∧ (s.valves.get h).periodTime + 1
          = ((s.valves.get h).periodDuty * (s.hoseCfg h).drivePeriodMs + 99) / 100 := by
  refine ⟨⟨driving 30 0 0, .h1, rfl, by decide, rfl⟩, ⟨driving 30 30 100, .h1, rfl, by decide, by decide, rfl⟩,
    ⟨up, .h1, rfl, rfl⟩, ⟨driving 30 30 99, .h1, rfl, by decide, by decide, rfl⟩, ?_,
    fun d _ => ⟨driving 100 d 0, .h1, rfl, rfl⟩, ⟨driving 30 30 29, .h1, rfl, rfl, rfl⟩⟩
  intro d hd
  simp only [List.mem_cons, List.not_mem_nil, or_false] at hd
  rcases hd with rfl | rfl
  · exact ⟨driving 30 30 30, .h1, rfl, rfl, rfl⟩
  · exact ⟨driving 99 99 99, .h1, rfl, rfl, rfl⟩

/-- A station whose hose 1 stands in a state with a valve proof and a zero-duty time. -/
def stuckAt (st : HoseState) (closed : Bool) (zeroTime : Nat) : State :=
  (up.setHose .h1 (restHose st (some .offHook))).setValve .h1 { up.valves.h1 with closed := closed, zeroTime := zeroTime }

/-- A proof to be taken; a NOT_CLOSED proof, and a zero-duty time, that does not complete the condition, for each of the
reasons; a duty, and a zero-duty and a flow-past time a millisecond short; the condition of R15 by the proof
and by the settle, from every state without a delivery; in ENDING, by flow and in PRIMING. -/
theorem witness_StuckValvesLeaveService :
    ((∃ (s : State) (h : HoseIx), s.unit.powered = true ∧ (s.valves.get h).closed = false ∧ (s.valves.get h).duty ≠ 0)
      ∧ (∃ (s : State) (h : HoseIx), s.unit.powered = true ∧ (s.valves.get h).closed = true ∧ (s.valves.get h).duty ≠ 0)
      ∧ (∃ (s : State) (h : HoseIx), s.unit.powered = true ∧ (s.valves.get h).closed = true ∧ (s.valves.get h).duty = 0
        ∧ (s.valves.get h).zeroTime + 1 = s.cfg.endSettle * 1000)
      ∧ (∀ c ∈ [true, false], ∃ (s : State) (h : HoseIx), s.unit.powered = true ∧ (s.valves.get h).closed = c
        ∧ (s.valves.get h).duty = 0 ∧ (s.valves.get h).stuckGiven = true ∧ s.cfg.endSettle * 1000 = (s.valves.get h).zeroTime)
      ∧ ∀ c ∈ [true, false], ∃ (s : State) (h : HoseIx), s.unit.powered = true ∧ (s.valves.get h).closed = c
        ∧ (s.valves.get h).duty = 0 ∧ (s.valves.get h).stuckGiven = false ∧ s.cfg.endSettle * 1000 = (s.valves.get h).zeroTime
        ∧ (s.hoses.get h).state = .outOfService .meter)
      ∧ (∃ (s : State) (h : HoseIx), s.unit.powered = true ∧ (s.valves.get h).duty = 0
        ∧ (s.valves.get h).zeroTime + 1 = s.cfg.endSettle * 1000)
      ∧ (∃ (s : State) (h : HoseIx) (m : Nat), s.unit.powered = true ∧ (s.valves.get h).flowPast = some m
        ∧ m + 1 = s.cfg.endingLimit * 1000)
      ∧ (∀ st ∈ [HoseState.idle, .waiting, .done .preset, .refused .noTag], ∃ (s : State) (h : HoseIx) (c d : Instr)
        (u : State), s.stuckBy h c ∧ u.stuckBy h d ∧ c ≠ d ∧ (s.hoses.get h).state = st ∧ (u.hoses.get h).state = st)
      ∧ (∃ (s : State) (h : HoseIx) (c : Instr) (l : Live) (r : EndReason), (s.hoses.get h).live = some l
        ∧ (∀ g, g ≠ h → liveState (s.hoses.get g).state = false) ∧ (s.hoses.get h).state = .ending
        ∧ l.endReason = some r ∧ s.stuckBy h c)
      ∧ (∃ (s : State) (h : HoseIx) (l : Live) (r : EndReason) (m : Nat), (s.hoses.get h).live = some l
        ∧ (∀ g, g ≠ h → liveState (s.hoses.get g).state = false) ∧ (s.hoses.get h).state = .ending
        ∧ l.endReason = some r ∧ s.unit.powered = true ∧ (s.valves.get h).flowPast = some m
        ∧ s.cfg.endingLimit * 1000 = m)
      ∧ ∃ (s : State) (h : HoseIx) (c : Instr) (l : Live), (s.hoses.get h).live = some l
        ∧ (∀ g, g ≠ h → liveState (s.hoses.get g).state = false) ∧ (s.hoses.get h).state = .priming
        ∧ s.stuckBy h c := by
  refine ⟨⟨⟨withTwo .flowing 0, .h2, rfl, rfl, by decide⟩,
      ⟨up.setValve .h1 { up.valves.h1 with closed := true, duty := 100 }, .h1, rfl, rfl, by decide⟩,
      ⟨stuckAt .idle true 1999, .h1, rfl, rfl, rfl, rfl⟩,
      fun c _ => ⟨up.setValve .h1 { up.valves.h1 with closed := c, stuckGiven := true, zeroTime := 2000 }, .h1, rfl, rfl, rfl, rfl,
        (by decide : 2 * 1000 = 2000)⟩,
      fun c _ => ⟨stuckAt (.outOfService .meter) c 2000, .h1, rfl, rfl, rfl, rfl, (by decide : 2 * 1000 = 2000), rfl⟩⟩,
    ⟨later 1999 (endingTwo .preset 0 0), .h2, rfl, rfl, rfl⟩,
    ⟨later 29999 (endingTwo .preset 0 0), .h2, 29999, rfl, rfl, rfl⟩, ?_,
    ⟨later 2000 (endingTwo .preset 297030 297036), .h2, .zeroDutySettle .h2, _, .preset, rfl, by intro g; cases g <;> decide, rfl, rfl,
      rfl, rfl, rfl, .inr ⟨rfl, rfl, by decide⟩⟩,
    ⟨later 30000 (endingTwo .preset 297030 297036), .h2, _, .preset, 30000, rfl, by intro g; cases g <;> decide, rfl, rfl, rfl, rfl,
      rfl⟩,
    ⟨later 2000 (withTwo .priming 0), .h2, .zeroDutySettle .h2, liveTwo, rfl, by intro g; cases g <;> decide, rfl,
      rfl, rfl, rfl, .inr ⟨rfl, rfl, by decide⟩⟩⟩
  intro st hst
  refine ⟨stuckAt st true 2000, .h1, .valveProofChange .h1 false 100, .zeroDutySettle .h1, stuckAt st false 2000, ?_, ?_,
    by decide, ?_, ?_⟩
  · exact ⟨rfl, rfl, rfl, .inl ⟨100, rfl, by decide, rfl, (show 2 * 1000 ≤ 2000 by decide)⟩⟩
  · exact ⟨rfl, rfl, rfl, .inr ⟨rfl, rfl, (show 2 * 1000 ≤ 2000 by decide)⟩⟩
  · rfl
  · rfl

/-- Hose 2 in PRIMING at a net count and a tag time, its pump about to run. -/
def primed (net : Int) (tag : Nat) : State :=
  ((withTwo .priming net).setHose .h2 { liveHose .priming liveTwo with tagTimer := some tag }).setPump .p2
    ⟨.starting, some 3000, true⟩

/-- A pump without a hose in PRIMING at its settle time; hose 2 in PRIMING at Pstop, at the grace, at Ptrim and one below,
its meter just moved and quiet for the end-settle time; a settle a millisecond short and a pump that does not start. -/
theorem witness_PumpSettleWithProofStartsTheFlow :
    (∃ (s : State) (p : PumpIx) (m : Nat), s.unit.powered = true ∧ (s.pumps.get p).state = .starting
      ∧ (s.pumps.get p).timer = some m ∧ s.cfg.pumpSettle * 1000 = m ∧ (s.pumps.get p).proof = true
      ∧ ∀ h, (s.hoseCfg h).tank = s.cfg.pumpTanks.get p → (s.hoses.get h).state ≠ .priming)
      ∧ (∀ q ∈ [((297030 : Int), 2999), (0, 3000), (293310, 2999), (293309, 2999)], ∀ n ∈ [0, 2000],
        ∃ (s u : State) (p : PumpIx) (m : Nat) (h : HoseIx) (l : Live), s.unit.powered = true
          ∧ (s.pumps.get p).state = .starting ∧ (s.pumps.get p).timer = some m ∧ s.cfg.pumpSettle * 1000 = m
          ∧ (s.pumps.get p).proof = true ∧ (s.hoseCfg h).tank = s.cfg.pumpTanks.get p ∧ s.cfg.pumpTanks.get p ≠ 0
          ∧ (s.hoses.get h).state = .priming ∧ (s.hoses.get h).live = some l
          ∧ (∀ g, g ≠ h → (s.hoseCfg g).tank = s.cfg.pumpTanks.get p → (s.hoses.get g).state ≠ .priming)
          ∧ 0 < l.stopCount ∧ l.stopCount = 297030 ∧ l.trimCount = 293310 ∧ (s.meters.get h).net = q.1
          ∧ (s.hoses.get h).tagTimer = some q.2 ∧ s.cfg.tagGrace * 1000 = 3000
          ∧ u = s.setPump p { s.pumps.get p with state := .running, timer := none }
          ∧ (u.settlesLater h ↔ n = 0) ∧ ∀ g, g ≠ h → u.liveTank g ≠ some l.tank)
      ∧ ∃ (s u : State) (p : PumpIx) (m : Nat), s.unit.powered = true ∧ (s.pumps.get p).state ≠ .starting
        ∧ u.unit.powered = true ∧ (u.pumps.get p).state = .starting ∧ (u.pumps.get p).timer = some m
        ∧ m + 1 = u.cfg.pumpSettle * 1000 := by
  refine ⟨⟨up.setPump .p2 ⟨.starting, some 3000, true⟩, .p2, 3000, rfl, rfl, rfl, rfl, rfl,
      by intro h; cases h <;> decide⟩, ?_,
    ⟨up, (primed 0 0).setPump .p2 ⟨.starting, some 2999, true⟩, .p2, 2999, rfl, by decide, rfl, rfl, rfl, rfl⟩⟩
  intro q hq n hn
  refine ⟨(primed q.1 q.2).setMeter .h2 { up.meters.h1 with net := q.1, quiet := n }, _, .p2, 3000, .h2, liveTwo, rfl, rfl,
    rfl, (by decide : 3 * 1000 = 3000), rfl, rfl, (by decide : 5 ≠ 0), rfl, rfl, ?_,
    by decide, rfl, rfl, rfl, rfl, (by decide : 3 * 1000 = 3000), rfl, ?_, ?_⟩
  · intro g; cases g <;> first | exact fun h => absurd rfl h | exact fun _ _ => nofun
  · simp only [List.mem_cons, List.not_mem_nil, or_false] at hn
    rcases hn with rfl | rfl
    · exact ⟨fun _ => rfl, fun _ => ⟨(by decide : 0 < 2), .inr (decide_eq_false (by decide : ¬2 * 1000 ≤ 0))⟩⟩
    · exact ⟨fun h => h.2.elim (absurd rfl) fun q => absurd (by decide : 2 * 1000 ≤ 2000) (of_decide_eq_false q), nofun⟩
  · intro g; cases g <;> first | exact fun h => absurd rfl h | exact fun _ => nofun

/-- The settle without proof at its time and the lost proof, with hose 2 in PRIMING, its meter just moved and quiet for the
end-settle time at 500 mL, and FLOWING, beside hose 1 too; a proof in another state. -/
theorem witness_PumpFaultEndsTheDeliveriesOfItsTank :
    (∃ (s u : State) (p : PumpIx) (h : HoseIx) (l : Live) (m : Nat), s.unit.powered = true
      ∧ (s.pumps.get p).state = .starting ∧ (s.pumps.get p).timer = some m ∧ s.cfg.pumpSettle * 1000 = m
      ∧ (s.pumps.get p).proof = false ∧ (s.hoseCfg h).tank = s.cfg.pumpTanks.get p
      ∧ s.cfg.pumpTanks.get p ≠ 0 ∧ runState (s.hoses.get h).state = true ∧ (s.hoses.get h).live = some l
      ∧ s.settlesLater h ∧ u.unit = s.unit ∧ u.pumps = s.pumps ∧ u.hoses = s.hoses ∧ ¬u.settlesLater h
      ∧ volume (u.hoseCfg h).meterK (u.meters.get h).net = 500)
      ∧ (∃ (s : State) (p : PumpIx) (h g : HoseIx) (l : Live), s.unit.powered = true ∧ (s.pumps.get p).state = .running
        ∧ (s.hoseCfg h).tank = s.cfg.pumpTanks.get p ∧ (s.hoseCfg g).tank = s.cfg.pumpTanks.get p ∧ g ≠ h
        ∧ s.cfg.pumpTanks.get p ≠ 0 ∧ runState (s.hoses.get h).state = true ∧ (s.hoses.get h).live = some l
        ∧ runState (s.hoses.get g).state = true ∧ (s.hoses.get g).live = some l ∧ s.settlesLater h ∧ s.settlesLater g)
      ∧ (∃ (s : State) (p : PumpIx), s.unit.powered = true ∧ (s.pumps.get p).state ≠ .running) :=
  ⟨⟨(withTwo .priming 0).setPump .p2 ⟨.starting, some 3000, false⟩, (settled 124).setPump .p2 ⟨.starting, some 3000, false⟩,
      .p2, .h2, liveTwo, 3000, rfl, rfl, rfl, rfl, rfl, rfl, by decide, rfl, rfl, ⟨by decide, .inr (by decide)⟩, rfl, rfl,
      rfl, settled_closes.1, by decide⟩,
    ⟨alsoOne busy, .p2, .h2, .h1, liveTwo, rfl, rfl, rfl, rfl, by decide, by decide, rfl, rfl, rfl, rfl,
      ⟨by decide, .inl (by decide)⟩, ⟨by decide, .inl (by decide)⟩⟩,
    ⟨up, .p2, rfl, by decide⟩⟩

/-- A pump in COOLDOWN at its minimum-off time with a hose in PRIMING, and one without; a millisecond short, and a pump that
does not cool down. -/
theorem witness_MinimumOffExpiryStartsOrStopsThePump :
    (∃ (s : State) (p : PumpIx) (m : Nat), s.unit.powered = true ∧ (s.pumps.get p).state = .cooldown
      ∧ (s.pumps.get p).timer = some m ∧ s.cfg.pumpMinimumOff * 1000 = m
      ∧ 0 < s.runCount (s.cfg.pumpTanks.get p) ∧ s.tripped = false)
      ∧ (∃ (s : State) (p : PumpIx) (m : Nat), s.unit.powered = true ∧ (s.pumps.get p).state = .cooldown
        ∧ (s.pumps.get p).timer = some m ∧ s.cfg.pumpMinimumOff * 1000 = m
        ∧ ¬(0 < s.runCount (s.cfg.pumpTanks.get p) ∧ s.tripped = false))
      ∧ ∃ (s u : State) (p : PumpIx) (m : Nat), s.unit.powered = true ∧ (s.pumps.get p).state ≠ .cooldown
        ∧ u.unit.powered = true ∧ (u.pumps.get p).state = .cooldown ∧ (u.pumps.get p).timer = some m
        ∧ m + 1 = u.cfg.pumpMinimumOff * 1000 :=
  ⟨⟨(withTwo .priming 0).setPump .p2 ⟨.cooldown, some 30000, false⟩, .p2, 30000, rfl, rfl, rfl, rfl, by decide,
      by decide⟩,
    ⟨up.setPump .p2 ⟨.cooldown, some 30000, false⟩, .p2, 30000, rfl, rfl, rfl, rfl, by decide⟩,
    ⟨busy, up.setPump .p2 ⟨.cooldown, some 29999, false⟩, .p2, 29999, rfl, by decide, rfl, rfl, rfl, rfl⟩⟩

/-- A hose IDLE on hook, IDLE with an unqualified hook, and REFUSED on hook. -/
theorem witness_LiftEntersWaiting :
    (∃ (s : State) (h : HoseIx), s.unit.powered = true ∧ s.inConfigFault = false ∧ (s.hoses.get h).state = .idle
      ∧ (s.hoses.get h).hook = some .onHook)
      ∧ (∃ (s : State) (h : HoseIx), s.unit.powered = true ∧ s.inConfigFault = false ∧ (s.hoses.get h).state = .idle
        ∧ (s.hoses.get h).hook = none)
      ∧ ∃ (s : State) (h : HoseIx), s.unit.powered = true ∧ (s.hoses.get h).state ≠ .idle
        ∧ (s.hoses.get h).hook = some .onHook :=
  ⟨⟨up.setHose .h1 (restHose .idle (some .onHook)), .h1, rfl, rfl, rfl, rfl⟩, ⟨up, .h1, rfl, rfl, rfl, rfl⟩,
    ⟨up.setHose .h1 (restHose (.outOfService .meter) (some .onHook)), .h1, rfl, by decide, rfl⟩⟩

/-- Off hook: WAITING, DONE, REFUSED; FLOWING, and PRIMING with a quiet meter; IDLE, ENDING, OUT_OF_SERVICE. -/
theorem witness_HangEndsWhatTheHoseDoes :
    (∀ st ∈ [HoseState.waiting, .done .preset, .refused .noTag, .idle, .outOfService .meter],
      ∃ (s : State) (h : HoseIx), s.unit.powered = true ∧ s.inConfigFault = false
        ∧ (s.hoses.get h).hook = some .offHook ∧ (s.hoses.get h).state = st)
      ∧ (∃ (s : State) (h : HoseIx) (l : Live), s.unit.powered = true ∧ s.inConfigFault = false
        ∧ (s.hoses.get h).hook = some .offHook ∧ runState (s.hoses.get h).state = true
        ∧ (s.hoses.get h).live = some l ∧ (s.setHose h { s.hoses.get h with hook := some .onHook }).settlesLater h)
      ∧ (∃ (s u : State) (h : HoseIx) (l : Live), s.unit.powered = true ∧ s.inConfigFault = false
        ∧ (s.hoses.get h).hook = some .offHook ∧ runState (s.hoses.get h).state = true
        ∧ (s.hoses.get h).live = some l ∧ u = s.setHose h { s.hoses.get h with hook := some .onHook }
        ∧ ¬u.settlesLater h ∧ ∀ g, g ≠ h → u.liveTank g ≠ some l.tank)
      ∧ ∃ (s : State) (h : HoseIx), s.unit.powered = true ∧ s.inConfigFault = false
        ∧ (s.hoses.get h).hook = some .offHook ∧ (s.hoses.get h).state = .ending :=
  ⟨fun st _ => ⟨up.setHose .h1 (restHose st (some .offHook)), .h1, rfl, rfl, rfl, rfl⟩,
    ⟨withTwo .flowing 9000, .h2, liveTwo, rfl, rfl, rfl, rfl, rfl, ⟨by decide, .inl (by decide)⟩⟩,
    ⟨settled 124, _, .h2, liveTwo, rfl, rfl, rfl, rfl, rfl, rfl, settled_closes.1, by intro g; cases g <;> decide⟩,
    ⟨endingTwo .hung 9000 9000, .h2, rfl, rfl, rfl, rfl⟩⟩

/-- A station whose hose 3 waits for a claim. -/
def waiting (s : State) : State := s.setHose .h3 { restHose .waiting (some .offHook) with claimTimer := some 9 }

/-- The journal with so many places taken by live deliveries. -/
def reserved (n : Nat) (s : State) : State := s.setJournal { s.journal with reserved := n }

/-- A permit of 5,000 mL. -/
def permitNine : Permit := ⟨9, .diesel, 5000, 3600⟩

/-- A hose that waits while a check fails: LISTEN, TRIPPED, a full journal, an unknown machine, a jump of hours, the
dead level, a FAULTED pump, a limit of 999 mL. -/
theorem witness_FirstFailingCheckRefusesTheClaim :
    (∃ s : State, s.claims .h3 40117 none ∧ s.link.join = .listen)
      ∧ (∃ s : State, s.claims .h3 40117 none ∧ s.link.join = .joined ∧ s.tripped = true)
      ∧ (∃ s : State, s.claims .h3 40117 none ∧ s.link.join = .isolated ∧ s.tripped = false
        ∧ s.journal.uncollected + s.journal.reserved = 128)
      ∧ (∃ (s : State) (e : RefusalReason), s.claims .h3 40118 none ∧ s.link.join = .joined ∧ s.tripped = false
        ∧ s.journal.uncollected + s.journal.reserved = 127
        ∧ lookup s.accounts 40118 (s.hoseCfg .h3).product = .refused e)
      ∧ (∃ (s : State) (r : MachineRecord) (e : RefusalReason), s.claims .h3 40117 (some 2000) ∧ s.link.join = .joined
        ∧ s.tripped = false ∧ s.journal.uncollected + s.journal.reserved < 128
        ∧ lookup s.accounts 40117 (s.hoseCfg .h3).product = .given (.record r)
        ∧ (hoursCheck s.cfg (s.hoseCfg .h3) r (some 2000)).answer = .refused e)
      ∧ (∃ (s : State) (r : MachineRecord) (allowance : Nat) (flags : RecordFlags) (e : RefusalReason),
        s.claims .h3 40117 (some 48) ∧ s.link.join = .joined ∧ s.tripped = false
        ∧ s.journal.uncollected + s.journal.reserved < 128
        ∧ lookup s.accounts 40117 (s.hoseCfg .h3).product = .given (.record r)
        ∧ (hoursCheck s.cfg (s.hoseCfg .h3) r (some 48)).answer = .given (allowance, flags)
        ∧ stockGate (s.hoseCfg .h3).tank (decide (r.cls = .priority)) s = .refused e)
      ∧ (∃ (s : State) (p : Permit) (term : Nat) (blind : Bool) (q : PumpIx), s.claims .h3 9 none
        ∧ s.link.join = .joined ∧ s.tripped = false ∧ s.journal.uncollected + s.journal.reserved < 128
        ∧ lookup s.accounts 9 (s.hoseCfg .h3).product = .given (.permit p)
        ∧ stockGate (s.hoseCfg .h3).tank false s = .given (term, blind)
        ∧ s.pumpOf (s.hoseCfg .h3).tank = some q ∧ (s.pumps.get q).state = .faulted)
      ∧ ∃ (s : State) (r : MachineRecord) (allowance : Nat) (flags : RecordFlags) (term : Nat) (blind : Bool),
        s.claims .h3 40117 none ∧ s.link.join = .joined
        ∧ s.tripped = false ∧ s.journal.uncollected + s.journal.reserved < 128
        ∧ lookup s.accounts 40117 (s.hoseCfg .h3).product = .given (.record r)
        ∧ (hoursCheck s.cfg (s.hoseCfg .h3) r none).answer = .given (allowance, flags)
        ∧ stockGate (s.hoseCfg .h3).tank (decide (r.cls = .priority)) s = .given (term, blind)
        ∧ (∀ q, s.pumpOf (s.hoseCfg .h3).tank = some q → (s.pumps.get q).state ≠ .faulted)
        ∧ min (s.hoseCfg .h3).maxDelivery (min allowance term) = 999 := by
  have claims (s : State) (m : Nat) (hours : Option Nat) (hp : s.unit.powered = true)
      (hs : (s.hoses.get .h3).state = .waiting) (h1 : 1 ≤ m) (h2 : m ≤ 16777214)
      (h3 : ∀ v, hours = some v → v ≤ 999999) : s.claims .h3 m hours := ⟨hp, hs, h1, h2, h3⟩
  refine ⟨⟨waiting (up.setLink { up.link with join := .listen }), ?_, rfl⟩,
    ⟨waiting tripped, ?_, rfl, rfl⟩,
    ⟨waiting (reserved 128 (up.setLink { up.link with join := .isolated })), ?_, rfl, rfl, rfl⟩,
    ⟨waiting (reserved 127 up), .unknownMachine, ?_, rfl, rfl, rfl, rfl⟩,
    ⟨waiting (withTruck up), truck, .hoursJump, ?_, rfl, rfl, by decide, rfl, by decide⟩,
    ⟨waiting (withTruck (withBook 5000000 [] up)), truck, 1171000, noFlags, .stockDead, ?_, rfl, rfl, by decide, rfl,
      by decide, by decide⟩,
    ⟨waiting ((up.setAccounts { up.accounts with permits := [permitNine] }).setPump .p2 ⟨.faulted, none, false⟩),
      permitNine, 35000000, false, .p2, ?_, rfl, rfl, by decide, rfl, by decide, rfl, rfl⟩,
    ⟨waiting (up.setAccounts { up.accounts with roster := [{ truck with slack := 999 }] }), { truck with slack := 999 },
      999, noFlags, 35000000, false, ?_, rfl, rfl, by decide, rfl, by decide, by decide,
      by intro q e; cases q <;> revert e <;> decide, by decide⟩⟩
  all_goals exact claims _ _ _ rfl rfl (by decide) (by decide) (by intro v e; cases e <;> decide)

/-- The truck at 48, with A 1,171,000 mL, and a permit of exactly 1,000 mL, below the learned overrun; with the pump OFF and
RUNNING. -/
theorem witness_PassedClaimTakesEffect :
    ∀ st ∈ [PumpState.off, .running],
      (∃ (s : State) (r : MachineRecord) (allowance : Nat) (flags : RecordFlags) (term : Nat) (blind : Bool),
        s.claims .h3 40117 (some 48) ∧ s.link.join = .joined ∧ s.tripped = false
          ∧ s.journal.uncollected + s.journal.reserved = 127
          ∧ (∀ p, s.pumpOf (s.hoseCfg .h3).tank = some p → (s.pumps.get p).state = st)
          ∧ (∃ p, s.pumpOf (s.hoseCfg .h3).tank = some p)
          ∧ lookup s.accounts 40117 (s.hoseCfg .h3).product = .given (.record r)
          ∧ (hoursCheck s.cfg (s.hoseCfg .h3) r (some 48)).answer = .given (allowance, flags)
          ∧ stockGate (s.hoseCfg .h3).tank (decide (r.cls = .priority)) s = .given (term, blind)
          ∧ min (s.hoseCfg .h3).maxDelivery (min allowance term) = 1171000)
        ∧ ∃ (s : State) (p : Permit) (term : Nat) (blind : Bool), s.claims .h3 9 none ∧ s.link.join = .isolated
          ∧ s.tripped = false ∧ s.journal.uncollected + s.journal.reserved < 128
          ∧ (∀ p, s.pumpOf (s.hoseCfg .h3).tank = some p → (s.pumps.get p).state = st)
          ∧ (∃ p, s.pumpOf (s.hoseCfg .h3).tank = some p)
          ∧ lookup s.accounts 9 (s.hoseCfg .h3).product = .given (.permit p)
          ∧ stockGate (s.hoseCfg .h3).tank false s = .given (term, blind)
          ∧ min (s.hoseCfg .h3).maxDelivery (min p.limit term) = 1000 ∧ (s.hoses.get .h3).overrun = 2300 := by
  intro st hst
  refine ⟨⟨waiting (withTruck ((reserved 127 up).setPump .p2 ⟨st, none, true⟩)), truck, 1171000, noFlags, 35000000, false,
      ⟨rfl, rfl, by decide, by decide, by intro v e; cases e; decide⟩, rfl, ?_, rfl, ?_, ⟨.p2, rfl⟩, rfl, ?_, ?_, ?_⟩,
    ⟨waiting (((up.setAccounts { up.accounts with permits := [⟨9, .diesel, 1000, 3600⟩] }).setLink
        { up.link with join := .isolated }).setPump .p2 ⟨st, none, true⟩), ⟨9, .diesel, 1000, 3600⟩, 35000000, false,
      ⟨rfl, rfl, by decide, by decide, by intro v e; cases e⟩, rfl, ?_, ?_, ?_, ⟨.p2, rfl⟩, rfl, ?_, ?_, rfl⟩⟩
  all_goals
    simp only [List.mem_cons, List.not_mem_nil, or_false] at hst
    rcases hst with rfl | rfl
  all_goals decide

/-- The dead level, the reserve level and one above it, and an AGED book. -/
theorem witness_StockGateWeighsTheBook :
    (∀ v ∈ [5000000, 5000001, 8000000, 8000001], ∃ (s : State) (tank : Nat) (k : BookIx), s.bookOf tank = some k
      ∧ (s.books.get k).state = .current ∧ s.available k = some v)
      ∧ ∃ (s : State) (tank : Nat) (k : BookIx), s.bookOf tank = some k ∧ (s.books.get k).state ≠ .current :=
  ⟨fun v _ => ⟨withBook v [] up, 5, .b1, rfl, rfl, rfl⟩, ⟨gated .fault [], 9, .b3, rfl, by decide⟩⟩

/-- The delivery's own machine and another, an IDLE hose, and the four ways a frame is invalid. -/
theorem witness_TagFramesRestartTheTagTimer :
    (∃ (s : State) (h : HoseIx) (l : Live), s.unit.powered = true ∧ runState (s.hoses.get h).state = true
      ∧ (s.hoses.get h).live = some l ∧ l.machine = 40117 ∧ l.machine ≠ 16777214)
      ∧ (∃ (s : State) (h : HoseIx), s.unit.powered = true ∧ (s.hoses.get h).state ≠ .waiting
        ∧ runState (s.hoses.get h).state = false) :=
  ⟨⟨withTwo .flowing 9000, .h2, liveTwo, rfl, rfl, rfl, rfl, by decide⟩, ⟨up, .h1, rfl, by decide, rfl⟩⟩

/-- Hose 2 FLOWING with its tag and no-flow timers at their settings. -/
def atGrace : State :=
  (withTwo .flowing 9000).setHose .h2 { liveHose .flowing liveTwo with tagTimer := some 3000, noFlow := some 20000 }

/-- WAITING with its timer, OUT_OF_SERVICE with its lamp's, a flowing delivery with both timers, its meter moving and, at duty
0, quiet, one in PRIMING, each at its setting; and the four timers a millisecond short. -/
theorem witness_HoseTimersExpire :
    (∃ (s : State) (h : HoseIx) (n : Nat), s.unit.powered = true ∧ (s.hoses.get h).state = .waiting
      ∧ (s.hoses.get h).claimTimer = some n ∧ s.cfg.claimTime * 1000 = n)
      ∧ (∃ (s : State) (h : HoseIx) (f : HoseFault) (n : Nat), s.unit.powered = true
        ∧ (s.hoses.get h).state = .outOfService f ∧ (s.hoses.get h).flash = some n ∧ n = 500)
      ∧ (∃ (s : State) (h : HoseIx) (l : Live) (m n : Nat), s.unit.powered = true ∧ (s.hoses.get h).live = some l
        ∧ (s.hoses.get h).state = .flowing ∧ s.settlesLater h ∧ (s.hoses.get h).tagTimer = some m
        ∧ (s.hoses.get h).noFlow = some n ∧ s.cfg.tagGrace * 1000 = m ∧ s.cfg.noFlowTime * 1000 = n
        ∧ ∃ u : State, u.unit = s.unit ∧ u.hoses = s.hoses ∧ ¬u.settlesLater h ∧ ∀ g, g ≠ h → u.liveTank g ≠ some l.tank)
      ∧ (∃ (s : State) (h : HoseIx) (n : Nat), s.unit.powered = true
        ∧ (s.hoses.get h).state = .priming ∧ (s.hoses.get h).tagTimer = some n ∧ s.cfg.tagGrace * 1000 = n)
      ∧ ∃ (s : State) (h : HoseIx) (a b c d : Nat), s.unit.powered = true
        ∧ s.hoses.get h = { s.hoses.get h with
            claimTimer := some a, flash := some b, tagTimer := some c, noFlow := some d }
        ∧ a + 1 = s.cfg.claimTime * 1000 ∧ b + 1 = 500 ∧ c + 1 = s.cfg.tagGrace * 1000
        ∧ d + 1 = s.cfg.noFlowTime * 1000 :=
  ⟨⟨up.setHose .h3 { restHose .waiting (some .offHook) with claimTimer := some 60000 }, .h3, 60000, rfl, rfl, rfl, rfl⟩,
    ⟨up.setHose .h1 { restHose (.outOfService .meter) none with flash := some 500 }, .h1, .meter, 500, rfl, rfl, rfl,
      rfl⟩,
    ⟨atGrace, .h2, liveTwo, 3000, 20000, rfl, rfl, rfl, ⟨by decide, .inl (by decide)⟩, rfl, rfl, rfl,
      rfl, (atGrace.setMeter .h2 { up.meters.h1 with quiet := 2000 }).setValve .h2 up.valves.h1, rfl, rfl,
      fun h => h.2.elim (absurd rfl) fun q => absurd q (by decide), by intro g; cases g <;> decide⟩,
    ⟨later 3000 (withTwo .priming 0), .h2, 3000, rfl, rfl, rfl, rfl⟩,
    ⟨up.setHose .h1 { restHose .idle none with
        claimTimer := some 59999, flash := some 499, tagTimer := some 2999, noFlow := some 19999 }, .h1, 59999, 499, 2999,
      19999, rfl, rfl, rfl, rfl, rfl, rfl⟩⟩

/-- STOP_HOSE of hose 2, FLOWING and in PRIMING with a quiet meter, and of hose 4, IDLE. -/
theorem witness_StopHoseEndsOrIsRefused :
    (∃ (s : State) (e : RxEntry) (rest : List RxEntry) (h : HoseIx) (l : Live),
      s.offers .stopHose .deliveryController e rest ∧ stopHoseBody e.frame.body = .sound h.number
        ∧ runState (s.hoses.get h).state = true ∧ (s.hoses.get h).live = some l
        ∧ (s.took .stopHose .deliveryController e rest).settlesLater h)
      ∧ (∃ (s u : State) (e : RxEntry) (rest : List RxEntry) (h : HoseIx) (l : Live),
        s.offers .stopHose .deliveryController e rest ∧ stopHoseBody e.frame.body = .sound h.number
          ∧ runState (s.hoses.get h).state = true ∧ (s.hoses.get h).live = some l
          ∧ u = s.took .stopHose .deliveryController e rest ∧ ¬u.settlesLater h
          ∧ ∀ g, g ≠ h → u.liveTank g ≠ some l.tank)
      ∧ ∃ (s : State) (e : RxEntry) (rest : List RxEntry) (h : HoseIx),
        s.offers .stopHose .deliveryController e rest ∧ stopHoseBody e.frame.body = .sound h.number
          ∧ runState (s.hoses.get h).state = false :=
  ⟨⟨heard 50 7 .stopHose [2] (withTwo .flowing 9000), entry 50 7 .stopHose [2], [], .h2, liveTwo,
      ⟨rfl, rfl, by decide, by decide, by decide, by decide⟩, by decide, rfl, rfl, ⟨by decide, .inl (by decide)⟩⟩,
    ⟨heard 50 7 .stopHose [2] (settled 124), _, entry 50 7 .stopHose [2], [], .h2, liveTwo,
      ⟨rfl, rfl, by decide, by decide, by decide, by decide⟩, by decide, rfl, rfl, rfl, settled_closes.1,
      by intro g; cases g <;> decide⟩,
    ⟨heard 50 7 .stopHose [4] up, entry 50 7 .stopHose [4], [], .h4,
      ⟨rfl, rfl, by decide, by decide, by decide, by decide⟩, by decide, rfl⟩⟩

/-! ### Accounts -/

/-- The body of a PERMIT of 5,000 mL for an hour. -/
def permitFrame : List Byte := beBytes 3 9 ++ [1] ++ beBytes 3 5000 ++ beBytes 3 3600

/-- Permits of so many other machines. -/
def permitsOf (n : Nat) : List Permit := (List.range n).map fun i => ⟨100 + i, .diesel, 1000, 5⟩

/-- A station at a local second, with a permit that expires at 3. -/
def lateStation (seconds : Nat) : State :=
  (up.setAccounts { up.accounts with permits := [⟨9, .diesel, 5000, 3⟩] }).setUnit { up.unit with seconds := seconds }

/-- With 7 other permits and with 8; a permit at its expiry, and before it, across the end of local seconds. -/
theorem witness_PermitsArriveAndExpire :
    (∀ n ∈ [7, 8], ∃ (s : State) (e : RxEntry) (rest : List RxEntry) (b : PermitBody),
      s.offers .permit .accountTable e rest ∧ permitBody e.frame.body = .sound b
        ∧ (s.accounts.permits.filter (fun q => !(q.machine == b.machine && q.product == b.product))).length = n)
      ∧ ∀ n ∈ [3, 4294967294], ∃ (s : State) (machine : Nat) (product : Product) (q : Permit), s.unit.powered = true
        ∧ s.accounts.findPermit machine product = some q ∧ s.unit.seconds = n ∧ (n = q.expiry ↔ n = 3) := by
  refine ⟨?_, ?_⟩ <;> intro n hn <;> simp only [List.mem_cons, List.not_mem_nil, or_false] at hn <;>
    rcases hn with rfl | rfl
  · exact ⟨heard 50 7 .permit permitFrame (up.setAccounts { up.accounts with permits := permitsOf 7 }),
      entry 50 7 .permit permitFrame, [], ⟨9, .diesel, 5000, 3600⟩,
      ⟨rfl, rfl, by decide, by decide, by decide, by decide⟩, by decide, by decide⟩
  · exact ⟨heard 50 7 .permit permitFrame (up.setAccounts { up.accounts with permits := permitsOf 8 }),
      entry 50 7 .permit permitFrame, [], ⟨9, .diesel, 5000, 3600⟩,
      ⟨rfl, rfl, by decide, by decide, by decide, by decide⟩, by decide, by decide⟩
  · exact ⟨lateStation 3, 9, .diesel, ⟨9, .diesel, 5000, 3⟩, rfl, by decide, rfl, by decide⟩
  · exact ⟨lateStation 4294967294, 9, .diesel, ⟨9, .diesel, 5000, 3⟩, rfl, by decide, rfl, by decide⟩

/-- A DRAW of station 12 by machine 40,117 from a tank. -/
def drawFrame (hours tank quantity : Nat) : List Byte :=
  beBytes 4 884 ++ oneByte tank ++ [1] ++ beBytes 3 40117 ++ beBytes 3 hours ++ beBytes 4 quantity

/-- At 150, whose distance from 999,950 is the maximum step of 200; a machine without a record; a jump to 151. -/
theorem witness_PeerDrawsMoveTheRecord :
    (∃ (s : State) (e : RxEntry) (rest : List RxEntry) (d : DrawBody) (r : MachineRecord) (h : Nat),
      s.offers .draw .accountTable e rest ∧ drawBody e.frame.body = .sound d ∧ s.accounts.find d.machine = some r
        ∧ d.hours = some h ∧ r.lastDraw ≠ some ⟨e.frame.src, d.sequence⟩
        ∧ ∀ l, r.lastHours = some l → (h + 1000000 - l) % 1000000 ≤ s.cfg.maxHourStep)
      ∧ (∃ (s : State) (e : RxEntry) (rest : List RxEntry) (d : DrawBody),
        s.offers .draw .accountTable e rest ∧ drawBody e.frame.body = .sound d ∧ s.accounts.find d.machine = none)
      ∧ ∃ (s : State) (e : RxEntry) (rest : List RxEntry) (d : DrawBody) (r : MachineRecord) (l h : Nat),
        s.offers .draw .accountTable e rest ∧ drawBody e.frame.body = .sound d ∧ s.accounts.find d.machine = some r
          ∧ r.lastHours = some l ∧ d.hours = some h ∧ (h + 1000000 - l) % 1000000 = s.cfg.maxHourStep + 1 :=
  ⟨⟨heard 12 0 .draw (drawFrame 150 5 900000) (withTruck up), entry 12 0 .draw (drawFrame 150 5 900000), [],
      ⟨884, 5, .diesel, 40117, some 150, 900000⟩, truck, 150,
      ⟨rfl, rfl, by decide, by decide, by decide, by decide⟩, by decide, by decide, rfl, by decide,
      by intro l e; cases e; decide⟩,
    ⟨heard 12 0 .draw (drawFrame 150 5 900000) up, entry 12 0 .draw (drawFrame 150 5 900000), [],
      ⟨884, 5, .diesel, 40117, some 150, 900000⟩, ⟨rfl, rfl, by decide, by decide, by decide, by decide⟩, by decide,
      by decide⟩,
    ⟨heard 12 0 .draw (drawFrame 151 5 900000) (withTruck up), entry 12 0 .draw (drawFrame 151 5 900000), [],
      ⟨884, 5, .diesel, 40117, some 151, 900000⟩, truck, 999950, 151,
      ⟨rfl, rfl, by decide, by decide, by decide, by decide⟩, by decide, by decide, rfl, rfl, by decide⟩⟩

/-- The content of `setBody`. -/
def setContent : RosterSetBody := ⟨501, .priority, true, 9500, 1500000, 50000, none, [⟨2, 5000, 100, 50, 180000⟩]⟩

/-- A roster of so many other machines. -/
def rosterOf (n : Nat) : List MachineRecord := (List.range n).map fun i => { truck with id := 1000 + i }

/-- A held id, a new one in an empty roster and in one of 256; a held and an unheld id to remove. -/
theorem witness_RosterFramesWriteTheRoster :
    (∃ (s : State) (e : RxEntry) (rest : List RxEntry) (b : RosterSetBody) (r : MachineRecord),
      s.offers .rosterSet .accountTable e rest ∧ rosterSetBody e.frame.body = .sound b
        ∧ s.accounts.find b.id = some r)
      ∧ (∀ n ∈ [0, 256], ∃ (s : State) (e : RxEntry) (rest : List RxEntry) (b : RosterSetBody),
        s.offers .rosterSet .accountTable e rest ∧ rosterSetBody e.frame.body = .sound b
          ∧ s.accounts.find b.id = none ∧ s.accounts.roster.length = n)
      ∧ (∃ (a : Accounts) (r : MachineRecord) (id : Nat), rosterInOrder a.roster ∧ id ≠ r.id)
      ∧ (∃ (s : State) (e : RxEntry) (rest : List RxEntry) (id : Nat) (r : MachineRecord),
        s.offers .rosterRemove .accountTable e rest ∧ rosterRemoveBody e.frame.body = .sound id
          ∧ s.accounts.find id = some r)
      ∧ ∃ (s : State) (e : RxEntry) (rest : List RxEntry) (id : Nat),
        s.offers .rosterRemove .accountTable e rest ∧ rosterRemoveBody e.frame.body = .sound id
          ∧ s.accounts.find id = none := by
  refine ⟨⟨heard 50 0 .rosterSet setBody (up.setAccounts { up.accounts with roster := [{ truck with id := 501 }] }),
      entry 50 0 .rosterSet setBody, [], setContent, { truck with id := 501 },
      ⟨rfl, rfl, by decide, by decide, by decide, by decide⟩, by decide, by decide⟩, ?_,
    ⟨(withTruck up).accounts, truck, 1, ⟨by decide, by decide⟩, by decide⟩,
    ⟨heard 50 0 .rosterRemove (beBytes 3 40117) (withTruck up), entry 50 0 .rosterRemove (beBytes 3 40117), [], 40117,
      truck, ⟨rfl, rfl, by decide, by decide, by decide, by decide⟩, by decide, by decide⟩,
    ⟨heard 50 7 .rosterRemove (beBytes 3 40117) up, entry 50 7 .rosterRemove (beBytes 3 40117), [], 40117,
      ⟨rfl, rfl, by decide, by decide, by decide, by decide⟩, by decide, by decide⟩⟩
  intro n hn
  simp only [List.mem_cons, List.not_mem_nil, or_false] at hn
  rcases hn with rfl | rfl
  · exact ⟨heard 50 7 .rosterSet setBody up, entry 50 7 .rosterSet setBody, [], setContent,
      ⟨rfl, rfl, by decide, by decide, by decide, by decide⟩, by decide, by decide, rfl⟩
  · refine ⟨heard 50 7 .rosterSet setBody (up.setAccounts { up.accounts with roster := rosterOf 256 }),
      entry 50 7 .rosterSet setBody, [], setContent,
      ⟨rfl, rfl, by decide, by decide, by decide, by decide⟩, by decide, ?_, ?_⟩
    · decide +kernel
    · decide +kernel

/-- The record of the id, the first above it, and none. -/
theorem witness_AccountReadAnswersFromTheRoster :
    (∃ (s : State) (e : RxEntry) (rest : List RxEntry) (b : AccountReadBody) (r : MachineRecord),
      s.offers .accountRead .accountTable e rest ∧ accountReadBody e.frame.body = .sound b
        ∧ rosterInOrder s.accounts.roster ∧ r ∈ s.accounts.roster ∧ b.next = false ∧ r.id = b.id)
      ∧ (∃ (s : State) (e : RxEntry) (rest : List RxEntry) (b : AccountReadBody) (r : MachineRecord),
        s.offers .accountRead .accountTable e rest ∧ accountReadBody e.frame.body = .sound b
          ∧ rosterInOrder s.accounts.roster ∧ r ∈ s.accounts.roster ∧ b.next = true ∧ b.id < r.id
          ∧ ∀ q ∈ s.accounts.roster, b.id < q.id → r.id ≤ q.id)
      ∧ ∃ (s : State) (e : RxEntry) (rest : List RxEntry) (b : AccountReadBody),
        s.offers .accountRead .accountTable e rest ∧ accountReadBody e.frame.body = .sound b
          ∧ rosterInOrder s.accounts.roster
          ∧ ∀ r ∈ s.accounts.roster, if b.next then r.id ≤ b.id else r.id ≠ b.id :=
  ⟨⟨heard 50 7 .accountRead (beBytes 3 40117 ++ [1, 2]) (withTruck up),
      entry 50 7 .accountRead (beBytes 3 40117 ++ [1, 2]), [], ⟨40117, false, true⟩, truck,
      ⟨rfl, rfl, by decide, by decide, by decide, by decide⟩, by decide, ⟨by decide, by decide⟩, by decide, rfl, rfl⟩,
    ⟨heard 50 7 .accountRead (beBytes 3 40116 ++ [2, 1]) (withTruck up),
      entry 50 7 .accountRead (beBytes 3 40116 ++ [2, 1]), [], ⟨40116, true, false⟩, truck,
      ⟨rfl, rfl, by decide, by decide, by decide, by decide⟩, by decide, ⟨by decide, by decide⟩, by decide, rfl, by decide,
      by decide⟩,
    ⟨heard 50 7 .accountRead (beBytes 3 40117 ++ [2, 1]) (withTruck up),
      entry 50 7 .accountRead (beBytes 3 40117 ++ [2, 1]), [], ⟨40117, true, false⟩,
      ⟨rfl, rfl, by decide, by decide, by decide, by decide⟩, by decide, ⟨by decide, by decide⟩, by decide⟩⟩

/-- An ACTIVE record, a permit alone, neither, a suspended record; records with and without last hours; a step of 200, one of 201 back by 20, a jump; and
allowances of either kind. -/
theorem witness_AccountChecksDecideTheClaim :
    (∃ (a : Accounts) (r : MachineRecord), a.find 40117 = some r ∧ r.suspended = false)
      ∧ (∃ (a : Accounts) (q : Permit), a.findPermit 9 .diesel = some q
        ∧ ∀ r, a.find 9 = some r → r.suspended = true)
      ∧ (∃ a : Accounts, a.findPermit 9 .diesel = none ∧ a.find 9 = none)
      ∧ (∃ (a : Accounts) (r : MachineRecord), a.findPermit 40117 .diesel = none ∧ a.find 40117 = some r
        ∧ r.suspended = true)
      ∧ (∃ q r : MachineRecord, q.lastHours = none ∧ r.lastHours ≠ none)
      ∧ (∃ (r : MachineRecord) (l h : Nat), r.lastHours = some l ∧ (h + 1000000 - l) % 1000000 = settings.maxHourStep)
      ∧ (∃ (r : MachineRecord) (l h : Nat), r.lastHours = some l ∧ settings.maxHourStep < (h + 1000000 - l) % 1000000
        ∧ (l + 1000000 - h) % 1000000 = settings.backTolerance)
      ∧ (∃ (r : MachineRecord) (l h : Nat), r.lastHours = some l ∧ settings.maxHourStep < (h + 1000000 - l) % 1000000
        ∧ (l + 1000000 - h) % 1000000 = settings.backTolerance + 1)
      ∧ (∃ (r : MachineRecord) (a : Nat) (fl : RecordFlags),
        (hoursCheck settings (hoseOf .diesel 5) r (some 48)).answer = .given (a, fl) ∧ fl.hoursJump = false
          ∧ r.lastFill.isSome)
      ∧ ∃ (r : MachineRecord) (a : Nat) (fl : RecordFlags),
        (hoursCheck settings (hoseOf .engineOil 6) r none).answer = .given (a, fl) ∧ fl.hoursJump = false :=
  ⟨⟨(withTruck up).accounts, truck, by decide, rfl⟩,
    ⟨{ up.accounts with permits := [permitNine] }, permitNine, by decide, by intro r e; cases e⟩,
    ⟨up.accounts, rfl, rfl⟩, ⟨{ up.accounts with roster := [{ truck with suspended := true }] },
      { truck with suspended := true }, rfl, by decide, rfl⟩,
    ⟨{ truck with lastHours := none }, truck, rfl, nofun⟩,
    ⟨truck, 999950, 150, rfl, by decide⟩, ⟨truck, 999950, 999930, rfl, by decide, by decide⟩,
    ⟨truck, 999950, 999929, rfl, by decide, by decide⟩, ⟨truck, 1171000, noFlags, by decide, rfl, rfl⟩,
    ⟨truck, 180000, noFlags, by decide, rfl⟩⟩

/-- The fuel close of 3.3, at both sides of the end of a fill's range, and one with HOURS_BACK, the lube close of 3.3 and one
without a window. -/
theorem witness_ClosesMoveTheRecord :
    (∀ q ∈ [1168710, 4294967295, 4294967296], ∃ (r : MachineRecord) (c : Closed) (h : Nat), c.product = .diesel
      ∧ trusted settings r c.flags h = true ∧ c.quantity = q)
      ∧ (∃ (r : MachineRecord) (c : Closed) (h : Nat), c.product = .diesel ∧ trusted settings r c.flags h = false)
      ∧ (∃ (r : MachineRecord) (c : Closed) (h : Nat), c.product ≠ .diesel ∧ trusted settings r c.flags h = false)
      ∧ (∃ (r : MachineRecord) (c : Closed) (h : Nat), c.product ≠ .diesel ∧ trusted settings r c.flags h = true
        ∧ r.window c.product = none)
      ∧ (∃ (r : MachineRecord) (c : Closed) (h : Nat) (w : ServiceWindow), c.product ≠ .diesel
        ∧ trusted settings r c.flags h = true ∧ r.window c.product = some w)
      ∧ (∃ (s : State) (c : Closed) (r : MachineRecord) (h : Nat), s.accounts.find c.machine = some r
        ∧ c.hours = some h ∧ c.flags.permit = false)
      ∧ ∃ (s : State) (c : Closed), s.accounts.find c.machine = none :=
  ⟨fun q _ => ⟨truck, ⟨.h3, 40117, some 48, .diesel, 5, 0, q, .preset, noFlags, 0, 0⟩, 48, rfl,
      show trusted settings truck noFlags 48 = true by decide, rfl⟩,
    ⟨truck, ⟨.h3, 40117, some 48, .diesel, 5, 0, 5, .preset, { noFlags with hoursBack := true }, 0, 0⟩, 48, rfl, by decide⟩,
    ⟨truck, ⟨.h6, 40117, some 151, .engineOil, 6, 0, 5, .preset, noFlags, 0, 0⟩, 151, by decide, by decide⟩,
    ⟨truck, ⟨.h6, 40117, some 150, .coolant, 6, 0, 5, .preset, noFlags, 0, 0⟩, 150, by decide, by decide, by decide⟩,
    ⟨truck, ⟨.h6, 40117, some 60, .engineOil, 6, 0, 5, .preset, noFlags, 0, 0⟩, 60, ⟨.engineOil, 5000, 100, 999900, 100, 180000⟩,
      by decide, by decide, by decide⟩,
    ⟨withTruck up, ⟨.h3, 40117, some 48, .diesel, 5, 0, 5, .preset, noFlags, 0, 0⟩, truck, 48, by decide, rfl, rfl⟩,
    ⟨up, ⟨.h3, 40117, some 48, .diesel, 5, 0, 5, .preset, noFlags, 0, 0⟩, by decide⟩⟩

/-! ### Tanks -/

/-- A RECEIPT of a tank. -/
def receiptFrame (tank quantity : Nat) : List Byte := beBytes 4 3316 ++ oneByte tank ++ beBytes 4 quantity

/-- A DRAW and a RECEIPT with a new key and with a key held, without a live delivery and with hose 2's, the stock above the
dead level; of a tank without a book; a DRAW and a RECEIPT that leave hose 2's tank at its dead level, hose 2 FLOWING, in
PRIMING with a quiet meter, and beside hose 1. -/
theorem witness_DrawsAndReceiptsMoveTheBook :
    (∀ keys ∈ [[], [⟨12, 884⟩]], ∀ s ∈ [up, withTwo .flowing 124], ∃ (s : State) (e : RxEntry) (rest : List RxEntry)
        (d : DrawBody) (k : BookIx), s.offers .draw .tankBooks e rest ∧ drawBody e.frame.body = .sound d
        ∧ s.stockGone d.tank = false ∧ (s.setBook k { s.books.get k with
            value := (s.books.get k).value.map fun v => v - d.quantity }).stockGone d.tank = false
        ∧ s.bookOf d.tank = some k ∧ (s.books.get k).recent = keys ∧ (⟨e.frame.src, d.sequence⟩ : Key) = ⟨12, 884⟩)
      ∧ (∃ (s : State) (e : RxEntry) (rest : List RxEntry) (d : DrawBody), s.offers .draw .tankBooks e rest
        ∧ drawBody e.frame.body = .sound d ∧ (∀ h, s.liveTank h ≠ some d.tank) ∧ s.bookOf d.tank = none)
      ∧ (∀ keys ∈ [[], [⟨50, 3316⟩]], ∀ s ∈ [up, withTwo .flowing 124], ∃ (s : State) (e : RxEntry) (rest : List RxEntry)
          (d : ReceiptBody) (k : BookIx), s.offers .receipt .tankBooks e rest ∧ receiptBody e.frame.body = .sound d
          ∧ s.stockGone d.tank = false ∧ s.bookOf d.tank = some k ∧ (s.books.get k).recent = keys
          ∧ (⟨e.frame.src, d.number⟩ : Key) = ⟨50, 3316⟩)
      ∧ (∃ (s : State) (e : RxEntry) (rest : List RxEntry) (d : ReceiptBody), s.offers .receipt .tankBooks e rest
        ∧ receiptBody e.frame.body = .sound d ∧ (∀ h, s.liveTank h ≠ some d.tank) ∧ s.bookOf d.tank = none)
      ∧ (∀ p ∈ [(withTwo .flowing 124, 500), (settled 124, 500), (alsoOne (withTwo .flowing 124), 36790)],
        ∃ (s u : State) (e f : RxEntry) (d : DrawBody) (c : ReceiptBody) (k : BookIx) (v w : Nat),
        s = heard 12 0 .draw (drawFrame 150 5 900000) (withBook v [] p.1)
          ∧ u = heard 50 0 .receipt (receiptFrame 5 1000000) (withBook w [] p.1)
          ∧ s.bookOf 5 = some k ∧ u.bookOf 5 = some k
          ∧ (s.books.get k).state = .current ∧ (s.books.get k).recent = [] ∧ (s.books.get k).value = some v
          ∧ (u.books.get k).state = .current ∧ (u.books.get k).recent = [] ∧ (u.books.get k).value = some w
          ∧ s.offers .draw .tankBooks e [] ∧ drawBody e.frame.body = .sound d ∧ d.tank = 5
          ∧ v - d.quantity - s.drawnFrom 5 = (s.cfg.books.get k).dead
          ∧ u.offers .receipt .tankBooks f [] ∧ receiptBody f.frame.body = .sound c ∧ c.tank = 5
          ∧ min (w + c.quantity) (u.cfg.books.get k).capacity - u.drawnFrom 5 = (u.cfg.books.get k).dead)
      ∧ (∃ (s : State) (h g : HoseIx) (l : Live), s = alsoOne (withTwo .flowing 124)
        ∧ runState (s.hoses.get h).state = true ∧ (s.hoses.get h).live = some l ∧ l.tank = 5 ∧ s.settlesLater h
        ∧ runState (s.hoses.get g).state = true ∧ (s.hoses.get g).live = some l ∧ s.settlesLater g ∧ g ≠ h)
      ∧ ∃ (s : State) (h : HoseIx) (l : Live), s = settled 124 ∧ runState (s.hoses.get h).state = true
        ∧ (s.hoses.get h).live = some l ∧ l.tank = 5 ∧ ¬s.settlesLater h ∧ ∀ g, g ≠ h → s.liveTank g ≠ some 5 := by
  refine ⟨?_,
    ⟨heard 12 0 .draw (drawFrame 150 22 900000) up, entry 12 0 .draw (drawFrame 150 22 900000), [],
      ⟨884, 22, .diesel, 40117, some 150, 900000⟩, ⟨rfl, rfl, by decide, by decide, by decide, by decide⟩, by decide,
      by intro h; cases h <;> decide, rfl⟩, ?_,
    ⟨heard 50 7 .receipt (receiptFrame 22 60000000) up,
      entry 50 7 .receipt (receiptFrame 22 60000000), [], ⟨3316, 22, 60000000⟩,
      ⟨rfl, rfl, by decide, by decide, by decide, by decide⟩, by decide, by intro h; cases h <;> decide, rfl⟩,
    ?_,
    ⟨_, .h2, .h1, liveTwo, rfl, rfl, rfl, rfl, ⟨by decide, .inl (by decide)⟩, rfl, rfl, ⟨by decide, .inl (by decide)⟩,
      by decide⟩,
    ⟨_, .h2, liveTwo, rfl, rfl, rfl, rfl, settled_closes⟩⟩
  rotate_left 2
  · intro p hp
    refine ⟨_, _, entry 12 0 .draw (drawFrame 150 5 900000), entry 50 0 .receipt (receiptFrame 5 1000000),
      ⟨884, 5, .diesel, 40117, some 150, 900000⟩, ⟨3316, 5, 1000000⟩, .b1, 5900000 + p.2, 4000000 + p.2, rfl, rfl, ?_, ?_, rfl,
      rfl, rfl, rfl, rfl, rfl, ?_, by decide, rfl, ?_, ?_, by decide, rfl, ?_⟩ <;>
      simp only [List.mem_cons, List.not_mem_nil, or_false] at hp <;> rcases hp with rfl | rfl | rfl
    all_goals first
      | decide
      | exact ⟨rfl, rfl, by decide, by decide, by decide, by decide⟩
  all_goals
    intro keys hk s hs
    simp only [List.mem_cons, List.not_mem_nil, or_false] at hk hs
  · refine ⟨heard 12 0 .draw (drawFrame 150 5 900000) (withBook 9600000 keys s), entry 12 0 .draw (drawFrame 150 5 900000),
      [], ⟨884, 5, .diesel, 40117, some 150, 900000⟩, .b1, ?_, by decide, ?_, ?_, ?_, ?_, rfl⟩
    all_goals rcases hk with rfl | rfl <;> rcases hs with rfl | rfl
    all_goals first
      | rfl
      | exact ⟨rfl, rfl, by decide, by decide, by decide, by decide⟩
  · refine ⟨heard 50 0 .receipt (receiptFrame 5 60000000) (withBook 9600000 keys s),
      entry 50 0 .receipt (receiptFrame 5 60000000), [], ⟨3316, 5, 60000000⟩, .b1, ?_, by decide, ?_, ?_, ?_, rfl⟩
    all_goals rcases hk with rfl | rfl <;> rcases hs with rfl | rfl
    all_goals first
      | rfl
      | exact ⟨rfl, rfl, by decide, by decide, by decide, by decide⟩

/-- A LEVEL of a tank. -/
def levelFrame (tank : Nat) : List Byte := oneByte tank ++ beBytes 2 1000 ++ beBytes 4 39600000

/-- LEVELs of a tank without a book, gauged here, and kept, without a live delivery and with hose 2's, the stock above its
dead level and at it, also with hose 2 in PRIMING with a quiet meter and beside hose 1; books at the tolerance and one past it, AGED and UNKNOWN. -/
theorem witness_LevelsSettleTheBook :
    (∃ (s : State) (e : RxEntry) (rest : List RxEntry) (l : LevelBody), s.offers .level .tankBooks e rest
      ∧ levelBody e.frame.body = .sound l ∧ s.bookOf l.tank = none)
      ∧ (∃ (s : State) (e : RxEntry) (rest : List RxEntry) (l : LevelBody) (k : BookIx), s.offers .level .tankBooks e rest
        ∧ levelBody e.frame.body = .sound l ∧ s.bookOf l.tank = some k ∧ (s.probeOf l.tank).isSome)
      ∧ (∃ (s : State) (e : RxEntry) (rest : List RxEntry) (l : LevelBody) (k : BookIx), s.offers .level .tankBooks e rest
        ∧ levelBody e.frame.body = .sound l ∧ s.bookOf l.tank = some k ∧ s.probeOf l.tank = none
        ∧ ∀ h, s.liveTank h ≠ some l.tank)
      ∧ (∀ p ∈ [(withTwo .flowing 124, 500), (settled 124, 500), (alsoOne (withTwo .flowing 124), 36790)], ∀ x ∈ [0, 1],
        ∃ (s : State) (e : RxEntry) (rest : List RxEntry) (l : LevelBody) (k : BookIx) (b : Book) (h : HoseIx) (d : Live),
        s.hoses = p.1.hoses ∧ s.offers .level .tankBooks e rest
        ∧ levelBody e.frame.body = .sound l ∧ s.bookOf l.tank = some k ∧ s.probeOf l.tank = none
        ∧ b = (s.books.get k).gauge (min l.volume (s.cfg.books.get k).capacity) (s.cfg.books.get k).tolerance
          (s.link.join == .isolated)
        ∧ b.state = .current ∧ b.value = some (5000000 + p.2 + x) ∧ runState (s.hoses.get h).state = true
        ∧ (s.hoses.get h).live = some d ∧ d.tank = l.tank
        ∧ ((s.took .level .tankBooks e rest).setBook k b).stockGone l.tank = decide (x = 0)
        ∧ (x = 0 → 5000000 + p.2 + x - s.drawnFrom l.tank = (s.cfg.books.get k).dead))
      ∧ (∀ g ∈ [39600000, 39599999], ∃ (b : Book) (v : Nat), b.value = some v ∧ b.state = .current
        ∧ (g = 39600000 → ((g : Int) - (v : Int)).natAbs = 400000)
        ∧ (g = 39599999 → ((g : Int) - (v : Int)).natAbs = 400001))
      ∧ (∃ (b : Book) (v : Nat), b.value = some v ∧ b.state = .aged) ∧ ∃ b : Book, b.value = none := by
  refine ⟨⟨heard 12 0 .level (levelFrame 22) up, entry 12 0 .level (levelFrame 22), [], ⟨22, 1000, 39600000⟩,
      ⟨rfl, rfl, by decide, by decide, by decide, by decide⟩, by decide, rfl⟩,
    ⟨heard 12 0 .level (levelFrame 9) up, entry 12 0 .level (levelFrame 9), [], ⟨9, 1000, 39600000⟩, .b3,
      ⟨rfl, rfl, by decide, by decide, by decide, by decide⟩, by decide, rfl, rfl⟩,
    ⟨heard 50 0 .level (levelFrame 6) up, entry 50 0 .level (levelFrame 6), [], ⟨6, 1000, 39600000⟩, .b2,
      ⟨rfl, rfl, by decide, by decide, by decide, by decide⟩, by decide, rfl, rfl, by intro h; cases h <;> decide⟩,
    ?_, ?_, ⟨(gated .fault []).books.b3, 48900000, rfl, rfl⟩, ⟨State.reset.books.b1, rfl⟩⟩
  · intro p hp x hx
    refine ⟨heard 50 0 .level ([5] ++ beBytes 2 1000 ++ beBytes 4 (5000000 + p.2 + x)) p.1,
      entry 50 0 .level ([5] ++ beBytes 2 1000 ++ beBytes 4 (5000000 + p.2 + x)), [], ⟨5, 1000, 5000000 + p.2 + x⟩, .b1, _, .h2,
      liveTwo, rfl, ?_, ?_, ?_, ?_, rfl, ?_, ?_, ?_, ?_, rfl, ?_, ?_⟩ <;>
      simp only [List.mem_cons, List.not_mem_nil, or_false] at hp hx <;>
      rcases hp with rfl | rfl | rfl <;> rcases hx with rfl | rfl
    all_goals first
      | exact ⟨rfl, rfl, by decide, by decide, by decide, by decide⟩
      | decide
  · intro g _
    exact ⟨up.books.b1, 40000000, rfl, rfl, by rintro rfl; decide, by rintro rfl; decide⟩

/-- A CURRENT book with its timer, a running conflict timer and the scan timer, each at its setting and a millisecond
short, the scan on both sides of CONFIG_FAULT; a gate open for a millisecond less than its time, and one not open. -/
theorem witness_TankTimersExpire :
    (∀ d ∈ [0, 1],
      (∃ (s : State) (k : BookIx) (n : Nat), s.unit.powered = true ∧ (s.books.get k).state = .current
        ∧ (s.books.get k).ageTimer = some n ∧ n + d = s.cfg.gaugeAgeLimit * 1000)
        ∧ (∃ (s : State) (n : Nat), s.unit.powered = true ∧ s.gauging.conflictTimer = some n
          ∧ n + d = s.cfg.gaugeAgeLimit * 1000)
        ∧ ∀ j ∈ [JoinState.configFault, .joined], ∃ s : State, s.unit.powered = true ∧ s.link.join = j
          ∧ s.gauging.scanTimer + d = s.cfg.scanInterval * 1000)
      ∧ ∃ (s : State) (c d : ProbeIx) (n : Nat), s.unit.powered = true ∧ (s.probes.get c).gate = some n
        ∧ n + 1 = (s.cfg.probes.get c).gateMs ∧ (s.probes.get d).gate = none := by
  refine ⟨fun d hd => ?_, up.setProbe .c1 ⟨.tracking, [1228], true, some 99⟩, .c1, .c2, 99, rfl, rfl, rfl, rfl⟩
  have h : d ≤ 1 := by simp only [List.mem_cons, List.not_mem_nil, or_false] at hd; omega
  refine ⟨⟨later (600000 - d) up, .b1, _, rfl, rfl, rfl, ?_⟩, ⟨up.setGauging ⟨0, true, some (600000 - d)⟩, _, rfl, rfl, ?_⟩,
    fun j _ => ⟨later (5000 - d) (up.setLink { up.link with join := j }), rfl, rfl, ?_⟩⟩
  · show 0 + (600000 - d) + d = 600 * 1000; omega
  · show 600000 - d + d = 600 * 1000; omega
  · show 0 + (5000 - d) + d = 5 * 1000; omega

/-- Counts at the ends of the range of a channel, and gates that close on counts just inside and outside the window, in
FAULT and in ACQUIRING with an unsettled history. -/
theorem witness_GateClosesMoveTheProbe :
    (∃ c : ProbeSetting, c.countEmpty < c.countFull ∧ c.countEmpty = 2000 ∧ c.countFull = 14000)
      ∧ (∀ count ∈ [1499, 15001], ∃ (s : State) (c : ProbeIx), s.unit.powered = true ∧ s.inConfigFault = false
        ∧ (s.probes.get c).gate = some (s.cfg.probes.get c).gateMs ∧ (s.cfg.probes.get c).tank ≠ 0
        ∧ (count < (s.cfg.probes.get c).lower ∨ (s.cfg.probes.get c).upper < count))
      ∧ (∀ count ∈ [1500, 15000], ∃ (s u : State) (c : ProbeIx), s.unit.powered = true ∧ s.inConfigFault = false
        ∧ (s.probes.get c).gate = some (s.cfg.probes.get c).gateMs ∧ (s.cfg.probes.get c).tank ≠ 0 ∧ (s.cfg.probes.get c).lower ≤ count
        ∧ count ≤ (s.cfg.probes.get c).upper ∧ (s.probes.get c).state = .fault
        ∧ u.unit.powered = true ∧ u.inConfigFault = false ∧ (u.probes.get c).gate = some (u.cfg.probes.get c).gateMs ∧ u.cfg = s.cfg
        ∧ (u.probes.get c).state = .acquiring
        ∧ settledHistory (appendHeight (u.probes.get c).history (heightOf (u.cfg.probes.get c) count))
          (u.cfg.probes.get c).settleBand = false) := by
  refine ⟨⟨settings.probes.c1, by decide, rfl, rfl⟩, ?_, ?_⟩ <;> intro count hc <;>
    simp only [List.mem_cons, List.not_mem_nil, or_false] at hc <;> rcases hc with rfl | rfl
  · exact ⟨gated .tracking [1228], .c1, rfl, rfl, rfl, by decide, .inl (by decide)⟩
  · exact ⟨gated .tracking [1228], .c1, rfl, rfl, rfl, by decide, .inr (by decide)⟩
  · exact ⟨gated .fault [], gated .acquiring [1228], .c1, rfl, rfl, rfl, by decide, by decide, by decide, rfl, rfl, rfl, rfl,
      rfl, rfl, by decide⟩
  · exact ⟨gated .fault [], gated .acquiring [1228, 1233, 1229], .c1, rfl, rfl, rfl, by decide, by decide, by decide, rfl, rfl,
      rfl, rfl, rfl, rfl, by decide⟩

/-- Channel 1 tracks tank 5, of a high-high level, while hose 2 has drawn 40,000 mL of it. -/
def scanned (high : Nat) : State :=
  ((withTwo .flowing 9920).setProbe .c1 ⟨.tracking, [], false, some 100⟩).setUnit { up.unit with settings := { settings with
    probes := settings.probes.set .c1 { settings.probes.c1 with tank := 5 }
    books := settings.books.set .b1 { settings.books.b1 with highHigh := high } } }

/-- Scan 3 of 4.8, and a tracking scan exactly at the high-high level of 2,700 mm; scans of a tank that a hose draws on, which
bring its stock to the dead level, at and below the high-high level, and a millimetre above. -/
theorem witness_TrackingScansGaugeTheTank :
    (∃ (s : State) (c : ProbeIx) (count mean : Nat) (hs : List Nat) (k : BookIx),
      s.unit.powered = true ∧ s.inConfigFault = false ∧ (s.probes.get c).gate = some (s.cfg.probes.get c).gateMs
        ∧ (s.cfg.probes.get c).lower ≤ count ∧ count ≤ (s.cfg.probes.get c).upper
        ∧ s.bookOf (s.cfg.probes.get c).tank = some k ∧ (∀ h, s.liveTank h ≠ some (s.cfg.probes.get c).tank)
        ∧ hs = appendHeight (s.probes.get c).history (heightOf (s.cfg.probes.get c) count)
        ∧ (s.probes.get c).state = .acquiring ∧ settledHistory hs (s.cfg.probes.get c).settleBand = true
        ∧ mean = hs.sum / hs.length ∧ mean < (s.cfg.books.get k).highHigh ∧ s.link.ordinary.length < 6)
      ∧ (∃ (s : State) (c : ProbeIx) (count mean : Nat) (hs : List Nat) (k : BookIx),
        s.unit.powered = true ∧ s.inConfigFault = false ∧ (s.probes.get c).gate = some (s.cfg.probes.get c).gateMs
          ∧ (s.cfg.probes.get c).lower ≤ count ∧ count ≤ (s.cfg.probes.get c).upper
          ∧ s.bookOf (s.cfg.probes.get c).tank = some k ∧ (∀ h, s.liveTank h ≠ some (s.cfg.probes.get c).tank)
          ∧ hs = appendHeight (s.probes.get c).history (heightOf (s.cfg.probes.get c) count)
          ∧ (s.probes.get c).state = .tracking ∧ mean = hs.sum / hs.length
          ∧ (s.cfg.books.get k).highHigh = mean)
      ∧ ∀ high ∈ [140, 141], ∀ x ∈ [0, 1],
        ∃ (s : State) (c : ProbeIx) (count mean : Nat) (hs : List Nat) (k : BookIx) (b : Book) (v : Nat) (h : HoseIx) (l : Live),
        s.unit.powered = true ∧ s.inConfigFault = false ∧ (s.probes.get c).gate = some (s.cfg.probes.get c).gateMs
          ∧ (s.cfg.probes.get c).lower ≤ count ∧ count ≤ (s.cfg.probes.get c).upper
          ∧ s.bookOf (s.cfg.probes.get c).tank = some k
          ∧ hs = appendHeight (s.probes.get c).history (heightOf (s.cfg.probes.get c) count)
          ∧ (s.probes.get c).state = .tracking ∧ mean = hs.sum / hs.length ∧ mean = 140 + x
          ∧ b = (s.books.get k).gauge (min (strapVolume (s.cfg.probes.get c).points mean) (s.cfg.books.get k).capacity)
            (s.cfg.books.get k).tolerance (s.link.join == .isolated)
          ∧ b.state = .current ∧ b.value = some v
          ∧ (x = 0 → v - s.drawnFrom (s.cfg.probes.get c).tank = (s.cfg.books.get k).dead)
          ∧ (x = 1 → (s.setBook k b).stockGone (s.cfg.probes.get c).tank = false)
          ∧ (s.cfg.books.get k).highHigh = high ∧ runState (s.hoses.get h).state = true ∧ (s.hoses.get h).live = some l
          ∧ l.tank = (s.cfg.probes.get c).tank := by
  refine ⟨⟨gated .acquiring [1228, 1233], .c1, 6918, 1230, [1228, 1233, 1229], .b3, rfl, rfl, rfl, by decide, by decide, rfl,
      by intro h; cases h <;> decide, by decide, rfl, by decide, by decide, by decide, by decide⟩,
    ⟨gated .tracking [], .c1, 12800, 2700, [2700], .b3, rfl, rfl, rfl, by decide, by decide, rfl,
      by intro h; cases h <;> decide, by decide, rfl, by decide, by decide⟩, ?_⟩
  intro high hh x hx
  refine ⟨scanned high, .c1, 2560 + 4 * x, 140 + x, [140 + x], .b1, _, (140 + x) * 36000, .h2, liveTwo, rfl, rfl, rfl, ?_, ?_, rfl, ?_,
    rfl, ?_, rfl, rfl, ?_, ?_, ?_, ?_, rfl, rfl, rfl, rfl⟩ <;>
    simp only [List.mem_cons, List.not_mem_nil, or_false] at hh hx <;> rcases hh with rfl | rfl <;> rcases hx with rfl | rfl <;>
    decide

/-! ### The trip unit -/

/-- Hoses 1 to 4 are FLOWING, in PRIMING with a quiet meter, WAITING, and without a delivery. -/
def crowded (s : State) : Prop :=
  (runState (s.hoses.get .h1).state = true ∧ (s.hoses.get .h1).live = some liveTwo ∧ s.settlesLater .h1)
    ∧ (runState (s.hoses.get .h2).state = true ∧ (s.hoses.get .h2).live = some liveTwo ∧ ¬s.settlesLater .h2
      ∧ volume (s.hoseCfg .h2).meterK (s.meters.get .h2).net = 500)
    ∧ (s.hoses.get .h3).state = .waiting ∧ (s.hoses.get .h4).state ≠ .waiting ∧ runState (s.hoses.get .h4).state = false

/-- A crowded station with causes latched: the creep accumulator of hose 4 and the window of hose 1 stand at their limits, the
valve of hose 4 is not closed at the end-settle time, and channel 1, on a tank, has its gate open for its gate time. -/
def eventful (tank : Nat) (cs : CauseSet) : State := { up with
  unit := { up.unit with settings := { settings with
    probes := settings.probes.set .c1 { settings.probes.c1 with tank := tank } } }
  hoses := ((up.hoses.set .h1 (liveHose .flowing liveTwo)).set .h2 (liveHose .priming liveTwo)).set .h3
    { restHose .waiting (some .offHook) with claimTimer := some 9 }
  meters := ((up.meters.set .h1 { up.meters.h1 with net := 9000, window := 5167, rateTimer := 1000 }).set .h2
    { up.meters.h1 with net := 124, quiet := 2000 }).set .h4 { up.meters.h1 with creep := 123 }
  valves := (up.valves.set .h1 { up.valves.h1 with commanded := .full, duty := 100, closed := false }).set .h4
    { up.valves.h1 with closed := false, zeroTime := 2000 }
  pumps := up.pumps.set .p2 ⟨.running, none, true⟩
  journal := { up.journal with reserved := 2 }
  probes := up.probes.set .c1 ⟨.tracking, [], false, some 100⟩
  tripUnit := { up.tripUnit with causes := cs } }

/-- It is crowded. -/
theorem eventful_crowded (tank : Nat) (cs : CauseSet) : crowded (eventful tank cs) :=
  ⟨⟨rfl, rfl, (by decide : 0 < 2), .inl (by decide : 100 ≠ 0)⟩,
    ⟨rfl, rfl, fun h => h.2.elim (absurd rfl) fun q => absurd (by decide : 2 * 1000 ≤ 2000) (of_decide_eq_false q), (by decide : volume 2480 124 = 500)⟩, rfl, nofun, rfl⟩

/-- A count of 12,800 there, a mean at the high-high level of tanks 5 and 9, raises OVERFILL. -/
theorem eventful_overfills (tank : Nat) (cs : CauseSet) (ht : tank = 5 ∨ tank = 9) :
    (eventful tank cs).raises (.probeGateClose .c1 12800) .overfill (eventful tank cs) := by
  rcases ht with rfl | rfl
  · exact ⟨rfl, .inr (.inr (.inr ⟨⟨.c1, .b1, _, 12800, [2700], rfl, rfl, ⟨100, rfl, (by decide : 100 ≤ 100)⟩, (by decide : 1500 ≤ 12800),
      (by decide : 12800 ≤ 15000), rfl, (by decide : [2700] = appendHeight [] (heightOf settings.probes.c1 12800)), .inl rfl, (by decide : 2700 ≤ 2700), rfl⟩, rfl, rfl⟩))⟩
  · exact ⟨rfl, .inr (.inr (.inr ⟨⟨.c1, .b3, _, 12800, [2700], rfl, rfl, ⟨100, rfl, (by decide : 100 ≤ 100)⟩, (by decide : 1500 ≤ 12800),
      (by decide : 12800 ≤ 15000), rfl, (by decide : [2700] = appendHeight [] (heightOf settings.probes.c1 12800)), .inl rfl, (by decide : 2700 ≤ 2700), rfl⟩, rfl, rfl⟩))⟩

/-- Each zone-wide cause is raised there at its threshold: by a confirmed input or the button, at the 124th step, by a window
of 5,167 steps, at a mean at the high-high level. -/
theorem eventful_raises (tank : Nat) (cs : CauseSet) (ht : tank = 5 ∨ tank = 9) :
    ∀ cause ∈ [Cause.sump, .vapour, .estop, .creep, .hoseBreak, .overfill],
      ∃ s1 c, (eventful tank cs).raises c cause s1 ∧ crowded s1 := by
  have here := eventful_crowded tank cs
  intro cause hc
  simp only [List.mem_cons, List.not_mem_nil, or_false] at hc
  rcases hc with rfl | rfl | rfl | rfl | rfl | rfl
  · exact ⟨_, .spillInputConfirm .i1 true 1000, ⟨rfl, .inl ⟨.inl ⟨.i1, 1000, rfl, (by decide : 10 * 100 ≤ 1000), nofun,
      .inl ⟨rfl, rfl⟩⟩, rfl⟩⟩, here⟩
  · exact ⟨_, .spillInputConfirm .i2 false 1000, ⟨rfl, .inl ⟨.inl ⟨.i2, 1000, rfl, (by decide : 10 * 100 ≤ 1000), nofun,
      .inr ⟨rfl, rfl⟩⟩, rfl⟩⟩, here⟩
  · exact ⟨_, .emergencyStop true 100, ⟨rfl, .inl ⟨.inr ⟨100, rfl, by decide, nofun, rfl⟩, rfl⟩⟩, here⟩
  · exact ⟨_, .qualifiedPhaseChange .h4 true 20 false 0, ⟨rfl, .inr (.inl ⟨.h4, _, ⟨true, 20, false, 0, true, false, rfl,
      ⟨rfl, rfl, rfl, rfl, rfl, rfl, show judgeMove (phasePosition false false) (phasePosition true false) = _ by decide⟩, rfl,
      rfl, rfl, (by decide : 500 ≤ volume 2480 124)⟩, rfl, rfl⟩)⟩, here⟩
  · exact ⟨_, .rateWindowExpiry .h1, ⟨rfl, .inr (.inr (.inl ⟨.h1, _, ⟨rfl, (by decide : 1000 ≤ 1000), rfl, rfl,
      (by decide : 125 * 16667 < 100 * ((5167 * 10000 + 2480 / 2) / 2480))⟩, rfl, rfl⟩))⟩, here⟩
  · exact ⟨_, _, eventful_overfills tank cs ht, here⟩

/-- Every zone-wide cause, with none latched, with another and with itself; VAPOUR in CONFIG_FAULT; VALVE_STUCK of a hose
IDLE, in PRIMING and in ENDING, and by flow. -/
theorem witness_RaisedCausesAreLatchedAndAnnounced :
    (∀ cause ∈ [Cause.sump, .vapour, .estop, .creep, .hoseBreak, .overfill],
      ∀ cs ∈ [noCauses, { noCauses with powerUp := true }, noCauses.put cause true], ∃ (s s1 : State) (c : Instr),
        s.raises c cause s1 ∧ s.tripUnit.causes = cs ∧ s.inConfigFault = false ∧ s.link.reserved = []
          ∧ s.cfg.zone = some 3)
      ∧ (∃ (s s1 : State) (c : Instr), s.raises c .vapour s1 ∧ s.tripUnit.causes.has .vapour = false
        ∧ s.inConfigFault = true)
      ∧ (∀ s ∈ [eventful 9 noCauses, later 2000 (withTwo .priming 0), later 2000 (endingTwo .preset 0 0)], ∃ (h : HoseIx) (c : Instr), s.stuckBy h c
        ∧ (s.hoses.get h).state ≠ .flowing ∧ (s.hoses.get h).state ≠ .trimming
        ∧ ∀ f, (s.hoses.get h).state ≠ .outOfService f)
      ∧ ∃ (s : State) (h : HoseIx) (m : Nat), s.unit.powered = true ∧ (s.hoses.get h).state = .ending
        ∧ (s.valves.get h).flowPast = some m ∧ s.cfg.endingLimit * 1000 = m := by
  refine ⟨?_,
    ⟨up.setLink { up.link with join := .configFault }, _, .spillInputConfirm .i2 false 1000,
      ⟨rfl, .inl ⟨.inl ⟨.i2, 1000, rfl, by decide, by decide, .inr ⟨rfl, rfl⟩⟩, rfl⟩⟩, rfl, rfl⟩, ?_,
    ⟨later 30000 (endingTwo .preset 0 0), .h2, 30000, rfl, rfl, rfl, rfl⟩⟩
  · intro cause hc cs _
    obtain ⟨s1, c, h, _⟩ := eventful_raises 9 cs (.inr rfl) cause hc
    exact ⟨_, s1, c, h, rfl, rfl, rfl, rfl⟩
  · intro s hs
    simp only [List.mem_cons, List.not_mem_nil, or_false] at hs
    rcases hs with rfl | rfl | rfl
    · exact ⟨.h4, .zeroDutySettle .h4, ⟨rfl, rfl, rfl, .inr ⟨rfl, rfl, (by decide : 2 * 1000 ≤ 2000)⟩⟩, nofun, nofun,
        nofun⟩
    · exact ⟨.h2, .zeroDutySettle .h2, ⟨rfl, rfl, rfl, .inr ⟨rfl, rfl, (by decide : 2 * 1000 ≤ 2000)⟩⟩, nofun, nofun,
        nofun⟩
    · exact ⟨.h2, .zeroDutySettle .h2, ⟨rfl, rfl, rfl, .inr ⟨rfl, rfl, (by decide : 2 * 1000 ≤ 2000)⟩⟩, nofun, nofun,
        nofun⟩

/-- An input of function NONE, one that is watched, and the keyswitch unqualified and at RESET. -/
theorem witness_InputsAndKeysAreQualified :
    (∃ (s : State) (i : InputIx), s.unit.powered = true ∧ (s.cfg.spill.get i).function = .none)
      ∧ (∃ (s : State) (i : InputIx), s.unit.powered = true ∧ (s.cfg.spill.get i).function ≠ .none)
      ∧ (∃ s : State, s.unit.powered = true ∧ s.tripUnit.keySwitch = .unqualified)
      ∧ ∃ s : State, s.unit.powered = true ∧ s.tripUnit.keySwitch = .reset :=
  ⟨⟨up, .i3, rfl, rfl⟩, ⟨up, .i1, rfl, by decide⟩, ⟨up, rfl, rfl⟩, ⟨after (.tripResetKey 100) tripped, rfl, by decide⟩⟩

/-- A crowded station at each cause, the overfill scan of a tank without live deliveries and of one with them, at a peer's
TRIP and BEACON, and at VALVE_STUCK of its fourth hose. -/
theorem witness_EnteringTrippedShutsTheStationDown :
    (∀ cause ∈ [Cause.sump, .vapour, .estop, .creep, .hoseBreak, .overfill], ∃ (s s1 : State) (c : Instr),
      s.tripped = false ∧ s.raises c cause s1 ∧ crowded s1
        ∧ ∀ d k b, s.overfills c d k b → ∀ h, s.liveTank h ≠ some (s.cfg.probes.get d).tank)
      ∧ (∃ (s s1 : State) (n : Nat), s.tripped = false ∧ s.raises (.probeGateClose .c1 n) .overfill s1 ∧ crowded s1
        ∧ s.liveTank .h1 = some (s.cfg.probes.get .c1).tank ∧ ∀ d k b, s.overfills (.probeGateClose .c1 n) d k b →
          (s.setBook k b).stockGone (s.cfg.probes.get d).tank = false)
      ∧ (∀ c ∈ [Instr.trip, .beacon], ∃ s : State, s.tripped = false ∧ s.bringsOrigin c ∧ crowded s)
      ∧ ∃ (s s1 : State) (h : HoseIx) (c : Instr), s.tripped = false ∧ s.stuckBy h c
        ∧ liveState (s.hoses.get h).state = false ∧ (∀ f, (s.hoses.get h).state ≠ .outOfService f)
        ∧ s1 = s.setHose h { s.hoses.get h with
            state := .outOfService .valveStuck, claimTimer := none, tagTimer := none, noFlow := none, lamp := true
            flash := some 0 }
        ∧ crowded s1 := by
  refine ⟨?_, ⟨eventful 5 noCauses, _, 12800, rfl, eventful_overfills 5 noCauses (.inl rfl), eventful_crowded _ _, rfl, ?_⟩, ?_,
    ⟨eventful 9 noCauses, _, .h4, .zeroDutySettle .h4, rfl,
      ⟨rfl, rfl, rfl, .inr ⟨rfl, rfl, (by decide : 2 * 1000 ≤ 2000)⟩⟩, rfl, nofun, rfl,
      (eventful_crowded 9 noCauses).1, (eventful_crowded 9 noCauses).2.1, rfl, nofun, rfl⟩⟩
  · intro cause hc
    obtain ⟨s1, c, h, w⟩ := eventful_raises 9 noCauses (.inr rfl) cause hc
    exact ⟨_, s1, c, rfl, h, w, fun d _ _ _ h => by cases d <;> cases h <;> decide⟩
  · rintro d k b ⟨count, hs, e, -, -, -, -, hk, rfl, -, -, rfl⟩
    cases e
    cases (show some BookIx.b1 = some k from hk)
    decide
  · intro c hc
    simp only [List.mem_cons, List.not_mem_nil, or_false] at hc
    rcases hc with rfl | rfl
    · exact ⟨heard 12 0 .trip [3, 0, 42, 1] (eventful 9 noCauses), rfl,
        ⟨_, _, .inl ⟨⟨3, 42, { noCauses with sump := true }⟩, rfl,
          ⟨rfl, rfl, by decide, by decide, by decide, by decide⟩, by decide, rfl⟩⟩, eventful_crowded 9 noCauses⟩
    · exact ⟨heard 12 0 .beacon (beaconOf 5 42 4 []) (eventful 9 noCauses), rfl,
        ⟨_, _, .inr ⟨_, rfl, ⟨rfl, rfl, by decide, by decide, by decide, by decide⟩, rfl, by decide, by decide⟩⟩,
        eventful_crowded 9 noCauses⟩

/-- The key at the last cause of an announced episode, with CREEP, a hose OUT_OF_SERVICE at rest and one not, and a FAULTED
pump; a cause that stays present. -/
theorem witness_KeyOperationResetsTheStation :
    (∃ (s : State) (c : Instr) (stamp z : Nat), s.keyTurned c
      ∧ (∃ f, (s.hoses.get .h1).state = .outOfService f) ∧ s.atRest .h1
      ∧ (∃ f, (s.hoses.get .h4).state = .outOfService f) ∧ ¬s.atRest .h4 ∧ (s.pumps.get .p1).state = .faulted
      ∧ s.tripUnit.causes.creep = true ∧ s.tripUnit.causes.zoneWide.any = true
      ∧ (after c s).tripUnit.causes.zoneWide.any = false ∧ s.tripUnit.episode = some stamp
      ∧ s.tripUnit.announced = true ∧ s.inConfigFault = false ∧ s.cfg.zone = some z ∧ s.link.reserved = [])
      ∧ ∃ (s : State) (c : Instr), s.keyTurned c ∧ s.tripUnit.causes.has .sump = true ∧ s.stillPresent .sump
        ∧ (after c s).tripUnit.causes.zoneWide.any = true :=
  ⟨⟨((((tripped.setTripUnit { tripped.tripUnit with causes := { noCauses with creep := true, valveStuck := true } }).setHose
        .h1 (restHose (.outOfService .meter) (some .onHook))).setMeter .h1 { up.meters.h1 with quiet := 2000 }).setHose
        .h4 (restHose (.outOfService .valveStuck) none)).setPump .p1 ⟨.faulted, none, false⟩, .tripResetKey 100, 42, 3,
      ⟨rfl, rfl, 100, rfl, by decide⟩, ⟨.meter, rfl⟩, ⟨rfl, by decide⟩, ⟨.valveStuck, rfl⟩,
      fun h => absurd h.2 (by decide), rfl, rfl, rfl, by decide, rfl, rfl, rfl, rfl, rfl⟩,
    ⟨tripped.setTripUnit { tripped.tripUnit with inputs := .fill .alarm }, .tripResetKey 100,
      ⟨rfl, rfl, 100, rfl, by decide⟩, rfl, ⟨.i1, rfl, by decide⟩, by decide⟩⟩

/-- The override that returns the zone to NORMAL, and one that leaves it TRIPPED, at the hold time; a hold a millisecond
short. -/
theorem witness_OverrideRemovesLostOrigins :
    (∃ (s : State) (n : Nat), s.unit.powered = true ∧ s.tripUnit.overrideTimer = some n ∧ n = 5000
      ∧ s.tripped = true ∧ (after .overrideHoldExpiry s).tripped = false)
      ∧ (∃ (s : State) (n : Nat), s.unit.powered = true ∧ s.tripUnit.overrideTimer = some n ∧ n = 5000
        ∧ (after .overrideHoldExpiry s).tripped = s.tripped)
      ∧ ∃ (s : State) (n : Nat), s.unit.powered = true ∧ s.tripUnit.overrideTimer = some n ∧ n + 1 = 5000 :=
  ⟨⟨up.setTripUnit { up.tripUnit with origins := [⟨12, 42, noCauses⟩], overrideTimer := some 5000 }, 5000, rfl, rfl,
      rfl, rfl, by decide⟩,
    ⟨tripped.setTripUnit { tripped.tripUnit with overrideTimer := some 5000 }, 5000, rfl, rfl, rfl, by decide⟩,
    ⟨tripped.setTripUnit { tripped.tripUnit with overrideTimer := some 4999 }, 4999, rfl, rfl, rfl⟩⟩

/-- A TRIP of station 12 heard over an origin list and a peer table. -/
def heardOver (os : List Origin) (ps : List Peer) : State :=
  heard 12 0 .trip [3, 0, 42, 1] ((up.setTripUnit { up.tripUnit with origins := os }).setPeers ps)

/-- Origins of so many other stations, from 20. -/
def originsOf (n : Nat) : List Origin := (List.range n).map fun i => ⟨i + 20, 1, noCauses⟩

/-- TRIP and CLEAR of this zone and of another; a BEACON in an episode and without one; the TRIP over an empty list and one
that holds its sender, over 15 others, over 16 with a LOST origin, and over 16 without one. -/
theorem witness_PeerEpisodesMoveTheOriginList :
    (∀ z ∈ [3, 4], ∃ (s : State) (e : RxEntry) (rest : List RxEntry) (b : TripBody),
      s.offers .trip .tripUnit e rest ∧ tripBody e.frame.body = .sound b ∧ b.zone = z ∧ s.cfg.zone = some 3)
      ∧ (∀ z ∈ [3, 4], ∃ (s : State) (e : RxEntry) (rest : List RxEntry) (b : ClearBody),
        s.offers .clear .tripUnit e rest ∧ clearBody e.frame.body = .sound b ∧ b.zone = z ∧ s.cfg.zone = some 3)
      ∧ (∃ (s : State) (e : RxEntry) (rest : List RxEntry) (b : BeaconBody),
        s.offers .beacon .tripUnit e rest ∧ beaconBody e.frame.body = .sound b ∧ s.cfg.zone = some b.zone ∧ b.stamp = 1)
      ∧ (∃ (s : State) (e : RxEntry) (rest : List RxEntry) (b : BeaconBody),
        s.offers .beacon .tripUnit e rest ∧ beaconBody e.frame.body = .sound b ∧ b.stamp = 0)
      ∧ (∃ s : State, s.offers .trip .tripUnit (entry 12 0 .trip [3, 0, 42, 1]) [] ∧ s.tripped = false)
      ∧ (∃ s : State, s.offers .trip .tripUnit (entry 12 0 .trip [3, 0, 42, 1]) [] ∧ s.tripped = true
        ∧ ∃ q ∈ s.tripUnit.origins, q.address = 12)
      ∧ (∃ s : State, s.offers .trip .tripUnit (entry 12 0 .trip [3, 0, 42, 1]) [] ∧ s.tripped = true
        ∧ s.tripUnit.origins.length = 15 ∧ ∀ o ∈ s.tripUnit.origins, o.address ≠ 12)
      ∧ (∃ (s : State) (a b : List Origin) (q : Origin), s.offers .trip .tripUnit (entry 12 0 .trip [3, 0, 42, 1]) []
        ∧ s.tripUnit.origins.length = 16 ∧ (∀ o ∈ s.tripUnit.origins, o.address ≠ 12) ∧ s.tripUnit.origins = a ++ q :: b
        ∧ s.liveness q.address = some .lost ∧ (∀ p ∈ a, s.liveness p.address ≠ some .lost) ∧ ¬s.noPlaceFor 12)
      ∧ ∃ s : State, s.offers .trip .tripUnit (entry 12 0 .trip [3, 0, 42, 1]) [] ∧ s.noPlaceFor 12 := by
  have heardSo (os : List Origin) (ps : List Peer) :
      (heardOver os ps).offers .trip .tripUnit (entry 12 0 .trip [3, 0, 42, 1]) [] :=
    ⟨rfl, rfl, by decide, by decide, by show _ ∈ ownersOf .trip 12 false; decide, nofun⟩
  refine ⟨?_, ?_,
    ⟨heard 12 0 .beacon (beaconOf 5 1 4 []) up, entry 12 0 .beacon (beaconOf 5 1 4 []), [], _,
      ⟨rfl, rfl, by decide, by decide, by decide, by decide⟩, rfl, by decide, by decide⟩,
    ⟨heard 12 0 .beacon (beaconOf 5 0 0 []) up, entry 12 0 .beacon (beaconOf 5 0 0 []), [], _,
      ⟨rfl, rfl, by decide, by decide, by decide, by decide⟩, rfl, by decide⟩,
    ⟨heardOver [] [], heardSo _ _, by decide⟩,
    ⟨heardOver [⟨12, 42, noCauses⟩] [], heardSo _ _, by decide, ⟨12, 42, noCauses⟩, by decide, rfl⟩,
    ⟨heardOver (originsOf 15) [], heardSo _ _, by decide, by decide, by decide⟩,
    ⟨heardOver (originsOf 16) [peerOf 20 0 .lost], [], (originsOf 16).drop 1, ⟨20, 1, noCauses⟩, heardSo _ _, by decide,
      by decide, by decide, by decide, by decide,
      fun h => absurd (show (heardOver (originsOf 16) [peerOf 20 0 .lost]).liveness 20 = some .lost by decide)
        (h.2 ⟨20, 1, noCauses⟩ (by decide)).2⟩,
    ⟨heardOver (originsOf 16) [], heardSo _ _, by decide, by decide⟩⟩
  · intro z hz
    simp only [List.mem_cons, List.not_mem_nil, or_false] at hz
    rcases hz with rfl | rfl
    · exact ⟨heard 12 0 .trip [3, 0, 42, 1] up, entry 12 0 .trip [3, 0, 42, 1], [], ⟨3, 42, { noCauses with sump := true }⟩,
        ⟨rfl, rfl, by decide, by decide, by decide, by decide⟩, by decide, rfl, rfl⟩
    · exact ⟨heard 12 0 .trip [4, 0, 42, 1] up, entry 12 0 .trip [4, 0, 42, 1], [], ⟨4, 42, { noCauses with sump := true }⟩,
        ⟨rfl, rfl, by decide, by decide, by decide, by decide⟩, by decide, rfl, rfl⟩
  · intro z hz
    simp only [List.mem_cons, List.not_mem_nil, or_false] at hz
    rcases hz with rfl | rfl
    · exact ⟨heard 12 0 .clear [3, 0, 42] up, entry 12 0 .clear [3, 0, 42], [], ⟨3, 42⟩,
        ⟨rfl, rfl, by decide, by decide, by decide, by decide⟩, by decide, rfl, rfl⟩
    · exact ⟨heard 12 0 .clear [4, 0, 42] up, entry 12 0 .clear [4, 0, 42], [], ⟨4, 42⟩,
        ⟨rfl, rfl, by decide, by decide, by decide, by decide⟩, by decide, rfl, rfl⟩

/-! ### Peers and the journal -/

/-- The table of 9.5 with the LOST entries HEARD. -/
def heardTable : List Peer := fullTable.map fun p => { p with state := .heard }

/-- A LEVEL frame of station 44, known and new, with the table full with and without LOST entries; its BEACON. -/
theorem witness_SoundFramesRefreshTheirPeer :
    (∃ (s : State) (e : RxEntry) (rest : List RxEntry), s.offers .level .peerTable e rest
      ∧ ∃ p ∈ s.peers, p.address = e.frame.src)
      ∧ (∃ (s : State) (e : RxEntry) (rest : List RxEntry) (b : BeaconBody), s.offers .beacon .peerTable e rest
        ∧ beaconBody e.frame.body = .sound b ∧ peersInOrder s.peers ∧ s.peers.length = 2
        ∧ ∀ p ∈ s.peers, p.address ≠ e.frame.src)
      ∧ (∃ (s : State) (e : RxEntry) (rest : List RxEntry) (q : Peer), s.offers .level .peerTable e rest
        ∧ (∀ p ∈ s.peers, p.address ≠ e.frame.src) ∧ q ∈ s.peers ∧ s.peers.length = 32 ∧ peersInOrder s.peers
        ∧ q.state = .lost ∧ ∀ p ∈ s.peers, p.state = .lost →
          q.lastHeard < p.lastHeard ∨ q.lastHeard = p.lastHeard ∧ q.address ≤ p.address)
      ∧ ∃ (s : State) (e : RxEntry) (rest : List RxEntry), s.offers .level .peerTable e rest
        ∧ (∀ p ∈ s.peers, p.address ≠ e.frame.src) ∧ s.peers.length = 32 ∧ ∀ p ∈ s.peers, p.state ≠ .lost :=
  ⟨⟨heard 44 0 .level (levelFrame 6) (up.setPeers [peerOf 44 0 .quiet]), entry 44 0 .level (levelFrame 6), [],
      ⟨rfl, rfl, by decide, by decide, by decide, by decide⟩, peerOf 44 0 .quiet, by decide, rfl⟩,
    ⟨heard 44 0 .beacon (beaconOf 10 0 0 [22]) (up.setPeers [peerOf 43 0 .quiet, peerOf 45 0 .quiet]),
      entry 44 0 .beacon (beaconOf 10 0 0 [22]), [], _, ⟨rfl, rfl, by decide, by decide, by decide, by decide⟩, rfl,
      ⟨by decide, by decide⟩, rfl, by decide⟩,
    ⟨heard 44 0 .level (levelFrame 6) (up.setPeers fullTable), entry 44 0 .level (levelFrame 6), [], peerOf 19 650 .lost,
      ⟨rfl, rfl, by decide, by decide, by decide, by decide⟩, by decide, by decide, rfl, ⟨by decide, by decide⟩, rfl,
      by decide⟩,
    ⟨heard 44 0 .level (levelFrame 6) (up.setPeers heardTable), entry 44 0 .level (levelFrame 6), [],
      ⟨rfl, rfl, by decide, by decide, by decide, by decide⟩, by decide, rfl, by decide⟩⟩

/-- A HEARD peer at its QUIET time, before its LOST one; a peer at its LOST time, a millisecond short, and none; the beacon
timer short; the join states that send no BEACON, addresses 0 and 48 in CONFIG_FAULT among them; JOINED and CONFIG_FAULT
with five frames queued. -/
theorem witness_PeerAndBeaconTimersExpire :
    (∃ (s : State) (p : Peer) (n : Nat), s.unit.powered = true ∧ s.peers = [p] ∧ p.state = .heard
      ∧ p.quietTimer = some n ∧ 2 * p.interval * 1000 = n ∧ 2 * p.interval < s.cfg.lostTimeout)
      ∧ (∀ d ∈ [0, 1], ∃ (s : State) (a : Nat) (p : Peer) (n : Nat), s.unit.powered = true ∧ s.peer a = some p
        ∧ p.lostTimer = some n ∧ n + d = s.cfg.lostTimeout * 1000)
      ∧ (∃ (s : State) (a : Nat), s.unit.powered = true ∧ s.peer a = none)
      ∧ (∃ (s : State), s.unit.powered = true ∧ s.beaconTimer + 1 = s.cfg.beaconInterval * 1000)
      ∧ (∀ j ∈ [(JoinState.listen, 7), (.isolated, 7), (.configFault, 0), (.configFault, 48)], ∃ (s : State),
        s.unit.powered = true ∧ s.cfg.beaconInterval * 1000 = s.beaconTimer ∧ s.link.join = j.1
          ∧ s.unit.strap = j.2)
      ∧ ∀ j ∈ [JoinState.joined, .configFault], ∃ (s : State) (z : Nat), s.unit.powered = true
        ∧ s.cfg.beaconInterval * 1000 = s.beaconTimer ∧ s.link.join = j ∧ s.cfg.zone = some z
        ∧ (∀ e ∈ s.link.ordinary, e.kind ≠ .beacon) ∧ s.link.ordinary.length = 5 ∧ s.unit.strap = 7 := by
  refine ⟨⟨up.setPeers [⟨44, 10, 1003, .heard, [5], some 20000, some 20000⟩], _, 20000, rfl, rfl, rfl, rfl, rfl,
      by decide⟩, ?_, ⟨up, 44, rfl, rfl⟩, ⟨later 4999 up, rfl, rfl⟩,
    fun j _ => ⟨later 5000 ((up.setLink { up.link with join := j.1 }).setUnit { up.unit with strap := j.2 }), rfl,
      (by decide : 5 * 1000 = 0 + 5000), rfl, rfl⟩,
    fun j _ => ⟨later 5000 (up.setLink { up.link with join := j, ordinary := List.replicate 5 (queuedDraw 1 .fresh) }), 3, rfl,
      (by decide : 5 * 1000 = 0 + 5000), rfl, rfl, by show ∀ e ∈ List.replicate 5 (queuedDraw 1 .fresh), _; decide, rfl, rfl⟩⟩
  intro d hd
  simp only [List.mem_cons, List.not_mem_nil, or_false] at hd
  rcases hd with rfl | rfl
  · exact ⟨up.setPeers [⟨44, 10, 1003, .quiet, [5], none, some 30000⟩], 44, _, 30000, rfl, rfl, rfl, rfl⟩
  · exact ⟨up.setPeers [⟨44, 10, 1003, .quiet, [5], none, some 29999⟩], 44, _, 29999, rfl, rfl, rfl, rfl⟩

/-- COLLECT of an empty journal, at the newest sequence, ahead of it by 1 and by the furthest, and behind. -/
theorem witness_CollectMarksUpToItsSequence :
    (∃ (s : State) (e : RxEntry) (rest : List RxEntry) (q : Nat), s.offers .collect .journal e rest
      ∧ collectBody e.frame.body = .sound q ∧ ∀ r ∈ s.journal.records, r.collected = true)
      ∧ (∀ q ∈ [5103, 5104, 5103 + 2147483647, 5103 + 2147483648], ∃ (s : State) (e : RxEntry) (rest : List RxEntry)
        (a b : List DeliveryRecord) (o n : DeliveryRecord), s.offers .collect .journal e rest
        ∧ collectBody e.frame.body = .sound q ∧ s.journal.records = a ++ o :: b ∧ (∀ r ∈ a, r.collected = true)
        ∧ o.collected = false ∧ s.journal.records.getLast? = some n ∧ n.sequence = 5103) := by
  refine ⟨⟨heard 50 7 .collect (beBytes 4 1) up, entry 50 7 .collect (beBytes 4 1), [], 1,
    ⟨rfl, rfl, by decide, by decide, by decide, by decide⟩, by decide, by decide⟩, ?_⟩
  intro q hq
  refine ⟨heard 50 7 .collect (beBytes 4 q) (up.setJournal shortJournal), entry 50 7 .collect (beBytes 4 q), [],
    [recordAt 5101 true], [recordAt 5103 false], recordAt 5102 false, recordAt 5103 false, ?_, ?_, rfl, by decide, rfl, rfl,
    rfl⟩
  all_goals
    simp only [List.mem_cons, List.not_mem_nil, or_false] at hq
    rcases hq with rfl | rfl | rfl | rfl
  all_goals first
    | exact ⟨rfl, rfl, by decide, by decide, by decide, by decide⟩
    | decide

/-- A read in progress and none; a named record third of five, and none of five held; the ways a frame of a read is
followed: the next record, one past two sequences that are not held, the end past one, the end, and nothing. -/
theorem witness_ReadsAnswerRecordByRecord :
    (∃ (s : State) (e : RxEntry) (rest : List RxEntry) (p : Nat × Nat), s.offers .journalRead .journal e rest
      ∧ journalReadBody e.frame.body = .sound p ∧ s.journal.read.isSome)
      ∧ (∃ (s : State) (e : RxEntry) (rest : List RxEntry) (first count : Nat) (d : DeliveryRecord) (i : Nat),
        s.offers .journalRead .journal e rest ∧ journalReadBody e.frame.body = .sound (first, count)
          ∧ s.journal.read = none ∧ i < count
          ∧ s.journal.records.find? (fun r => r.sequence == nextSequence^[i] first) = some d
          ∧ ∀ m, m < i → ∀ r ∈ s.journal.records, r.sequence ≠ nextSequence^[m] first)
      ∧ (∃ (s : State) (e : RxEntry) (rest : List RxEntry) (first count : Nat),
        s.offers .journalRead .journal e rest ∧ journalReadBody e.frame.body = .sound (first, count)
          ∧ s.journal.read = none ∧ ∀ m, m < count → ∀ r ∈ s.journal.records, r.sequence ≠ nextSequence^[m] first)
      ∧ (∀ r : ReadInProgress, ∃ (s : State) (e : TxEntry), s.unit.powered = true ∧ s.link.driver = .tail
        ∧ s.link.current = some e ∧ e.purpose = .readFrame ∧ s.journal.read = some r
        ∧ s.journal.records = shortJournal.records)
      ∧ (∀ p ∈ [((⟨50, 5102, 2, false⟩ : ReadInProgress), 0), (⟨50, 5099, 3, false⟩, 2)], p.2 < p.1.left
        ∧ (shortJournal.records.find? (fun x => x.sequence == nextSequence^[p.2] p.1.next)).isSome
        ∧ ∀ m, m < p.2 → ∀ x ∈ shortJournal.records, x.sequence ≠ nextSequence^[m] p.1.next)
      ∧ ∀ r ∈ [(⟨50, 5104, 0, false⟩ : ReadInProgress), ⟨50, 5104, 1, false⟩],
        ∀ m, m < r.left → ∀ x ∈ shortJournal.records, x.sequence ≠ nextSequence^[m] r.next :=
  ⟨⟨heard 50 7 .journalRead (beBytes 4 5103 ++ [5]) (up.setJournal { shortJournal with read := some ⟨51, 5102, 2, false⟩ }),
      entry 50 7 .journalRead (beBytes 4 5103 ++ [5]), [], (5103, 5),
      ⟨rfl, rfl, by decide, by decide, by decide, by decide⟩, by decide, rfl⟩,
    ⟨heard 50 7 .journalRead (beBytes 4 5099 ++ [5]) (up.setJournal shortJournal),
      entry 50 7 .journalRead (beBytes 4 5099 ++ [5]), [], 5099, 5, recordAt 5101 true, 2,
      ⟨rfl, rfl, by decide, by decide, by decide, by decide⟩, by decide, rfl, by decide, by decide, by decide⟩,
    ⟨heard 50 7 .journalRead (beBytes 4 4294967295 ++ [5]) (up.setJournal shortJournal),
      entry 50 7 .journalRead (beBytes 4 4294967295 ++ [5]), [], 4294967295, 5,
      ⟨rfl, rfl, by decide, by decide, by decide, by decide⟩, by decide, rfl, by decide⟩,
    fun r => ⟨(up.setJournal { shortJournal with read := some r }).setLink { up.link with
        driver := .tail
        ordinary := [⟨50, .journalRec, [], 0, .journal, .readFrame, 1, .inTransmission, 0⟩] }, _, rfl, rfl, rfl, rfl, rfl,
      rfl⟩, by decide, by decide⟩

/-! ### Frames and the line -/

/-- The four frames of the start unit. -/
theorem witness_StartUnitAnswersItsFrames :
    (∃ (s : State) (e : RxEntry) (rest : List RxEntry), s.offers .statusReq .startUnit e rest
      ∧ statusReqBody e.frame.body = .sound (1, true))
      ∧ (∃ (s : State) (e : RxEntry) (rest : List RxEntry), s.offers .identReq .startUnit e rest)
      ∧ (∃ (s : State) (e : RxEntry) (rest : List RxEntry), s.offers .restart .startUnit e rest)
      ∧ ∃ (s : State) (e : RxEntry) (rest : List RxEntry), s.offers .time .startUnit e rest
        ∧ timeBody e.frame.body = .sound 4294967295 :=
  ⟨⟨heard 50 7 .statusReq [1, 1] up, entry 50 7 .statusReq [1, 1], [],
      ⟨rfl, rfl, by decide, by decide, by decide, by decide⟩, by decide⟩,
    ⟨heard 50 7 .identReq [] up, entry 50 7 .identReq [], [], rfl, rfl, by decide, by decide, by decide, by decide⟩,
    ⟨heard 50 7 .restart [] up, entry 50 7 .restart [], [], rfl, rfl, by decide, by decide, by decide, by decide⟩,
    ⟨heard 50 0 .time (beBytes 4 4294967295) up, entry 50 0 .time (beBytes 4 4294967295), [],
      ⟨rfl, rfl, by decide, by decide, by decide, by decide⟩, by decide⟩⟩

/-- A kind of each family, an unknown kind, and frames that are counted, refused and sound without an owner. -/
theorem witness_FramesAreAdmittedOrDiscarded :
    (∀ f ∈ [Family.report, .administrative, .request, .reply], ∃ (g : Frame) (k : FrameKind),
      kindOfCode g.kind = some k ∧ familyOf k = f)
      ∧ (∃ (s : State) (e : RxEntry) (rest : List RxEntry), s.unit.powered = true ∧ s.link.buffer = e :: rest
        ∧ kindOfCode e.frame.kind = none)
      ∧ (∃ (s : State) (e : RxEntry) (rest : List RxEntry) (k : FrameKind) (b : Block), s.unit.powered = true
        ∧ s.link.buffer = e :: rest ∧ kindOfCode e.frame.kind = some k ∧ b ∈ mainOwners k
        ∧ verdict e.frame = .counted)
      ∧ (∃ (s : State) (e : RxEntry) (rest : List RxEntry) (k : FrameKind) (b : Block), s.unit.powered = true
        ∧ s.link.buffer = e :: rest ∧ kindOfCode e.frame.kind = some k ∧ b ∈ mainOwners k
        ∧ verdict e.frame = .refused .outOfRange)
      ∧ ∃ (s : State) (e : RxEntry) (rest : List RxEntry) (k : FrameKind) (b : Block), s.unit.powered = true
        ∧ s.link.buffer = e :: rest ∧ kindOfCode e.frame.kind = some k ∧ b ∈ mainOwners k
        ∧ verdict e.frame = .sound ∧ ownersOf k e.frame.src s.inConfigFault = [] := by
  refine ⟨?_,
    ⟨up.setLink { up.link with buffer := [⟨⟨7, 50, 90, []⟩, []⟩] }, _, _, rfl, rfl, by decide⟩,
    ⟨heard 50 0 .stopHose [4] up, entry 50 0 .stopHose [4], [], .stopHose, .deliveryController, rfl, rfl, by decide, by decide,
      by decide⟩,
    ⟨heard 50 7 .statusReq [2, 1] up, entry 50 7 .statusReq [2, 1], [], .statusReq, .startUnit, rfl, rfl, by decide, by decide,
      by decide⟩,
    ⟨heard 50 7 .stopHose [4] (up.setLink { up.link with join := .configFault }), entry 50 7 .stopHose [4], [], .stopHose,
      .deliveryController, rfl, rfl, by decide, by decide, by decide, by decide⟩⟩
  intro f hf
  simp only [List.mem_cons, List.not_mem_nil, or_false] at hf
  rcases hf with rfl | rfl | rfl | rfl
  · exact ⟨⟨0, 12, 1, []⟩, .beacon, by decide, rfl⟩
  · exact ⟨⟨0, 50, 16, []⟩, .receipt, by decide, rfl⟩
  · exact ⟨⟨7, 50, 32, []⟩, .statusReq, by decide, rfl⟩
  · exact ⟨⟨7, 50, 64, []⟩, .statusRep, by decide, rfl⟩

/-- A MUTED, a SEEKING and an ASSEMBLING receiver, the last at the third and at the second silent character time; a length of 65, a frame one character short, a complete one with a good
check from an office and from this station. -/
theorem witness_CharactersAssembleFrames :
    (∃ s : State, s.unit.powered = true ∧ (∀ n, s.link.driver ≠ .sending n) ∧ s.link.receiver = .muted)
      ∧ (∃ s : State, s.unit.powered = true ∧ (∀ n, s.link.driver ≠ .sending n) ∧ s.link.receiver = .seeking true)
      ∧ (∀ n ∈ [2, 3], ∃ (s : State) (dest : Nat) (cs : List Byte) (w : Nat), s.unit.powered = true
        ∧ (∀ n, s.link.driver ≠ .sending n) ∧ s.link.receiver = .assembling dest cs ∧ n = s.link.silence.getD 0 + w)
      ∧ (∃ (s : State) (dest : Nat) (cs : List Byte), s.unit.powered = true ∧ (∀ n, s.link.driver ≠ .sending n)
        ∧ s.link.receiver = .assembling dest cs ∧ (cs ++ [(65 : Byte)]).length = 3 ∧ field (cs ++ [(65 : Byte)]) 2 1 = 65)
      ∧ (∃ (s : State) (dest : Nat) (cs : List Byte), s.unit.powered = true ∧ (∀ n, s.link.driver ≠ .sending n)
        ∧ s.link.receiver = .assembling dest cs ∧ field (cs ++ [(0 : Byte)]) 2 1 = 0 ∧ (cs ++ [(0 : Byte)]).length = 4)
      ∧ ∀ src ∈ [7, 50], ∃ (s : State) (dest : Nat) (cs : List Byte) (data : Byte), s.unit.powered = true
        ∧ (∀ n, s.link.driver ≠ .sending n) ∧ s.link.receiver = .assembling dest cs ∧ (cs ++ [data]).length = 5
        ∧ checkCode ((cs ++ [data]).take 3) = field (cs ++ [data]) 3 2 ∧ field (cs ++ [data]) 0 1 = src
        ∧ s.ownAddress = 7 := by
  refine ⟨⟨up, rfl, by intro n; exact nofun, rfl⟩,
    ⟨up.setLink { up.link with receiver := .seeking true }, rfl, by intro n; exact nofun, rfl⟩,
    fun n _ => ⟨up.setLink { up.link with receiver := .assembling 0 [12, 4], silence := none }, 0, [12, 4], n, rfl,
      by intro n; exact nofun, rfl, (Nat.zero_add n).symm⟩,
    ⟨up.setLink { up.link with receiver := .assembling 0 [12, 4] }, 0, [12, 4], rfl, by intro n; exact nofun, rfl, rfl,
      by decide⟩,
    ⟨up.setLink { up.link with receiver := .assembling 0 [12, 4, 0] }, 0, [12, 4, 0], rfl, by intro n; exact nofun, rfl,
      by decide, rfl⟩, ?_⟩
  intro src hs
  simp only [List.mem_cons, List.not_mem_nil, or_false] at hs
  rcases hs with rfl | rfl
  · exact ⟨up.setLink { up.link with
        receiver := .assembling 7 ([7, 33, 0] ++ oneByte (checkCode [7, 33, 0] / 256)) }, 7, _, BitVec.ofNat 8 (checkCode [7, 33, 0]),
      rfl, by intro n; exact nofun, rfl, rfl, by decide +kernel, by decide, by decide⟩
  · exact ⟨up.setLink { up.link with
        receiver := .assembling 7 ([50, 33, 0] ++ oneByte (checkCode [50, 33, 0] / 256)) }, 7, _, BitVec.ofNat 8 (checkCode [50, 33, 0]),
      rfl, by intro n; exact nofun, rfl, rfl, by decide +kernel, by decide, by decide⟩

/-- A queued BEACON. -/
def queuedBeacon : TxEntry := ⟨0, .beacon, [], 5, .peerTable, .plain, 1, .fresh, 0⟩

/-- A queued TRIP at an attempt. -/
def queuedTrip (attempt : Nat) (st : TxStatus) : TxEntry := ⟨0, .trip, [3, 0, 42, 1], 5, .tripUnit, .plain, attempt, st, 0⟩

/-- LISTEN and ISOLATED; a DRAW behind a BEACON, and a TRIP; the lead; an echo, and the end of a plain frame. -/
theorem witness_AttemptsSendTheFirstFrame :
    (∃ s : State, s.unit.powered = true ∧ s.link.driver = .released ∧ s.link.silence = none ∧ s.link.join = .isolated)
      ∧ (∃ (s : State) (a : List TxEntry) (e : TxEntry) (b : List TxEntry), s.unit.powered = true
        ∧ s.link.driver = .released ∧ s.link.silence = none ∧ s.link.join = .joined
        ∧ 3 + 2 * accessClass e.kind
          + (if e.attempt ≤ 1 then 0 else (s.ownAddress * 5 + e.attempt * 3) % 16) = 16
        ∧ (∀ q ∈ a, accessClass e.kind < accessClass q.kind) ∧ (∀ q ∈ b, accessClass e.kind ≤ accessClass q.kind)
        ∧ s.link.reserved = [] ∧ s.link.ordinary = a ++ e :: b)
      ∧ (∃ (s : State) (e : TxEntry), s.unit.powered = true ∧ s.link.driver = .released ∧ s.link.silence = none
        ∧ s.link.join = .joined ∧ s.link.reserved = [e])
      ∧ (∃ s : State, s.unit.powered = true ∧ s.link.driver = .lead)
      ∧ (∃ (s : State) (e : TxEntry) (data : Byte) (marked : Bool), s.unit.powered = true ∧ s.link.current = some e
        ∧ s.link.driver = .sending 0 ∧ (s.charactersOf e)[0]? = some (data, marked))
      ∧ ∃ (s : State) (e : TxEntry), s.unit.powered = true ∧ s.link.current = some e ∧ s.link.driver = .tail
        ∧ e.purpose = .plain :=
  ⟨⟨up.setLink { up.link with join := .isolated }, rfl, rfl, rfl, rfl⟩,
    ⟨up.setLink { up.link with ordinary := [queuedBeacon, queuedDraw 2 .started, queuedDraw 1 .fresh] }, [queuedBeacon],
      queuedDraw 2 .started, [queuedDraw 1 .fresh], rfl, rfl, rfl, rfl, by decide, by decide, by decide, rfl, rfl⟩,
    ⟨up.setLink { up.link with reserved := [queuedTrip 1 .fresh] }, queuedTrip 1 .fresh, rfl, rfl, rfl, rfl, rfl⟩,
    ⟨up.setLink { up.link with driver := .lead }, rfl, rfl⟩,
    ⟨up.setLink { up.link with driver := .sending 0, ordinary := [queuedDraw 1 .inTransmission] },
      queuedDraw 1 .inTransmission, 0, true, rfl, rfl, rfl, by decide⟩,
    ⟨up.setLink { up.link with driver := .tail, ordinary := [queuedDraw 1 .inTransmission] },
      queuedDraw 1 .inTransmission, rfl, rfl, rfl, rfl⟩⟩

/-- A failed frame of each purpose at its seventh and at its eighth attempt, behind a started one: the fifteenth failure, the
sixteenth of a JOINED station, and of one in CONFIG_FAULT; a TRIP at its eighth; the two timers at their settings and a
millisecond short. -/
theorem witness_FailedAttemptsEndInIsolation :
    (∀ p : Purpose, ∀ n ∈ [7, 8], ∀ j ∈ [(14, JoinState.joined), (15, .joined), (15, .configFault)],
      ∃ (s : State) (m : Nat) (e : TxEntry), s.unit.powered = true ∧ s.link.driver = .sending m
      ∧ s.link.current = some e ∧ e.purpose = p ∧ (s.link.failures, s.link.join) = j
      ∧ s.link.ordinary = [queuedDraw 2 .started, e] ∧ e.attempt = n ∧ e.kind ≠ .trip ∧ e.kind ≠ .clear
      ∧ (s.charactersOf e)[m]? ≠ some (1, true))
      ∧ (∃ (s : State) (m : Nat) (e : TxEntry), s.unit.powered = true ∧ s.link.driver = .sending m
        ∧ s.link.current = some e ∧ e.purpose = .plain ∧ s.link.failures < 15 ∧ s.link.reserved = [e]
        ∧ s.link.ordinary = [queuedDraw 1 .fresh] ∧ e.kind = .trip ∧ e.attempt = 8)
      ∧ ∀ d ∈ [0, 1], (∃ (s : State) (n : Nat), s.unit.powered = true ∧ s.link.join = .isolated
          ∧ s.link.isolationTimer = some n ∧ n + d = s.cfg.isolationHold * 1000)
        ∧ ∃ (s : State) (n : Nat), s.unit.powered = true ∧ s.link.join = .listen ∧ s.link.joinTimer = some n
          ∧ n + d = s.cfg.joinTime * 1000 := by
  refine ⟨fun p n _ j _ => ⟨up.setLink { up.link with
        driver := .sending 0, failures := j.1, join := j.2
        ordinary := [queuedDraw 2 .started, ⟨50, .journalRec, [], 0, .journal, p, n, .inTransmission, 0⟩] }, 0,
      _, rfl, rfl, rfl, rfl, rfl, rfl, rfl, nofun, nofun, show (some ((50 : Byte), true)) ≠ some (1, true) by decide⟩,
    ⟨up.setLink { up.link with
        driver := .sending 1, reserved := [queuedTrip 8 .inTransmission], ordinary := [queuedDraw 1 .fresh] }, 1,
      queuedTrip 8 .inTransmission, rfl, rfl, rfl, rfl, by decide, rfl, rfl, rfl, rfl⟩,
    fun d hd => ⟨⟨up.setLink { up.link with join := .isolated, isolationTimer := some (30000 - d) }, _, rfl, rfl, rfl, ?_⟩,
      ⟨up.setLink { up.link with join := .listen, joinTimer := some (12000 - d) }, _, rfl, rfl, rfl, ?_⟩⟩⟩
  all_goals simp only [List.mem_cons, List.not_mem_nil, or_false] at hd
  · show 30000 - d + d = 30 * 1000; omega
  · show 12000 - d + d = 12 * 1000; omega

/-- A BEACON waiting, and none with five entries and with six; a reply of each purpose with six; a TRIP with a fresh one waiting and with one started; a DRAW
with five entries, with six DRAWs, behind a BEACON and behind a LEVEL; CONFIG_FAULT. -/
theorem witness_HandedFramesJoinTheQueue :
    (∃ (f : NewFrame) (s : State) (a : List TxEntry) (e : TxEntry) (b : List TxEntry), f.kind = .beacon
      ∧ s.link.ordinary = a ++ e :: b ∧ e.kind = .beacon ∧ ∀ q ∈ a, q.kind ≠ .beacon)
      ∧ (∀ n ∈ [5, 6], ∃ (f : NewFrame) (s : State), f.kind = .beacon ∧ (∀ q ∈ s.link.ordinary, q.kind ≠ .beacon)
        ∧ s.link.ordinary.length = n)
      ∧ (∀ p : Purpose, ∃ (f : NewFrame) (s : State), f.kind = .identRep ∧ f.purpose = p ∧ s.inConfigFault = false
        ∧ s.link.ordinary.length = 6)
      ∧ (∃ (f : NewFrame) (s : State) (a : List TxEntry) (e : TxEntry) (b : List TxEntry), f.kind = .trip
        ∧ s.inConfigFault = false ∧ s.link.reserved = a ++ e :: b ∧ e.status = .fresh ∧ ∀ q ∈ a, q.status ≠ .fresh)
      ∧ (∃ (f : NewFrame) (s : State), f.kind = .clear ∧ s.inConfigFault = false
        ∧ (∀ q ∈ s.link.reserved, q.status ≠ .fresh) ∧ s.link.reserved.length = 1)
      ∧ (∃ (f : NewFrame) (s : State), f.kind = .draw ∧ s.inConfigFault = false ∧ s.link.ordinary.length = 5)
      ∧ (∃ (f : NewFrame) (s : State), f.kind = .draw ∧ s.inConfigFault = false ∧ s.link.ordinary.length = 6
        ∧ f.purpose = .plain ∧ ∀ q ∈ s.link.ordinary, q.kind = .beacon ∨ q.kind = .level → q.status = .inTransmission)
      ∧ (∃ (f : NewFrame) (s : State) (a : List TxEntry) (e : TxEntry) (b : List TxEntry), f.kind = .level
        ∧ s.inConfigFault = false ∧ 6 ≤ s.link.ordinary.length ∧ s.link.ordinary = a ++ e :: b
        ∧ e.status ≠ .inTransmission ∧ e.purpose = .plain ∧ e.kind = .beacon
        ∧ ∀ q ∈ a, q.kind = .beacon → q.status = .inTransmission)
      ∧ (∃ (f : NewFrame) (s : State) (a : List TxEntry) (e : TxEntry) (b : List TxEntry), f.kind = .draw
        ∧ s.inConfigFault = false ∧ 6 ≤ s.link.ordinary.length ∧ s.link.ordinary = a ++ e :: b
        ∧ e.status ≠ .inTransmission ∧ e.purpose = .plain ∧ e.kind = .level
        ∧ (∀ q ∈ s.link.ordinary, q.kind = .beacon → q.status = .inTransmission)
        ∧ ∀ q ∈ a, q.kind = .level → q.status = .inTransmission)
      ∧ ∃ (f : NewFrame) (s : State), f.kind = .trip ∧ s.inConfigFault = true := by
  refine ⟨⟨⟨0, .beacon, [], .peerTable, .plain⟩, up.setLink { up.link with ordinary := [queuedDraw 1 .fresh, queuedBeacon] },
      [queuedDraw 1 .fresh], queuedBeacon, [], rfl, rfl, rfl, by decide⟩, ?_,
    fun p => ⟨⟨50, .identRep, [], .startUnit, p⟩,
      up.setLink { up.link with ordinary := List.replicate 6 (queuedDraw 1 .fresh) }, rfl, rfl, rfl, rfl⟩,
    ⟨⟨0, .trip, [], .tripUnit, .plain⟩, up.setLink { up.link with reserved := [queuedTrip 2 .started, queuedTrip 1 .fresh] },
      [queuedTrip 2 .started], queuedTrip 1 .fresh, [], rfl, rfl, rfl, rfl, by decide⟩,
    ⟨⟨0, .clear, [], .tripUnit, .plain⟩, up.setLink { up.link with reserved := [queuedTrip 2 .started] }, rfl, rfl,
      by decide, rfl⟩,
    ⟨⟨0, .draw, [], .deliveryController, .plain⟩,
      up.setLink { up.link with ordinary := List.replicate 5 (queuedDraw 1 .fresh) }, rfl, rfl, rfl⟩,
    ⟨⟨0, .draw, [], .deliveryController, .plain⟩,
      up.setLink { up.link with ordinary := List.replicate 6 (queuedDraw 1 .fresh) }, rfl, rfl, rfl, rfl, by decide⟩,
    ⟨⟨0, .level, [], .tankBooks, .plain⟩,
      up.setLink { up.link with ordinary := queuedBeacon :: List.replicate 5 (queuedDraw 1 .fresh) }, [], queuedBeacon, _,
      rfl, rfl, by decide, rfl, by decide, rfl, rfl, by decide⟩,
    ⟨⟨0, .draw, [], .deliveryController, .plain⟩,
      up.setLink { up.link with
        ordinary := List.replicate 5 (queuedDraw 1 .fresh) ++ [{ queuedBeacon with kind := .level }] },
      List.replicate 5 (queuedDraw 1 .fresh), { queuedBeacon with kind := .level }, [],
      rfl, rfl, by decide, rfl, by decide, rfl, rfl, by decide, by decide⟩,
    ⟨⟨0, .trip, [], .tripUnit, .plain⟩, up.setLink { up.link with join := .configFault }, rfl, rfl⟩⟩
  intro n hn
  simp only [List.mem_cons, List.not_mem_nil, or_false] at hn
  rcases hn with rfl | rfl
  · exact ⟨⟨0, .beacon, [], .peerTable, .plain⟩,
      up.setLink { up.link with ordinary := List.replicate 5 (queuedDraw 1 .fresh) }, rfl, by decide, rfl⟩
  · exact ⟨⟨0, .beacon, [], .peerTable, .plain⟩,
      up.setLink { up.link with ordinary := List.replicate 6 (queuedDraw 1 .fresh) }, rfl, by decide, rfl⟩

/-! ### Starts and power -/

/-- A hose position of an image: hoses 1 to 5 as in `settings`, the sixth for ENGINE_OIL of tank 6. -/
def imageHose (product tank : Nat) : List Byte :=
  oneByte product ++ oneByte tank ++ beBytes 2 2480 ++ [20, 5] ++ beBytes 2 16667 ++ [100, 30] ++ beBytes 2 100
    ++ beBytes 3 1500000 ++ beBytes 2 15000 ++ beBytes 2 2300 ++ beBytes 3 20000

/-- A book position of an image. -/
def imageBook (tank product : Nat) : List Byte :=
  oneByte tank ++ oneByte product ++ beBytes 4 120000000 ++ beBytes 4 8000000 ++ beBytes 4 5000000 ++ beBytes 2 2700
    ++ beBytes 3 400000 ++ beBytes 3 1500000

/-- The probe position of tank 9 with the table of R109. -/
def imageProbe : List Byte :=
  [9] ++ beBytes 2 100 ++ beBytes 2 1500 ++ beBytes 2 15000 ++ beBytes 2 2000 ++ beBytes 2 14000 ++ beBytes 2 3000
    ++ beBytes 2 10 ++ [4] ++ beBytes 2 0 ++ beBytes 4 0 ++ beBytes 2 500 ++ beBytes 4 18000000 ++ beBytes 2 1500
    ++ beBytes 4 61000000 ++ beBytes 2 2800 ++ beBytes 4 110000000 ++ List.replicate 72 0

/-- The 796 characters of a valid image, laid out by the table of R200. -/
def imageChars : List Byte :=
  [1, 1, 16, 16, 3, 5, 12] ++ beBytes 2 30 ++ beBytes 2 30 ++ beBytes 2 60 ++ [3, 20, 2, 30, 3] ++ beBytes 2 30 ++ [5]
    ++ beBytes 2 600 ++ [10] ++ beBytes 2 60 ++ beBytes 3 500 ++ beBytes 2 200 ++ [20, 1, 6, 0, 0]
    ++ imageHose 1 5 ++ imageHose 1 5 ++ imageHose 1 5 ++ imageHose 1 5 ++ imageHose 1 5 ++ imageHose 2 6
    ++ [6, 5, 0, 0] ++ imageBook 5 1 ++ imageBook 6 2 ++ imageBook 9 1 ++ List.replicate 110 0
    ++ imageProbe ++ List.replicate 336 0

/-- A function of a number, applied once the number is a literal. -/
def strictly (k : Nat → Nat) : Nat → Nat
  | 0 => k 0
  | n + 1 => k (n + 1)

/-- It is the function. -/
theorem strictly_eq (k : Nat → Nat) (n : Nat) : strictly k n = k n := by cases n <;> rfl

/-- So many shifts of R153, the register evaluated at each of them, so that the kernel does not nest them. -/
def shifts : Nat → Nat → Nat
  | 0, r => r
  | n + 1, r => strictly (shifts n) (checkShift r)

/-- The code of R153 with its register evaluated at every shift. -/
def codeFrom : Nat → List Byte → Nat
  | r, [] => r
  | r, b :: bs => strictly (fun v => codeFrom v bs) (strictly (shifts 8) (Nat.xor r (b.toNat * 256)))

/-- It is the model's fold. -/
theorem codeFrom_eq (bs : List Byte) : ∀ r, codeFrom r bs = bs.foldl checkByte r := by
  induction bs with
  | nil => exact fun _ => rfl
  | cons b bs ih => intro r; simp only [codeFrom, shifts, strictly_eq, ih]; rfl

/-- The check value of the image. -/
def imageCode : Nat := 57237

/-- The image with its check value. -/
def image : List Byte := imageChars ++ beBytes 2 imageCode

/-- 10.2, R153, R201, R202: its length, the code over its first 796 characters; it is valid at address 7, not at 48, and
not with another check value. -/
theorem test_image_valid : image = image.take 798 ∧ image.length = 798 ∧ checkCode imageChars = imageCode
    ∧ faultReason 7 image = .none ∧ faultReason 48 image = .badAddress
    ∧ faultReason 7 (imageChars ++ beBytes 2 (imageCode + 1)) = .badCheck := by
  have whole : image = image.take 798 := by decide +kernel
  have first : image.take 796 = imageChars
      ∧ (imageChars ++ beBytes 2 (imageCode + 1)).take 796 = imageChars := by decide +kernel
  have code : checkCode imageChars = imageCode := by rw [checkCode, ← codeFrom_eq]; decide +kernel
  have check : checkAndFormatOk image = true := by
    rw [checkAndFormatOk, first.1, code]; decide +kernel
  refine ⟨whole, by rw [whole]; decide +kernel, code, ?_, by decide, ?_⟩
  · simp only [faultReason, check]; decide +kernel
  · simp only [faultReason, checkAndFormatOk, first.2, code]; decide +kernel

/-- R200: the settings it gives. -/
theorem test_image_settings : (settingsOf image).hoses.get .h6 = hoseOf .engineOil 6
    ∧ ((settingsOf image).hoses.get .h2).meterK = 2480
    ∧ (settingsOf image).zone = some 3 ∧ (settingsOf image).creepLimit = 500
    ∧ ((settingsOf image).spill.get .i2) = ⟨.vapour, true⟩
    ∧ (settingsOf image).probes.get .c1 = settings.probes.get .c1 := by decide +kernel

/-- A first power-on, and one with another image than the one recorded. -/
theorem witness_ColdStartGivesTheColdValues :
    (∃ (strap : Nat) (image img : List Byte), img = image.take 798 ∧ faultReason strap img = .none)
      ∧ ∃ (s : State) (strap : Nat) (image img : List Byte), img = image.take 798 ∧ faultReason strap img = .none
        ∧ s.unit.recordedCheck ≠ some (imageCheck img) :=
  ⟨⟨7, image, image, test_image_valid.1, test_image_valid.2.2.2.1⟩,
    ⟨State.reset, 7, image, image, test_image_valid.1, test_image_valid.2.2.2.1, nofun⟩⟩

/-- A memory without an image, and a valid one at an address of 48. -/
theorem witness_FaultyConfigurationHoldsTheStation :
    (∃ (strap : Nat) (image img : List Byte), img = image.take 798 ∧ faultReason strap img ≠ .none)
      ∧ ∃ img : List Byte, img = image.take 798 ∧ faultReason 48 img = .badAddress :=
  ⟨⟨7, [], _, rfl, by decide⟩, ⟨image, test_image_valid.1, test_image_valid.2.2.2.2.1⟩⟩

/-- A station that lost its power with hose 2's delivery, and without one. -/
def lost (r : Option Retained) (causes : CauseSet) : State := { State.reset with
  unit := { State.reset.unit with recordedCheck := some (imageCheck image) }
  retained := State.reset.retained.set .h2 r
  tripUnit := { State.reset.tripUnit with causes := causes, stampCounter := 41 } }

/-- A WARM start without a retained delivery, with and without a zone-wide cause, and with one. -/
theorem witness_WarmStartKeepsTheRetentionDomain :
    (∀ c ∈ [noCauses, { noCauses with sump := true }], ∃ (s : State) (img : List Byte) (z : Nat), s.unit.powered = false
      ∧ img = image.take 798 ∧ faultReason 7 img = .none ∧ s.unit.recordedCheck = some (imageCheck img)
      ∧ (∀ h, (s.hoses.get h).live = none) ∧ (∀ h, s.retained.get h = none) ∧ s.tripUnit.causes = c
      ∧ (settingsOf img).zone = some z)
      ∧ ∃ (s : State) (img : List Byte) (h : HoseIx) (r : Retained), s.unit.powered = false ∧ img = image.take 798
        ∧ faultReason 7 img = .none ∧ s.unit.recordedCheck = some (imageCheck img)
        ∧ (∀ h, (s.hoses.get h).live = none) ∧ s.retained.get h = some r ∧ (∀ g, g ≠ h → s.retained.get g = none)
        ∧ 0 < volume ((settingsOf img).hoses.get h).meterK r.net := by
  refine ⟨fun c _ => ⟨lost none c, image, 3, rfl, test_image_valid.1, test_image_valid.2.2.2.1, rfl, ?_, ?_, rfl, test_image_settings.2.2.1⟩,
    lost (some ⟨liveTwo, 1⟩) noCauses, image, .h2, ⟨liveTwo, 1⟩, rfl, test_image_valid.1, test_image_valid.2.2.2.1, rfl, ?_, rfl, ?_,
    by rw [test_image_settings.2.1]; decide⟩
  · intro h; cases h <;> rfl
  · intro h; cases h <;> rfl
  · intro h; cases h <;> rfl
  · intro g hg; cases g <;> first | rfl | exact absurd rfl hg

/-- A powered station with a live delivery, and an unpowered one at a command that is no power-on. -/
theorem witness_PowerLossKeepsTheRetentionDomain :
    (∃ (s : State) (h : HoseIx) (l : Live), s.unit.powered = true ∧ (s.hoses.get h).live = some l)
      ∧ ∃ (c : Instr) (s : State), s.unit.powered = false ∧ ∀ strap image held lost, c ≠ .powerOn strap image held lost :=
  ⟨⟨busy, .h2, liveTwo, rfl, rfl⟩, ⟨.creepWindowExpiry, State.reset, rfl, nofun⟩⟩

/-- The reply of a RESTART sent, with a live delivery of more than half a millilitre and a current episode. -/
theorem witness_RestartIsMadeAtItsReply :
    ∃ (s : State) (e : TxEntry) (h : HoseIx) (l : Live) (z stamp : Nat), s.unit.powered = true ∧ s.link.driver = .tail
      ∧ s.link.current = some e ∧ e.purpose = .restartReply ∧ (s.hoses.get h).live = some l
      ∧ (∀ g, g ≠ h → (s.hoses.get g).live = none) ∧ 0 < volume (s.hoseCfg h).meterK (s.meters.get h).net
      ∧ s.tripUnit.causes.zoneWide.any = true ∧ s.cfg.zone = some z ∧ s.tripUnit.episode = some stamp :=
  ⟨((endingTwo .trip 1 1).setTripUnit tripped.tripUnit).setLink { up.link with
      driver := .tail, ordinary := [⟨50, .identRep, [], 0, .startUnit, .restartReply, 1, .inTransmission, 0⟩] },
    _, .h2, _, 3, 42, rfl, rfl, rfl, rfl, rfl, by intro g hg; cases g <;> first | rfl | exact absurd rfl hg, by decide, rfl,
    rfl, rfl⟩

/-! ### Replies -/

/-- A reply with five and with six frames queued (of any purpose); CONFIG_FAULT and refusals of kinds 31 to 34; a zone; hoses in ENDING,
DONE, REFUSED and OUT_OF_SERVICE; used and unused positions of a book, a pump and a probe with and without a history; a
full origin list; a record with a fill, a draw key and a window, and one without; a live delivery; a journal record and a
close at both ends of a DRAW's quantity and above it. -/
theorem witness_RepliesCarryTheirLayouts :
    (∀ n ∈ [5, 6], ∃ (s : State) (k : FrameKind), familyOf k = .reply ∧ s.inConfigFault = false
      ∧ s.link.ordinary.length = n)
      ∧ (∀ kind ∈ [31, 34, 255], ∃ s : State, s.inConfigFault = true ∧ kind ≠ 32 ∧ kind ≠ 33 ∧ kind < 256)
      ∧ (∀ kind ∈ [31, 32, 33, 255], ∃ s : State, (s.inConfigFault = false ∨ kind = 32 ∨ kind = 33) ∧ kind < 256
        ∧ s.link.ordinary.length = 5)
      ∧ (∃ (s : State) (z : Nat), s.cfg.zone = some z)
      ∧ (∃ (s : State) (h : HoseIx) (l : Live) (r : EndReason), (s.hoses.get h).state = .ending
        ∧ (s.hoses.get h).live = some l ∧ l.endReason = some r)
      ∧ (∀ st ∈ [HoseState.done .preset, .refused .noTag, .outOfService .meter, .idle, .waiting, .priming, .flowing,
        .trimming], ∃ (s : State) (h : HoseIx), (s.hoses.get h).state = st)
      ∧ (∃ (s : State) (i j : BookIx), (s.cfg.books.get i).tank = 0 ∧ (s.cfg.books.get j).tank ≠ 0)
      ∧ (∃ (s : State) (p q : PumpIx), s.cfg.pumpTanks.get p = 0 ∧ s.cfg.pumpTanks.get q ≠ 0)
      ∧ (∀ hs ∈ [[], [1230]], ∃ (s : State) (c d : ProbeIx), (s.cfg.probes.get c).tank = 0
        ∧ (s.cfg.probes.get d).tank ≠ 0 ∧ (s.probes.get d).history = hs)
      ∧ (∃ s : State, (s.tripUnit.origins[7]?).isSome ∧ (s.tripUnit.origins[8 + 7]?).isSome)
      ∧ (∃ (r : MachineRecord) (f : Fill) (q : Key) (w : ServiceWindow), r.lastFill = some f ∧ r.lastDraw = some q
        ∧ r.windows[0]? = some w)
      ∧ (∃ r : MachineRecord, r.lastFill = none ∧ r.lastDraw = none)
      ∧ (∃ (s : State) (h g : HoseIx), liveState (s.hoses.get h).state = true ∧ liveState (s.hoses.get g).state = false
        ∧ volume (s.hoseCfg h).meterK (s.meters.get h).net ≤ 4294967295)
      ∧ (∀ q ∈ [1, 4294967295, 4294967296], ∃ r : DeliveryRecord, r.quantity = q)
      ∧ ∀ q ∈ [1, 4294967295, 4294967296], ∀ hours ∈ [none, some 0, some 999999], ∃ (c : Closed) (n : Nat),
        n = 4294967295 ∧ 1 ≤ c.tank ∧ c.tank ≤ 64 ∧ 1 ≤ c.machine ∧ c.machine ≤ 16777214 ∧ c.hours = hours
          ∧ (∀ x, c.hours = some x → x ≤ 999999) ∧ 0 < c.quantity ∧ c.quantity = q := by
  refine ⟨fun n _ => ⟨up.setLink { up.link with ordinary := List.replicate n (queuedDraw 1 .fresh) }, .statusRep, rfl, rfl,
      List.length_replicate⟩, ?_, ?_, ⟨up, 3, rfl⟩, ⟨endingTwo .preset 0 0, .h2, _, .preset, rfl, rfl, rfl⟩,
    fun st _ => ⟨up.setHose .h1 (restHose st none), .h1, rfl⟩, ⟨up, .b4, .b1, rfl, by decide⟩,
    ⟨up, .p3, .p1, rfl, by decide⟩, fun hs _ => ⟨up.setProbe .c1 ⟨.tracking, hs, false, none⟩, .c2, .c1, rfl,
      show 9 ≠ 0 by decide, rfl⟩,
    ⟨heardOver (originsOf 16) [], by decide, by decide⟩,
    ⟨{ truck with lastDraw := some ⟨12, 884⟩ }, _, _, _, rfl, rfl, rfl⟩, ⟨{ truck with lastFill := none }, rfl, rfl⟩,
    ⟨endingTwo .preset 0 0, .h2, .h1, rfl, rfl, by decide⟩, fun q _ => ⟨recordOf ⟨.h3, 40117, none, .diesel, 5, 5000, q, .preset,
      noFlags, 0, 0⟩ noFlags up, rfl⟩, fun q hq hours hh => ⟨⟨.h3, 16777214, hours, .diesel, 64, 5000, q, .preset, noFlags, 0, 0⟩,
      _, rfl, show 1 ≤ 64 by decide, show 64 ≤ 64 by decide, show 1 ≤ 16777214 by decide,
      show 16777214 ≤ 16777214 by decide, rfl, fun x e => ?_, ?_, rfl⟩⟩
  rotate_left 2
  · cases e; simp only [List.mem_cons, List.not_mem_nil, or_false, reduceCtorEq, false_or, Option.some.injEq] at hh; omega
  · simp only [List.mem_cons, List.not_mem_nil, or_false] at hq; show 0 < q; omega
  all_goals
    intro kind hk
    simp only [List.mem_cons, List.not_mem_nil, or_false] at hk
  · exact ⟨up.setLink { up.link with join := .configFault }, rfl, by omega, by omega, by omega⟩
  · exact ⟨up.setLink { up.link with ordinary := List.replicate 5 (queuedDraw 1 .fresh) }, .inl rfl, by omega, rfl⟩

end Sys2Proof.Tests
end

section
/-! SUPPORT. Checks 4 and 5 of a claim (R63 to R68): what each answers in each of its cases, and the allowance given. -/

namespace Sys2Proof.Machine

/-! ### Check 4 -/

theorem lookup_of_active {a : Accounts} {machine : Nat} {p : Product} {r : MachineRecord}
    (hr : a.find machine = some r) (hs : r.suspended = false) : lookup a machine p = .given (.record r) := by
  simp [lookup, hr, hs]

theorem lookup_of_permit {a : Accounts} {machine : Nat} {p : Product} {q : Permit} (hq : a.findPermit machine p = some q)
    (hs : ∀ r, a.find machine = some r → r.suspended = true) : lookup a machine p = .given (.permit q) := by
  cases hr : a.find machine with
  | none => simp [lookup, hr, hq]
  | some r => simp [lookup, hr, hq, hs r hr]

theorem lookup_of_unknown {a : Accounts} {machine : Nat} {p : Product} (hq : a.findPermit machine p = none)
    (hr : a.find machine = none) : lookup a machine p = .refused .unknownMachine := by
  simp [lookup, hq, hr]

theorem lookup_of_suspended {a : Accounts} {machine : Nat} {p : Product} {r : MachineRecord}
    (hq : a.findPermit machine p = none) (hr : a.find machine = some r) (hs : r.suspended = true) :
    lookup a machine p = .refused .suspended := by
  simp [lookup, hq, hr, hs]

/-! ### The allowance of a record (R67, R68) -/

theorem recordAllowance_firstFill {r : MachineRecord} {c : HoseSetting} (dF : Nat) (hp : c.product = .diesel)
    (hf : r.lastFill = none) : recordAllowance r c dF = r.perFillMax := by
  simp [recordAllowance, fuelAllowance, hp, hf]

theorem recordAllowance_laterFill {r : MachineRecord} {c : HoseSetting} {f : Fill} (dF : Nat) (hp : c.product = .diesel)
    (hf : r.lastFill = some f) : recordAllowance r c dF = min r.perFillMax (r.slack + r.burnCeiling * dF) := by
  simp [recordAllowance, fuelAllowance, hp, hf]

theorem recordAllowance_lube {r : MachineRecord} {c : HoseSetting} (dF : Nat) (hp : c.product ≠ .diesel) :
    recordAllowance r c dF = ((r.window c.product).map fun w => w.quantity).getD c.topUpLimit := by
  unfold recordAllowance
  split
  · contradiction
  · cases r.window c.product <;> rfl

/-! ### Check 5: one equation for each of its cases (R64 to R66) -/

section HoursCheck
variable {cfg : Settings} {c : HoseSetting} {r : MachineRecord} {l h : Nat}

theorem hoursCheck_noHours : hoursCheck cfg c r none = ⟨r, .given (recordAllowance r c 0,
    if r.lastHours = none then { noFlags with noHistory := true } else noFlags)⟩ := by
  cases hl : r.lastHours <;> simp [hoursCheck, hl]

theorem hoursCheck_noHistory (hl : r.lastHours = none) : hoursCheck cfg c r (some h)
    = ⟨r, .given (recordAllowance r c (fillDistance r h), { noFlags with noHistory := true })⟩ := by
  simp [hoursCheck, hl]

theorem hoursCheck_withinStep (hl : r.lastHours = some l) (hs : hoursForward l h ≤ cfg.maxHourStep) :
    hoursCheck cfg c r (some h) = ⟨r, .given (recordAllowance r c (fillDistance r h), noFlags)⟩ := by
  simp [hoursCheck, hl, hs]

theorem hoursCheck_back (hl : r.lastHours = some l) (hs : cfg.maxHourStep < hoursForward l h)
    (hb : hoursForward h l ≤ cfg.backTolerance) : hoursCheck cfg c r (some h)
      = ⟨{ r with anomalies := { r.anomalies with hoursBack := anomalyUp r.anomalies.hoursBack } },
          .given (recordAllowance r c 0, { noFlags with hoursBack := true })⟩ := by
  simp [hoursCheck, hl, hs.not_ge, hb]

theorem hoursCheck_jump (hl : r.lastHours = some l) (hs : cfg.maxHourStep < hoursForward l h)
    (hb : cfg.backTolerance < hoursForward h l) : hoursCheck cfg c r (some h)
      = ⟨{ r with anomalies := { r.anomalies with hourJump := anomalyUp r.anomalies.hourJump } },
          if r.cls = .priority then .given (r.slack, { noFlags with hoursJump := true }) else .refused .hoursJump⟩ := by
  by_cases hc : r.cls = .priority <;> simp [hoursCheck, hl, hs.not_ge, hb.not_ge, hc]

end HoursCheck

/-! ### The allowance check 5 gives -/

/-- The distance R67 weighs the allowance with: from the last fill to the reading, and 0 for a claim without hours or
accepted with HOURS_BACK. -/
def claimDistance (r : MachineRecord) (hours : Option Nat) (back : Bool) : Nat :=
  match hours with
  | some h => if back then 0 else fillDistance r h
  | none => 0

theorem claimDistance_reading {r : MachineRecord} {f : Fill} (h : Nat) (back : Bool) (hf : r.lastFill = some f) :
    claimDistance r (some h) back = if back then 0 else hoursForward f.hours h := by
  simp only [claimDistance, fillDistance, hf]

/-- Only a PRIORITY machine's jump is given another allowance than the record's, and that answer bears HOURS_JUMP. -/
theorem hoursCheck_allowance {cfg : Settings} {c : HoseSetting} {r : MachineRecord} {hours : Option Nat} {a : Nat}
    {fl : RecordFlags} (hg : (hoursCheck cfg c r hours).answer = .given (a, fl)) (hj : fl.hoursJump = false) :
    a = recordAllowance r c (claimDistance r hours fl.hoursBack) := by
  cases hours with
  | none =>
    rw [hoursCheck_noHours] at hg
    cases hg
    rfl
  | some h =>
    cases hl : r.lastHours with
    | none =>
      rw [hoursCheck_noHistory hl] at hg
      cases hg
      rfl
    | some l =>
      rcases le_or_gt (hoursForward l h) cfg.maxHourStep with hs | hs
      · rw [hoursCheck_withinStep hl hs] at hg
        cases hg
        rfl
      rcases le_or_gt (hoursForward h l) cfg.backTolerance with hb | hb
      · rw [hoursCheck_back hl hs hb] at hg
        cases hg
        rfl
      · rw [hoursCheck_jump hl hs hb] at hg
        by_cases hc : r.cls = .priority
        · simp only [hc, if_true] at hg
          cases hg
          cases hj
        · simp only [hc, if_false] at hg
          cases hg

/-- Settles O32: check 4 by its three finds, check 5 by its equation in each case, the allowance by
`hoursCheck_allowance`. -/
theorem accountChecksDecideTheClaim : Obligations.AccountChecksDecideTheClaim := by
  unfold Obligations.AccountChecksDecideTheClaim
  refine ⟨fun a machine p => ⟨fun r => lookup_of_active, fun q => lookup_of_permit,
      fun hq => ⟨lookup_of_unknown hq, fun r => lookup_of_suspended hq⟩⟩,
    fun cfg c r => ?noHours,
    fun cfg c r h => ⟨fun hl => ?noHistory,
      fun l hl => ⟨fun hs => ?withinStep, fun hs => ⟨fun hb => ?back, fun hb => ?jump⟩⟩⟩,
    fun cfg c r hours a fl hg hj => ?allowance⟩
  case noHours => rw [hoursCheck_noHours]; exact ⟨rfl, _, rfl⟩
  case noHistory => rw [hoursCheck_noHistory hl]; exact ⟨rfl, _, rfl⟩
  case withinStep => rw [hoursCheck_withinStep hl hs]; exact ⟨rfl, _, rfl⟩
  case back => rw [hoursCheck_back hl hs hb]; exact ⟨rfl, _, rfl⟩
  case jump => rw [hoursCheck_jump hl hs hb]; exact ⟨rfl, rfl⟩
  case allowance =>
    rw [hoursCheck_allowance hg hj]
    refine ⟨recordAllowance_firstFill _, fun f hp hf => ?_, recordAllowance_lube _⟩
    rw [recordAllowance_laterFill _ hp hf]
    cases hours with
    | none => rfl
    | some h => rw [claimDistance_reading h _ hf]; rfl

end Sys2Proof.Machine
end

section
/-! SUPPORT. The conversion of a gate count (R105), and what a scan does to the history of its channel (R106 to R108). -/

namespace Sys2Proof.Machine

/-! ### The conversion of a count (R105) -/

/-- The conversion without its signed intermediate: the truncated difference is the clamp to 0. -/
theorem heightOf_eq {c : ProbeSetting} (count : Nat) (hc : c.countEmpty < c.countFull) :
    heightOf c count = min c.span ((count - c.countEmpty) * c.span / (c.countFull - c.countEmpty)) := by
  have hd : (c.countFull : Int) - c.countEmpty = ((c.countFull - c.countEmpty : Nat) : Int) := by omega
  unfold heightOf
  rw [hd]
  rcases le_total c.countEmpty count with h | h
  · have hn : (count : Int) - c.countEmpty = ((count - c.countEmpty : Nat) : Int) := by omega
    rw [hn]
    norm_cast
  · have hq : ((count : Int) - c.countEmpty) * c.span / ((c.countFull - c.countEmpty : Nat) : Int) ≤ 0 := by
      have hn : ((count : Int) - c.countEmpty) * c.span ≤ 0 :=
        mul_nonpos_of_nonpos_of_nonneg (by omega) (by omega)
      exact Int.ediv_nonpos_of_nonpos_of_neg hn (by omega)
    rw [Nat.sub_eq_zero_of_le h, Nat.zero_mul, Nat.zero_div]
    omega

theorem heightOf_belowEmpty {c : ProbeSetting} {count : Nat} (hc : c.countEmpty < c.countFull)
    (h : count < c.countEmpty) : heightOf c count = 0 := by
  rw [heightOf_eq count hc, Nat.sub_eq_zero_of_le h.le, Nat.zero_mul, Nat.zero_div, Nat.min_zero]

theorem heightOf_aboveFull {c : ProbeSetting} {count : Nat} (hc : c.countEmpty < c.countFull)
    (h : c.countFull ≤ count) : heightOf c count = c.span := by
  rw [heightOf_eq count hc]
  refine min_eq_left ((Nat.le_div_iff_mul_le (Nat.sub_pos_of_lt hc)).mpr ?_)
  rw [Nat.mul_comm]
  exact Nat.mul_le_mul_right _ (Nat.sub_le_sub_right h _)

/-- Between the two calibration counts the quotient is at most the span, and no clamp acts. -/
theorem heightOf_between {c : ProbeSetting} {count : Nat} (hc : c.countEmpty < c.countFull)
    (h : count < c.countFull) :
    heightOf c count = (count - c.countEmpty) * c.span / (c.countFull - c.countEmpty) := by
  rw [heightOf_eq count hc]
  refine min_eq_right (Nat.div_le_of_le_mul (Nat.mul_le_mul_right _ ?_))
  omega

/-! ### The histories (R106) -/

theorem appendHeight_getLast? (hs : List Nat) (h : Nat) : (appendHeight hs h).getLast? = some h := by
  simp [appendHeight]

theorem overfillTest_history (c d : ProbeIx) (height : Nat) (s : State) :
    ((overfillTest c height s).probes.get d).history = (s.probes.get d).history := by
  have kept (b : Bool) : ((s.setProbe c { s.probes.get c with overfill := b }).probes.get d).history
      = (s.probes.get d).history := by
    by_cases e : d = c <;> simp [e]
  unfold overfillTest
  dsimp only
  split
  · rw [show (raise .overfill _).probes = _ from raise_frame _ _ .probes (by decide)]
    exact kept true
  · exact kept false

/-- A tracking scan gauges, watches and reports; the history it reports from stays. -/
theorem trackingScan_history (c d : ProbeIx) (s : State) :
    ((trackingScan c s).probes.get d).history = (s.probes.get d).history := by
  unfold trackingScan
  dsimp only
  rw [show (handOver _ _).probes = _ from handOver_frame _ _ .probes (by decide), overfillTest_history,
    show (deadLevelWatch _ _).probes = _ from deadLevelWatch_frame _ _ .probes (by decide),
    show (bookLevel _ _ s).probes = _ from bookLevel_frame _ _ s .probes (by decide)]

/-! ### A scan by the count and the probe state (R107) -/

theorem within_eq_true {lo hi v : Nat} : within lo hi v = true ↔ lo ≤ v ∧ v ≤ hi := by simp [within]

theorem within_eq_false {lo hi v : Nat} : within lo hi v = false ↔ v < lo ∨ hi < v := by
  rw [Bool.eq_false_iff, ne_eq, within_eq_true]
  omega

section Scan
variable {s : State} {c : ProbeIx} {count : Nat}

theorem scan_outOfWindow (hw : within (s.cfg.probes.get c).lower (s.cfg.probes.get c).upper count = false) :
    scan c count s = s.setProbe c { s.probes.get c with state := .fault, history := [], gate := none } := by
  simp [scan, hw]

theorem scan_fault (hw : within (s.cfg.probes.get c).lower (s.cfg.probes.get c).upper count = true)
    (hp : (s.probes.get c).state = .fault) :
    scan c count s = s.setProbe c { s.probes.get c with
      state := .acquiring, history := [heightOf (s.cfg.probes.get c) count], gate := none } := by
  simp [scan, hw, hp]

theorem scan_tracking (hw : within (s.cfg.probes.get c).lower (s.cfg.probes.get c).upper count = true)
    (hp : (s.probes.get c).state = .tracking) :
    scan c count s = trackingScan c (s.setProbe c { s.probes.get c with
      history := appendHeight (s.probes.get c).history (heightOf (s.cfg.probes.get c) count), gate := none }) := by
  simp [scan, hw, hp]

theorem scan_settled (hw : within (s.cfg.probes.get c).lower (s.cfg.probes.get c).upper count = true)
    (hp : (s.probes.get c).state = .acquiring)
    (hs : settledHistory (appendHeight (s.probes.get c).history (heightOf (s.cfg.probes.get c) count))
      (s.cfg.probes.get c).settleBand = true) :
    scan c count s = trackingScan c (s.setProbe c { s.probes.get c with
      state := .tracking
      history := appendHeight (s.probes.get c).history (heightOf (s.cfg.probes.get c) count), gate := none }) := by
  simp [scan, hw, hp, hs]

theorem scan_unsettled (hw : within (s.cfg.probes.get c).lower (s.cfg.probes.get c).upper count = true)
    (hp : (s.probes.get c).state = .acquiring)
    (hs : settledHistory (appendHeight (s.probes.get c).history (heightOf (s.cfg.probes.get c) count))
      (s.cfg.probes.get c).settleBand = false) :
    scan c count s = s.setProbe c { s.probes.get c with
      history := appendHeight (s.probes.get c).history (heightOf (s.cfg.probes.get c) count), gate := none } := by
  simp [scan, hw, hp, hs]

/-- In every probe state the height of an in-window count is the newest of the history. -/
theorem scan_newest (hw : within (s.cfg.probes.get c).lower (s.cfg.probes.get c).upper count = true) :
    ((scan c count s).probes.get c).history.getLast? = some (heightOf (s.cfg.probes.get c) count) := by
  cases hp : (s.probes.get c).state with
  | fault => simp [scan_fault hw hp]
  | tracking => simp [scan_tracking hw hp, trackingScan_history, appendHeight_getLast?]
  | acquiring =>
    cases hs : settledHistory (appendHeight (s.probes.get c).history (heightOf (s.cfg.probes.get c) count))
        (s.cfg.probes.get c).settleBand with
    | true => simp [scan_settled hw hp hs, trackingScan_history, appendHeight_getLast?]
    | false => simp [scan_unsettled hw hp hs, appendHeight_getLast?]

/-- The gate of a used channel that closes at its gate time makes the scan (R104, R113). -/
theorem exec_probeGateClose_due {n : Nat} (hu : s.unit.powered = true) (hf : s.inConfigFault = false)
    (hg : (s.probes.get c).gate = some n) (hn : (s.cfg.probes.get c).gateMs ≤ n)
    (ht : (s.cfg.probes.get c).tank ≠ 0) : exec (.probeGateClose c count) s = .next (scan c count s) := by
  show execProbeGateClose c count s = _
  simp [execProbeGateClose, whenPowered_on hu, hg, hn, hf, State.probeUsed, ht]

end Scan

/-- Settles O37: the conversion by `heightOf_eq`, each move of the channel by the scan's equation in that case. -/
theorem gateClosesMoveTheProbe : Obligations.GateClosesMoveTheProbe := by
  unfold Obligations.GateClosesMoveTheProbe
  refine ⟨fun c count hc => ⟨heightOf_belowEmpty hc, heightOf_aboveFull hc, fun _ hlt => ?floored⟩, ?closes⟩
  case floored =>
    rw [heightOf_between hc hlt, Nat.add_mul, Nat.one_mul]
    exact ⟨Nat.div_mul_le_self _ _, Nat.lt_div_mul_add (Nat.sub_pos_of_lt hc)⟩
  case closes =>
    rintro s c count h n hu hf hg hn ht rfl
    rw [exec_probeGateClose_due hu hf hg hn ht]
    refine ⟨fun hout => ?outOfWindow, fun hlo hhi => ?inWindow⟩
    case outOfWindow => rw [scan_outOfWindow (within_eq_false.mpr hout)]
    case inWindow =>
      have hw := within_eq_true.mpr ⟨hlo, hhi⟩
      refine ⟨⟨_, exec_probeGateClose_due hu hf hg hn ht, scan_newest hw⟩, fun hp => ?_, fun hp hs => ?_⟩
      · rw [scan_fault hw hp]
      · rw [scan_unsettled hw hp hs]
        rfl

end Sys2Proof.Machine
end

section
/-! SUPPORT. What each command's own operations leave unchanged: the frames of the layer between the shared operations
and the commands. -/

namespace Sys2Proof.Machine

/-! ### Metering -/

theorem seeMotion_frame (h : HoseIx) (s : State) : sameOutside [.meters, .hoses] s (seeMotion h s) :=
  (restartQuiet_frame h s).then (setHose_frame _ _ _) rfl rfl

theorem setChoices_frame (s : State) (n : Nat) : sameOutside [.choices] s { s with choices := n } := by
  intro p hp
  cases p <;> first | rfl | exact ⟨rfl, rfl⟩ | exact absurd (by decide) hp

theorem afterLiveStep_frame (h : HoseIx) (s : State) : sameOutside (.choices :: closing) s (afterLiveStep h s) := by
  have ends (r : EndReason) (tank : Nat) (t : State) : sameOutside closing t (deadLevelWatch tank (endingRequest h r t)) :=
    (endingRequest_frame h r t).trans (deadLevelWatch_frame tank _)
  unfold afterLiveStep
  dsimp only
  split
  · exact .refl _ _
  · refine .ite (.ite ?_ ?_) (.ite ?_ ?_)
    · exact (setChoices_frame s _).then (ends _ _ _) rfl rfl
    · exact (ends _ _ s).mono rfl
    · exact (moveHose_frame h .trimming s).then (deadLevelWatch_frame _ _) rfl rfl
    · exact (deadLevelWatch_frame _ s).mono rfl

theorem creepStep_frame (h : HoseIx) (forward : Bool) (s : State) : sameOutside raising s (creepStep h forward s) :=
  .ite ((setMeter_frame s h _).then (raise_frame _ _) rfl rfl) ((setMeter_frame s h _).mono rfl)

theorem takeStep_frame (h : HoseIx) (forward : Bool) (s : State) :
    sameOutside (.tripUnit :: .choices :: closing) s (takeStep h forward s) := by
  have m (m : Meter) : sameOutside [.meters] s (s.setMeter h m) := setMeter_frame s h m
  unfold takeStep
  dsimp only
  split
  · exact ((m _).trans (setMeter_frame _ h _)).then (afterLiveStep_frame h _) rfl rfl
  · exact (m _).then (creepStep_frame h forward _) rfl rfl

theorem takeInvalid_frame (h : HoseIx) (s : State) : sameOutside closing s (takeInvalid h s) :=
  .ite ((setMeter_frame s h _).then (meterFault_frame h _) rfl rfl) ((setMeter_frame s h _).mono rfl)

theorem takeMove_frame (h : HoseIx) (m : PhaseMove) (s : State) :
    sameOutside (.tripUnit :: .choices :: closing) s (takeMove h m s) := by
  cases m with
  | none => exact .refl _ _
  | forward => exact (seeMotion_frame h s).then (takeStep_frame h true _) rfl rfl
  | reverse => exact (seeMotion_frame h s).then (takeStep_frame h false _) rfl rfl
  | invalid => exact (seeMotion_frame h s).then (takeInvalid_frame h _) rfl rfl

theorem phaseChange_frame (h : HoseIx) (la : Bool) (ha : Nat) (lb : Bool) (hb : Nat) (s : State) :
    sameOutside (.tripUnit :: .choices :: closing) s (phaseChange h la ha lb hb s) := by
  unfold phaseChange
  dsimp only
  split
  · exact .refl _ _
  · split
    · exact (setMeter_frame s h _).then (takeMove_frame h _ _) rfl rfl
    · exact (setMeter_frame s h _).mono rfl

theorem clearCreep_frame (s : State) : sameOutside [.meters] s (clearCreep s) := by
  intro p hp
  cases p <;> first | rfl | exact ⟨rfl, rfl⟩ | exact absurd (by decide) hp

theorem restartCreepWindow_frame (s : State) :
    sameOutside [.creepTimer, .meters] s (clearCreep { s with creepTimer := 0 }) := by
  intro p hp
  cases p <;> first | rfl | exact ⟨rfl, rfl⟩ | exact absurd (by decide) hp

theorem closeRateWindow_frame (h : HoseIx) (s : State) : sameOutside [.meters] s (closeRateWindow h s) :=
  setMeter_frame s h _

theorem takeRate_frame (h : HoseIx) (s : State) : sameOutside raising s (takeRate h s) :=
  .ite ((closeRateWindow_frame h s).then (raise_frame _ _) rfl rfl) ((closeRateWindow_frame h s).mono rfl)

theorem stopFlowPast_frame (h : HoseIx) (s : State) : sameOutside [.valves] s (stopFlowPast h s) :=
  setValve_frame s h _

/-! ### Driving -/

theorem startPeriod_frame (h : HoseIx) (s : State) : sameOutside [.valves] s (startPeriod h s) :=
  .ite (.refl _ _) (setValve_frame s h _)

theorem takeValveProof_frame (h : HoseIx) (closed : Bool) (s : State) :
    sameOutside raising s (takeValveProof h closed s) :=
  .ite (.refl _ _) (.ite ((setValve_frame s h _).mono rfl) ((setValve_frame s h _).then (checkStuck_frame h _) rfl rfl))

theorem runPump_frame (p : PumpIx) (s : State) : sameOutside closing s (runPump p s) :=
  (setPump_frame s p _).then (.foldl (fun h t => exitPriming_frame h t) _ _) rfl rfl

/-! ### Deliveries -/

theorem lift_frame (h : HoseIx) (s : State) : sameOutside moving s (lift h s) := by
  unfold lift
  split
  · exact .ite (.refl _ _) (moveHose_frame h _ s)
  · exact .refl _ _

theorem hang_frame (h : HoseIx) (s : State) : sameOutside closing s (hang h s) := by
  unfold hang
  refine .ite (.refl _ _) ?_
  split
  case h_2 | h_3 | h_4 => exact endingRequest_frame h _ s
  case h_1 | h_5 | h_6 => exact (moveHose_frame h _ s).mono rfl
  case h_7 | h_8 | h_9 => exact .refl _ _

theorem firstHook_frame (h : HoseIx) (s : State) : sameOutside moving s (firstHook h s) := by
  unfold firstHook
  split
  · exact .ite (.refl _ _) (moveHose_frame h _ s)
  · exact .refl _ _

theorem takeHook_frame (h : HoseIx) (level : Hook) (s : State) : sameOutside closing s (takeHook h level s) := by
  have x (y : Hose) : sameOutside [.hoses] s (s.setHose h y) := setHose_frame s h y
  unfold takeHook
  dsimp only
  split
  · exact (x _).then (firstHook_frame h _) rfl rfl
  · exact (x _).then (lift_frame h _) rfl rfl
  · exact (x _).then (hang_frame h _) rfl rfl
  · exact .refl _ _
  · exact .refl _ _

theorem refuseClaim_frame (h : HoseIx) (r : RefusalReason) (s : State) : sameOutside moving s (refuseClaim h r s) :=
  moveHose_frame h _ s

theorem acceptClaim_frame (h : HoseIx) (machine : Nat) (hours : Option Nat) (v : Service) (limit : Nat)
    (fl : RecordFlags) (s : State) : sameOutside closing s (acceptClaim h machine hours v limit fl s) := by
  have j : sameOutside [.journal] s (s.setJournal { s.journal with reserved := s.journal.reserved + 1 }) :=
    setRecords_frame s _ rfl
  have entered (t : State) (m : Meter) (x : Hose) :
      sameOutside moving t (moveHose h .priming ((t.setMeter h m).setHose h x)) :=
    ((setMeter_frame t h m).then (setHose_frame _ h x) (rs := moving) rfl rfl).trans (moveHose_frame h _ _)
  have left (t : State) (o : Option PumpIx) : sameOutside closing t (match o with
      | some p => if (t.pumps.get p).state = .running then exitPriming h t else t
      | none => t) := by
    cases o with
    | none => exact .refl _ _
    | some p => exact .ite (exitPriming_frame h t) (.refl _ _)
  unfold acceptClaim
  dsimp only
  refine sameOutside.trans ?_ (left _ _)
  cases v with
  | record r => exact j.then (entered _ _ _) rfl rfl
  | permit p => exact (j.then (removePermit_frame _ _ _) (rs := closing) rfl rfl).trans ((entered _ _ _).mono rfl)

theorem claimStock_frame (h : HoseIx) (machine : Nat) (hours : Option Nat) (v : Service) (b : Bool) (a : Nat)
    (fl : RecordFlags) (s : State) : sameOutside closing s (claimStock h machine hours v b a fl s) := by
  unfold claimStock
  dsimp only
  split
  · exact (refuseClaim_frame h _ s).mono rfl
  · exact .ite ((refuseClaim_frame h _ s).mono rfl)
      (.ite ((refuseClaim_frame h _ s).mono rfl) (acceptClaim_frame h _ _ _ _ _ s))

theorem claimAccount_frame (h : HoseIx) (machine : Nat) (hours : Option Nat) (s : State) :
    sameOutside closing s (claimAccount h machine hours s) := by
  unfold claimAccount
  dsimp only
  split
  · exact (refuseClaim_frame h _ s).mono rfl
  · exact claimStock_frame h _ _ _ _ _ _ s
  · rename_i r _
    refine sameOutside.trans ((putRecord_frame (hoursCheck s.cfg (s.hoseCfg h) r hours).record s).mono rfl) ?_
    split
    · exact (refuseClaim_frame h _ _).mono rfl
    · exact claimStock_frame h _ _ _ _ _ _ _

theorem claim_frame (h : HoseIx) (machine : Nat) (hours : Option Nat) (s : State) :
    sameOutside closing s (claim h machine hours s) :=
  .ite ((refuseClaim_frame h _ s).mono rfl) (.ite ((refuseClaim_frame h _ s).mono rfl)
    (.ite ((refuseClaim_frame h _ s).mono rfl) (claimAccount_frame h _ _ s)))

theorem refreshTag_frame (h : HoseIx) (machine : Nat) (s : State) : sameOutside [.hoses] s (refreshTag h machine s) :=
  .ite (setHose_frame s h _) (.refl _ _)

theorem takeTag_frame (h : HoseIx) (machine : Nat) (hours : Option Nat) (s : State) :
    sameOutside closing s (takeTag h machine hours s) := by
  unfold takeTag
  split
  case h_1 => exact claim_frame h _ _ s
  case h_5 => exact .refl _ _
  case h_2 | h_3 | h_4 => exact (refreshTag_frame h _ s).mono rfl

theorem loseTag_frame (h : HoseIx) (s : State) : sameOutside closing s (loseTag h s) :=
  .ite (endingRequest_frame h _ s) (.refl _ _)

theorem takeStopHose_frame (f : Frame) (s : State) : sameOutside closing s (takeStopHose f s) := by
  unfold takeStopHose
  split
  · split
    · exact .ite (endingRequest_frame _ _ s) ((refuse_frame _ _ _ _ s).mono rfl)
    · exact .refl _ _
  · exact .refl _ _

/-! ### Tanks -/

theorem takeLevel_frame (l : LevelBody) (s : State) : sameOutside (.gauging :: closing) s (takeLevel l s) :=
  .ite (.refl _ _) (.ite ((setGauging_frame s _).mono rfl)
    ((bookLevel_frame _ _ s).then (deadLevelWatch_frame _ _) rfl rfl))

theorem setProbes_frame (s : State) (ps : PerProbe Probe) : sameOutside [.probes] s { s with probes := ps } := by
  intro p hp
  cases p <;> first | rfl | exact ⟨rfl, rfl⟩ | exact absurd (by decide) hp

theorem startScans_frame (s : State) : sameOutside [.gauging, .probes] s (startScans s) :=
  .ite ((setGauging_frame s _).mono rfl) ((setGauging_frame s _).then (setProbes_frame _ _) rfl rfl)

theorem overfillTest_frame (c : ProbeIx) (n : Nat) (s : State) :
    sameOutside (.probes :: .tripUnit :: closing) s (overfillTest c n s) :=
  .ite ((setProbe_frame s c _).then (raise_frame _ _) rfl rfl) ((setProbe_frame s c _).mono rfl)

theorem trackingScan_frame (c : ProbeIx) (s : State) :
    sameOutside (.probes :: .tripUnit :: closing) s (trackingScan c s) := by
  have watched (tank v : Nat) : sameOutside closing s (deadLevelWatch tank (bookLevel tank v s)) :=
    (bookLevel_frame _ _ s).then (deadLevelWatch_frame _ _) rfl rfl
  exact ((watched _ _).then (overfillTest_frame c _ _) rfl rfl).trans ((handOver_frame _ _).mono rfl)

theorem scan_frame (c : ProbeIx) (n : Nat) (s : State) :
    sameOutside (.probes :: .tripUnit :: closing) s (scan c n s) := by
  have kept (p : Probe) : sameOutside (.probes :: .tripUnit :: closing) s (s.setProbe c p) :=
    (setProbe_frame s c p).mono rfl
  have tracked (p : Probe) : sameOutside (.probes :: .tripUnit :: closing) s (trackingScan c (s.setProbe c p)) :=
    (kept p).trans (trackingScan_frame c _)
  unfold scan
  dsimp only
  refine .ite ?_ (kept _)
  split
  · exact kept _
  · exact tracked _
  · exact .ite (tracked _) (kept _)

/-! ### The trip unit -/

theorem confirmInput_frame (i : InputIx) (b : Bool) (s : State) : sameOutside raising s (confirmInput i b s) := by
  unfold confirmInput
  dsimp only
  split
  · exact .refl _ _
  · exact .ite ((setTripUnit_frame s _).then (raise_frame _ _) rfl rfl) ((setTripUnit_frame s _).mono rfl)

theorem takeButton_frame (b : Bool) (s : State) : sameOutside raising s (takeButton b s) :=
  .ite ((setTripUnit_frame s _).then (raise_frame _ _) rfl rfl) ((setTripUnit_frame s _).mono rfl)

theorem returnToService_frame (h : HoseIx) (s : State) : sameOutside moving s (returnToService h s) := by
  unfold returnToService
  split
  · exact .ite (((setMeter_frame s h _).mono rfl).trans (moveHose_frame h _ _)) (.refl _ _)
  · exact .refl _ _

theorem resetPump_frame (p : PumpIx) (s : State) : sameOutside [.pumps] s (resetPump p s) :=
  .ite (coolPump_frame p s) (.refl _ _)

theorem endEpisode_frame (s : State) : sameOutside (.tripUnit :: handing) s (endEpisode s) := by
  unfold endEpisode
  dsimp only
  split
  · exact .refl _ _
  · exact .ite ((setTripUnit_frame s _).then (handOver_frame _ _) rfl rfl) ((setTripUnit_frame s _).mono rfl)

theorem removeCauses_frame (s : State) : sameOutside (.tripUnit :: .meters :: handing) s (removeCauses s) := by
  have kept : sameOutside [.tripUnit, .meters] s (clearCreep (s.setTripUnit { s.tripUnit with causes := s.causesKept })) :=
    (setTripUnit_frame s _).then (clearCreep_frame _) rfl rfl
  exact .ite (kept.then (endEpisode_frame _) rfl rfl) (kept.mono rfl)

theorem keyOperation_frame (s : State) : sameOutside raising s (keyOperation s) := by
  have hoses : sameOutside raising s (HoseIx.all.foldl (fun s h => returnToService h s) s) :=
    .foldl (fun h t => (returnToService_frame h t).mono rfl) _ _
  have pumps (t : State) : sameOutside raising t (PumpIx.all.foldl (fun s p => resetPump p s) t) :=
    .foldl (fun p t => (resetPump_frame p t).mono rfl) _ _
  exact ((hoses.trans (pumps _)).trans (withZone_frame _ ((removeCauses_frame _).mono rfl))).trans
    ((setTripUnit_frame _ _).mono rfl)

theorem takeReset_frame (s : State) : sameOutside raising s (takeReset s) := by
  unfold takeReset
  dsimp only
  split
  · exact (setTripUnit_frame s _).mono rfl
  · exact (setTripUnit_frame s _).then (keyOperation_frame _) rfl rfl
  · exact .refl _ _

theorem takeTrip_frame (f : Frame) (s : State) : sameOutside raising s (takeTrip f s) := by
  unfold takeTrip
  split
  · exact .ite (withZone_frame _ ((enterOrigin_frame _ _).mono rfl)) (.refl _ _)
  · exact .refl _ _

theorem takeClear_frame (f : Frame) (s : State) : sameOutside raising s (takeClear f s) := by
  unfold takeClear
  split
  · exact .ite (withZone_frame _ ((dropOrigins_frame _ _).mono rfl)) (.refl _ _)
  · exact .refl _ _

theorem takeBeacon_frame (f : Frame) (s : State) : sameOutside raising s (takeBeacon f s) := by
  unfold takeBeacon
  split
  · exact .ite (withZone_frame _ ((enterOrigin_frame _ _).mono rfl)) (withZone_frame _ ((dropOrigins_frame _ _).mono rfl))
  · exact .refl _ _

/-! ### Peers and the office -/

theorem hearPeer_frame (f : Frame) (s : State) : sameOutside [.peers, .counts] s (hearPeer f s) := by
  unfold hearPeer
  dsimp only
  refine .ite ((setPeers_frame s _).mono rfl) (.ite ((setPeers_frame s _).mono rfl) ?_)
  split
  · exact (setPeers_frame s _).mono rfl
  · exact (setCounts_frame s _).mono rfl

theorem setBeaconTimer_frame (s : State) (n : Nat) : sameOutside [.beaconTimer] s { s with beaconTimer := n } := by
  intro p hp
  cases p <;> first | rfl | exact ⟨rfl, rfl⟩ | exact absurd (by decide) hp

theorem sendBeacon_frame (s : State) : sameOutside (.beaconTimer :: replying) s (sendBeacon s) := by
  have timer : sameOutside [.beaconTimer] s { s with beaconTimer := 0 } := setBeaconTimer_frame s 0
  unfold sendBeacon
  dsimp only
  split
  · exact timer.mono rfl
  · exact timer.then (handOver_frame _ _) rfl rfl

theorem takeAccountRead_frame (f : Frame) (b : AccountReadBody) (s : State) :
    sameOutside handing s (takeAccountRead f b s) := by
  unfold takeAccountRead
  split
  · exact refuse_frame _ _ _ _ s
  · exact reply_frame _ _ _ _ _ s

theorem takeJournalRead_frame (f : Frame) (s : State) : sameOutside handing s (takeJournalRead f s) := by
  unfold takeJournalRead
  split
  · split
    · exact refuse_frame _ _ _ _ s
    · exact (setRead_frame s _).then (readNext_frame _) rfl rfl
  · exact .refl _ _

theorem collect_read (j : Journal) (q : Nat) : (j.collect q).read = j.read := by
  unfold Journal.collect
  cases j.records.find? fun r => !r.collected with
  | none => rfl
  | some r => simp only [apply_ite Journal.read, ite_self]

theorem takeCollect_frame (f : Frame) (s : State) : sameOutside (.journal :: handing) s (takeCollect f s) := by
  unfold takeCollect
  split
  · exact (setRecords_frame s _ (collect_read _ _)).then (reply_frame _ _ _ _ _ _) rfl rfl
  · exact .refl _ _

theorem takeStatusReq_frame (f : Frame) (s : State) : sameOutside handing s (takeStatusReq f s) := by
  unfold takeStatusReq
  split
  · exact sameOutside.trans (.ite ((setCounts_frame s _).mono rfl) (.refl _ _)) (reply_frame _ _ _ _ _ _)
  · exact .refl _ _

theorem takeTime_frame (f : Frame) (s : State) : sameOutside [.unit] s (takeTime f s) := by
  unfold takeTime
  split
  · exact setUnit_frame s _
  · exact .refl _ _

/-! ### The line -/

theorem failFrame_frame (s : State) : sameOutside handing s (failFrame s) := by
  unfold failFrame
  split
  · exact .refl _ _
  · refine .ite ?_ ((setQueue_frame s _ _).mono rfl)
    exact ((setQueue_frame s _ _).then (countDrop_frame _) (rs := handing) rfl rfl).trans
      ((reportLost_frame _ _).mono rfl)

theorem enterIsolated_frame (s : State) : sameOutside [.link, .books] s (enterIsolated s) :=
  (setLine_frame s _ (by rfl) (by rfl)).then (ageAllBooks_frame _) rfl rfl

theorem countFailure_frame (s : State) : sameOutside [.link, .books] s (countFailure s) := by
  unfold countFailure
  refine .ite ((setLine_frame s _ (by rfl) (by rfl)).mono rfl) ?_
  split
  · exact enterIsolated_frame s
  · exact (setLine_frame s _ (by rfl) (by rfl)).mono rfl

theorem failAttempt_frame (s : State) : sameOutside (.books :: replying) s (failAttempt s) := by
  have hit : sameOutside replying s ((s.setLink { s.link with driver := .released }).setCounts
      { s.counts with collision := countUp s.counts.collision }) :=
    (setLine_frame s { s.link with driver := .released } rfl rfl).then (setCounts_frame _ _) rfl rfl
  exact (hit.then (failFrame_frame _) (rs := .books :: replying) rfl rfl).trans ((countFailure_frame _).mono rfl)

theorem setReceiver_frame (r : Receiver) (s : State) : sameOutside [.link] s (setReceiver r s) :=
  setLine_frame s _ (by rfl) (by rfl)

theorem countFraming_frame (s : State) : sameOutside [.counts] s (countFraming s) := setCounts_frame s _

theorem weighHead_frame (b : Byte) (s : State) : sameOutside [.link] s (weighHead b s) :=
  .ite (setReceiver_frame _ s) (setReceiver_frame _ s)

theorem discardPartial_frame (s : State) : sameOutside [.link, .counts] s (discardPartial s) :=
  (countFraming_frame s).then (setReceiver_frame _ _) rfl rfl

theorem storeFrame_frame (f : Frame) (s : State) : sameOutside [.link, .counts] s (storeFrame f s) :=
  .ite ((setLine_frame s _ (by rfl) (by rfl)).mono rfl) ((setCounts_frame s _).mono rfl)

theorem completeFrame_frame (d : Nat) (cs : List Byte) (s : State) :
    sameOutside [.link, .counts] s (completeFrame d cs s) :=
  .ite ((setReceiver_frame _ s).then (setCounts_frame _ _) rfl rfl)
    (.ite ((setReceiver_frame _ s).then (countMalformed_frame _) rfl rfl)
      ((setReceiver_frame _ s).then (storeFrame_frame _ _) rfl rfl))

theorem assemble_frame (d : Nat) (cs : List Byte) (s : State) : sameOutside [.link, .counts] s (assemble d cs s) :=
  .ite (discardPartial_frame s) (.ite (completeFrame_frame d cs s) ((setReceiver_frame _ s).mono rfl))

theorem receive_frame (b : Byte) (m g : Bool) (s : State) : sameOutside [.link, .counts] s (receive b m g s) := by
  have head (t : State) : sameOutside [.link, .counts] t (weighHead b t) := (weighHead_frame b t).mono rfl
  unfold receive
  dsimp only
  split
  · exact .ite (head s) (.refl _ _)
  · exact .ite (head s) (.ite (.refl _ _) ((countFraming_frame s).then (setReceiver_frame _ _) rfl rfl))
  · exact .ite ((discardPartial_frame s).trans (head _)) (.ite (discardPartial_frame s) (assemble_frame _ _ s))

theorem compareEcho_frame (n : Nat) (b : Byte) (m g : Bool) (s : State) :
    sameOutside (.books :: replying) s (compareEcho n b m g s) := by
  unfold compareEcho
  dsimp only
  split
  · exact .refl _ _
  · exact .ite ((setLine_frame s _ (by rfl) (by rfl)).mono rfl) (failAttempt_frame s)

theorem hearCharacter_frame (b : Byte) (m g : Bool) (s : State) :
    sameOutside (.books :: replying) s (hearCharacter b m g s) := by
  have heard : sameOutside (.books :: replying) s (s.setLink { s.link with silence := none }) :=
    (setLine_frame s _ (by rfl) (by rfl)).mono rfl
  unfold hearCharacter
  dsimp only
  split
  case h_1 => exact heard.trans (compareEcho_frame _ _ _ _ _)
  case h_2 | h_3 | h_4 => exact heard.trans ((receive_frame _ _ _ _).mono rfl)

theorem loseFrame_frame (n : Nat) (s : State) : sameOutside [.link, .counts] s (loseFrame n s) := by
  unfold loseFrame
  dsimp only
  split
  · exact .ite ((setLine_frame s _ (by rfl) (by rfl)).then (discardPartial_frame _) rfl rfl) (.refl _ _)
  · exact .refl _ _
  · exact .refl _ _

theorem reachGap_frame (n : Nat) (s : State) : sameOutside [.link, .queue] s (reachGap n s) :=
  .ite (((setLine_frame s _ (by rfl) (by rfl)).mono rfl).trans (setLink_frame _ _)) ((setLine_frame s _ (by rfl) (by rfl)).mono rfl)

/-! ### Starts -/

/-- What a start or a loss of power can touch: all but the count of free choices and the queue of commands. -/
abbrev starting : List Part := touches .mainPowerLoss

theorem starting_of_kept {s t : State} (hc : t.choices = s.choices) (hp : t.pending = s.pending) :
    sameOutside starting s t := by
  intro p hm
  cases p
  case choices => exact hc
  case pending => exact hp
  all_goals exact absurd (by decide) hm

theorem losePower_frame (s : State) : sameOutside starting s (losePower s) := by
  unfold losePower
  split
  · exact starting_of_kept rfl rfl
  · exact .refl _ _

theorem startFirstSteps_frame (k : StartKind) (s : State) : sameOutside starting s (startFirstSteps k s) := by
  cases k <;> exact starting_of_kept rfl rfl

theorem closeRetained_frame (h : HoseIx) (s : State) :
    sameOutside (.retained :: handOffParts) s (closeRetained h s) := by
  unfold closeRetained
  split
  · exact .refl _ _
  · exact (setRetained_frame s h none).then (handOff_frame _ _) rfl rfl

theorem closeRetainedFirst_frame : ∀ (hs : List HoseIx) (n : Nat) (s : State),
    sameOutside (.retained :: handOffParts) s (closeRetainedFirst s hs n)
  | [], n, s => .refl _ s
  | h :: hs, n, s => by
    unfold closeRetainedFirst
    split
    · cases n with
      | zero => exact .refl _ s
      | succ n => exact (closeRetained_frame h s).trans (closeRetainedFirst_frame hs n _)
    · exact closeRetainedFirst_frame hs n s

theorem startCloses_frame (n : Nat) (s : State) : sameOutside (.retained :: handOffParts) s (startCloses n s) :=
  .ite (closeRetainedFirst_frame _ n s) (.refl _ _)

theorem startTrip_frame (s : State) : sameOutside (.tripUnit :: handing) s (startTrip s) :=
  .ite ((setTripUnit_frame s _).then (announce_frame _) rfl rfl) ((setTripUnit_frame s _).mono rfl)

theorem setHoses_frame (s : State) (xs : PerHose Hose) : sameOutside [.hoses] s { s with hoses := xs } := by
  intro p hp
  cases p <;> first | rfl | exact ⟨rfl, rfl⟩ | exact absurd (by decide) hp

theorem startHoses_frame (s : State) : sameOutside [.hoses] s (startHoses s) := setHoses_frame s _

theorem powerOn_frame (strap : Nat) (image : List Byte) (held : Bool) (lostAfter : Option Nat) (s : State) :
    sameOutside starting s (powerOn strap image held lostAfter s) := by
  have read : sameOutside starting s (readConfiguration strap image (losePower s)) :=
    (losePower_frame s).trans ((setUnit_frame _ _).mono rfl)
  have first (k : StartKind) (n : Nat) :
      sameOutside starting s (startCloses n (startFirstSteps k (readConfiguration strap image (losePower s)))) :=
    (read.trans (startFirstSteps_frame k _)).trans ((startCloses_frame n _).mono rfl)
  unfold powerOn
  dsimp only
  split
  · exact (first _ _).trans (losePower_frame _)
  · exact ((first _ _).trans ((startTrip_frame _).mono rfl)).trans ((startHoses_frame _).mono rfl)

/-- What a RESTART can touch: all that a start can but the retained deliveries (R205). -/
abbrev restarting : List Part := touches .frameSent

theorem startBooks_frame (s : State) : sameOutside [.books] s (startBooks s) := by
  intro p hp
  cases p <;> first | rfl | exact ⟨rfl, rfl⟩ | exact absurd (by decide) hp

theorem restartTrip_frame (s : State) : sameOutside (.tripUnit :: handing) s (restartTrip s) :=
  .ite ((setTripUnit_frame s _).then (announce_frame _) rfl rfl) ((setTripUnit_frame s _).mono rfl)

theorem restartBlocks_frame (s : State) :
    sameOutside restarting s ((startBlocks .restart (startLink false s)).setJournal
      { (startBlocks .restart (startLink false s)).journal with reserved := 0 }) := by
  intro p hp
  cases p <;> first | rfl | exact ⟨rfl, rfl⟩ | exact absurd (by decide) hp

theorem makeRestart_frame (s : State) : sameOutside restarting s (makeRestart s) := by
  have books : sameOutside restarting s (startBooks (startTime .restart s)) :=
    (setUnit_frame s _).then (startBooks_frame _) rfl rfl
  have closed (t : State) : sameOutside restarting t (HoseIx.all.foldl (fun s h => closeForRestart h s) t) :=
    .foldl (fun h t => (closeRaw_frame h _ _ _ t).mono rfl) _ _
  exact (((books.trans (closed _)).trans (restartBlocks_frame _)).trans ((startHoses_frame _).mono rfl)).trans
    ((restartTrip_frame _).mono rfl)

theorem tellSent_frame (p : Purpose) (s : State) : sameOutside restarting s (tellSent p s) := by
  cases p with
  | plain => exact .refl _ _
  | readFrame => exact (readSent_frame s).mono rfl
  | restartReply => exact makeRestart_frame s

theorem finishFrame_frame (s : State) : sameOutside restarting s (finishFrame s) := by
  unfold finishFrame
  split
  · exact (setLine_frame s _ (by rfl) (by rfl)).mono rfl
  · exact ((setLink_frame s _).mono rfl).trans (tellSent_frame _ _)

/-! ### Every command (O3) -/

theorem takes_whenPowered {ps : List Part} {c : Instr} {s : State} {f : State → State}
    (he : exec c s = .next (whenPowered f s)) (hf : sameOutside ps s (f s)) : Takes c s (sameOutside ps s) :=
  ⟨_, he, whenPowered_frame s hf⟩

theorem takes_takeHead {ps : List Part} {c : Instr} {s : State} {b : Block} {ks : List FrameKind}
    {f : Frame → State → State} (he : exec c s = .next (whenPowered (takeHead b ks f) s))
    (hf : ∀ a t, sameOutside ps t (f a t)) (hp : (replying.all fun p => ps.contains p) = true) :
    Takes c s (sameOutside ps s) :=
  takes_whenPowered he (takeHead_frame hf hp s)

/-- Settles O3, command by command from the frames of their operations. -/
theorem everyCommandCompletesInItsFrame : Obligations.EveryCommandCompletesInItsFrame := by
  intro c s
  cases c with
  | qualifiedPhaseChange h la ha lb hb => exact takes_whenPowered rfl (phaseChange_frame h la ha lb hb s)
  | creepWindowExpiry _ => exact takes_whenPowered rfl (.ite (restartCreepWindow_frame s) (.refl _ _))
  | rateWindowExpiry h _ => exact takes_whenPowered rfl (.ite (takeRate_frame h s) (.refl _ _))
  | meterSettled h _ =>
    exact takes_whenPowered rfl
      (.ite ((stopFlowPast_frame h s).then (closeSettled_frame h _) rfl rfl) (.refl _ _))
  | drivePeriodStart h _ => exact takes_whenPowered rfl (.ite (startPeriod_frame h s) (.refl _ _))
  | dutyOnTimeEnd h _ => exact takes_whenPowered rfl (.ite (setValve_frame s h _) (.refl _ _))
  | valveProofChange h closed _ => exact takes_whenPowered rfl (.ite (.refl _ _) (takeValveProof_frame h closed s))
  | zeroDutySettle h _ => exact takes_whenPowered rfl (.ite (checkStuck_frame h s) (.refl _ _))
  | flowPastExpiry h _ =>
    exact takes_whenPowered rfl (.ite (stuckOut_frame s (closeRaw_frame h _ _ _ s)) (.refl _ _))
  | pumpSettleExpiry p _ =>
    exact takes_whenPowered rfl (.ite (.ite (runPump_frame p s) (faultPump_frame p s)) (.refl _ _))
  | pumpProofChange p present _ =>
    exact takes_whenPowered rfl (.ite (.refl _ _) (.ite ((setPump_frame s p _).then (faultPump_frame p _) rfl rfl)
      ((setPump_frame s p _).mono rfl)))
  | minimumOffExpiry p _ =>
    exact takes_whenPowered rfl (.ite (.ite (startPump_frame p s) (setPump_frame s p _)) (.refl _ _))
  | nozzleHookChange h offHook _ => exact takes_whenPowered rfl (.ite (.refl _ _) (takeHook_frame h _ s))
  | tagFrame h good machine hours => exact takes_whenPowered rfl (.ite (takeTag_frame h machine hours s) (.refl _ _))
  | claimTimerExpiry h _ => exact takes_whenPowered rfl (.ite (moveHose_frame h _ s) (.refl _ _))
  | tagGraceExpiry h _ => exact takes_whenPowered rfl (.ite (loseTag_frame h s) (.refl _ _))
  | noFlowTimeout h _ => exact takes_whenPowered rfl (.ite (endingRequest_frame h _ s) (.refl _ _))
  | lampFlashToggle h _ =>
    refine takes_whenPowered rfl ?_
    dsimp only
    split
    · exact setHose_frame s h _
    · exact .refl _ _
  | permitExpiry machine product _ =>
    refine takes_whenPowered rfl ?_
    split
    · exact .refl _ _
    · exact .ite (removePermit_frame _ _ s) (.refl _ _)
  | drawBook =>
    refine takes_takeHead rfl (fun f t => ?_) rfl
    split
    · exact (bookDraw_frame _ _ t).then (deadLevelWatch_frame _ _) rfl rfl
    · exact .refl _ _
  | drawAccount =>
    refine takes_takeHead rfl (fun f t => ?_) rfl
    split
    · exact (takeDrawAccount_frame _ _ t).mono rfl
    · exact .refl _ _
  | receipt =>
    refine takes_takeHead rfl (fun f t => ?_) rfl
    split
    · exact (bookReceipt_frame _ _ t).then (deadLevelWatch_frame _ _) rfl rfl
    · exact .refl _ _
  | level =>
    refine takes_takeHead rfl (fun f t => ?_) rfl
    split
    · exact (takeLevel_frame _ t).mono rfl
    · exact .refl _ _
  | gaugeAgeExpiry k _ => exact takes_whenPowered rfl (.ite (setBook_frame s k _) (.refl _ _))
  | conflictTimerExpiry _ => exact takes_whenPowered rfl (.ite (setGauging_frame s _) (.refl _ _))
  | scanTimerExpiry _ => exact takes_whenPowered rfl (.ite (startScans_frame s) (.refl _ _))
  | probeGateClose c n => exact takes_whenPowered rfl (.ite (scan_frame c n s) (.refl _ _))
  | spillInputConfirm i b _ => exact takes_whenPowered rfl (.ite (.refl _ _) (confirmInput_frame i b s))
  | emergencyStop b _ => exact takes_whenPowered rfl (.ite (.refl _ _) (takeButton_frame b s))
  | tripResetKey _ => exact takes_whenPowered rfl (.ite (.refl _ _) (takeReset_frame s))
  | keyRelease _ => exact takes_whenPowered rfl (.ite (.refl _ _) (setTripUnit_frame s _))
  | overrideHoldExpiry _ =>
    exact takes_whenPowered rfl (.ite (((setTripUnit_frame s _).mono rfl).trans
      (withZone_frame _ ((dropOrigins_frame _ _).mono rfl))) (.refl _ _))
  | trip => exact takes_takeHead rfl (fun f t => (takeTrip_frame f t).mono rfl) rfl
  | clear => exact takes_takeHead rfl (fun f t => (takeClear_frame f t).mono rfl) rfl
  | beacon => exact takes_takeHead rfl (fun f t => (takeBeacon_frame f t).mono rfl) rfl
  | peerTableUpdate => exact takes_takeHead rfl (fun f t => (hearPeer_frame f t).mono rfl) rfl
  | peerQuietExpiry _ _ => exact takes_whenPowered rfl (setPeers_frame s _)
  | peerLostExpiry _ _ =>
    refine takes_whenPowered rfl ?_
    split
    · exact .refl _ _
    · exact .ite ((setPeers_frame s _).then (ageLostTanks_frame _ _) rfl rfl) (.refl _ _)
  | beaconTimerExpiry _ => exact takes_whenPowered rfl (.ite (sendBeacon_frame s) (.refl _ _))
  | rosterSet =>
    refine takes_takeHead rfl (fun f t => ?_) rfl
    split
    · exact (takeRosterSet_frame _ _ t).mono rfl
    · exact .refl _ _
  | rosterRemove =>
    refine takes_takeHead rfl (fun f t => ?_) rfl
    split
    · exact (takeRosterRemove_frame _ _ t).mono rfl
    · exact .refl _ _
  | permit =>
    refine takes_takeHead rfl (fun f t => ?_) rfl
    split
    · exact (takePermit_frame _ _ t).mono rfl
    · exact .refl _ _
  | accountRead =>
    refine takes_takeHead rfl (fun f t => ?_) rfl
    split
    · exact (takeAccountRead_frame _ _ t).mono rfl
    · exact .refl _ _
  | journalRead => exact takes_takeHead rfl (fun f t => (takeJournalRead_frame f t).mono rfl) rfl
  | collect => exact takes_takeHead rfl (fun f t => (takeCollect_frame f t).mono rfl) rfl
  | stopHose => exact takes_takeHead rfl (fun f t => (takeStopHose_frame f t).mono rfl) rfl
  | statusReq => exact takes_takeHead rfl (fun f t => (takeStatusReq_frame f t).mono rfl) rfl
  | identReq => exact takes_takeHead rfl (fun f t => (reply_frame _ _ _ _ _ t).mono rfl) rfl
  | restart => exact takes_takeHead rfl (fun f t => (reply_frame _ _ _ _ _ t).mono rfl) rfl
  | time => exact takes_takeHead rfl (fun f t => (takeTime_frame f t).mono rfl) rfl
  | unknownKindFrame => exact takes_whenPowered rfl (takeUnowned_frame s)
  | characterReceived b m g => exact takes_whenPowered rfl (hearCharacter_frame b m g s)
  | characterTimeout n => exact takes_whenPowered rfl (loseFrame_frame n s)
  | accessGapReached n => exact takes_whenPowered rfl (reachGap_frame n s)
  | leadTimeEnd =>
    refine takes_whenPowered rfl ?_
    dsimp only
    split
    · exact setLine_frame s _ (by rfl) (by rfl)
    · exact .refl _ _
  | echoMismatch =>
    refine takes_whenPowered rfl ?_
    split
    · exact failAttempt_frame s
    · exact .refl _ _
  | frameSent =>
    refine takes_whenPowered rfl ?_
    split
    · exact finishFrame_frame s
    all_goals exact .refl _ _
  | joinTimerExpiry _ => exact takes_whenPowered rfl (.ite (setLine_frame s _ (by rfl) (by rfl)) (.refl _ _))
  | isolationHoldExpiry _ => exact takes_whenPowered rfl (.ite (setLine_frame s _ (by rfl) (by rfl)) (.refl _ _))
  | powerOn strap image held lostAfter => exact ⟨_, rfl, powerOn_frame strap image held lostAfter s⟩
  | mainPowerLoss => exact ⟨_, rfl, losePower_frame s⟩

end Sys2Proof.Machine
end

section
/-! SUPPORT. Every step keeps the outputs safe (O4): the join state through the line's operations, the safety of each
command's own operations, the starts, and the step. -/

namespace Sys2Proof.Machine

/-! ### Invariants of a step -/

theorem exec_next (c : Instr) (s : State) : ∃ t, exec c s = .next t := by
  obtain ⟨t, ht, -⟩ := everyCommandCompletesInItsFrame c s
  exact ⟨t, ht⟩

theorem idle_enqueues (s : State) :
    idle s = s ∨ (∃ cs, idle s = s.enqueue cs) ∨ ∃ cs, idle s = (advance s).enqueue cs := by
  unfold idle
  split
  · split
    · exact .inr (.inl ⟨_, rfl⟩)
    · exact .inr (.inl ⟨_, rfl⟩)
    · exact .inr (.inr ⟨_, rfl⟩)
  · exact .inl rfl

/-- What the queue of commands does not bear on, every millisecond keeps and every command keeps, a step keeps. -/
theorem step_keeps {Inv : State → Prop} (hq : ∀ s cs, Inv s → Inv { s with pending := cs })
    (ha : ∀ s, Inv s → Inv (advance s)) (hx : ∀ c s, Inv s → Takes c s Inv) {s t : State} (k : Inv s)
    (h : step s = .next t) : Inv t := by
  unfold step at h
  split at h
  · obtain rfl := Host.Outcome.next.inj h
    rcases idle_enqueues s with e | ⟨cs, e⟩ | ⟨cs, e⟩ <;> rw [e]
    · exact k
    · exact hq _ _ k
    · exact hq _ _ (ha s k)
  · next c rest _ =>
    obtain ⟨u, hu, ku⟩ := hx c { s with pending := rest } (hq s rest k)
    obtain rfl := Host.Outcome.next.inj (hu.symm.trans h)
    exact ku

/-! ### The join state -/

theorem setReceiver_join (r : Receiver) (s : State) : (setReceiver r s).link.join = s.link.join := rfl

theorem weighHead_join (b : Byte) (s : State) : (weighHead b s).link.join = s.link.join := by
  unfold weighHead; split <;> rfl

theorem discardPartial_join (s : State) : (discardPartial s).link.join = s.link.join := rfl

theorem storeFrame_join (f : Frame) (s : State) : (storeFrame f s).link.join = s.link.join := by
  unfold storeFrame; split <;> rfl

theorem completeFrame_join (d : Nat) (cs : List Byte) (s : State) :
    (completeFrame d cs s).link.join = s.link.join := by
  unfold completeFrame
  dsimp only
  split
  · rfl
  · split
    · rfl
    · exact storeFrame_join _ _

theorem assemble_join (d : Nat) (cs : List Byte) (s : State) : (assemble d cs s).link.join = s.link.join := by
  unfold assemble
  split
  · rfl
  · split
    · exact completeFrame_join _ _ _
    · rfl

theorem receive_join (b : Byte) (m g : Bool) (s : State) : (receive b m g s).link.join = s.link.join := by
  unfold receive
  dsimp only
  split
  · split
    · exact weighHead_join _ _
    · rfl
  · split
    · exact weighHead_join _ _
    · split <;> rfl
  · split
    · exact (weighHead_join _ _).trans (discardPartial_join s)
    · split
      · rfl
      · exact assemble_join _ _ _

theorem loseFrame_join (n : Nat) (s : State) : (loseFrame n s).link.join = s.link.join := by
  unfold loseFrame
  dsimp only
  split
  · split <;> rfl
  · rfl
  · rfl

theorem attempt_join (l : Link) : l.attempt.join = l.join := by
  unfold Link.attempt
  split
  · rfl
  · split <;> rfl

theorem reachGap_join (n : Nat) (s : State) : (reachGap n s).link.join = s.link.join := by
  unfold reachGap
  dsimp only
  split
  · exact attempt_join _
  · rfl

theorem takeUnowned_join (s : State) : (takeUnowned s).link.join = s.link.join := by
  unfold takeUnowned
  split
  · rfl
  · split
    · split
      · exact (refuse_frame _ _ _ _ _).join (by decide)
      · rfl
    · rfl
    · rfl

/-- The sixteenth failure moves a JOINED station alone, so that no failure enters or leaves CONFIG_FAULT (R163). -/
theorem countFailure_fault (s : State) : (countFailure s).inConfigFault = s.inConfigFault := by
  unfold countFailure
  split
  · rfl
  · split
    · next e => simp [enterIsolated, ageAllBooks, State.inConfigFault, e]
    · rfl

theorem failAttempt_fault (s : State) : (failAttempt s).inConfigFault = s.inConfigFault := by
  unfold failAttempt
  rw [countFailure_fault]
  exact inConfigFault_congr ((failFrame_frame _).join (by decide))

theorem compareEcho_fault (n : Nat) (b : Byte) (m g : Bool) (s : State) :
    (compareEcho n b m g s).inConfigFault = s.inConfigFault := by
  unfold compareEcho
  dsimp only
  split
  · rfl
  · split
    · rfl
    · exact failAttempt_fault s

theorem hearCharacter_fault (b : Byte) (m g : Bool) (s : State) :
    (hearCharacter b m g s).inConfigFault = s.inConfigFault := by
  unfold hearCharacter
  dsimp only
  split
  · exact compareEcho_fault _ _ _ _ _
  all_goals exact inConfigFault_congr (receive_join _ _ _ _)

/-! ### Frames that hold no output but the link's -/

/-- What touches no output part but the link, and neither enters nor leaves CONFIG_FAULT, keeps the outputs safe. -/
theorem safe_of_line {ps : List Part} {s t : State} (k : s.OutputsSafe) (f : sameOutside ps s t)
    (hp : ((outputParts.filter (· ≠ .link)).all fun p => !ps.contains p) = true)
    (hj : t.inConfigFault = s.inConfigFault) : t.OutputsSafe := by
  have n : ∀ p ∈ outputParts.filter (· ≠ .link), p ∉ ps := fun p hm hc => by
    have := List.all_eq_true.mp hp p hm
    simp [hc] at this
  have hu : t.unit = s.unit := f .unit (n _ (by decide))
  have hv : t.valves = s.valves := f .valves (n _ (by decide))
  have hpp : t.pumps = s.pumps := f .pumps (n _ (by decide))
  have hh : t.hoses = s.hoses := f .hoses (n _ (by decide))
  exact SameOutputs.safe ⟨by simp only [State.cfg, hu], tripped_congr (f .tripUnit (n _ (by decide))), hj,
    fun h => by rw [hh], fun h => by rw [hv], fun h => by rw [hv], fun h => by rw [hv]; exact fun _ h => h,
    fun p => by rw [hpp]; exact fun h => h⟩ k

theorem safe_of_frame {ps : List Part} {s t : State} (k : s.OutputsSafe) (f : sameOutside ps s t)
    (hp : (outputParts.all fun p => !ps.contains p) = true) : t.OutputsSafe := (f.outputs hp).safe k

/-! ### Metering -/

theorem seeMotion_safe {s : State} (h : HoseIx) (k : s.OutputsSafe) : (seeMotion h s).OutputsSafe :=
  (SameOutputs.setHose (by rfl)).safe (safe_of_frame k (restartQuiet_frame h s) (by decide))

theorem afterLiveStep_safe {s : State} (h : HoseIx) (k : s.OutputsSafe) : (afterLiveStep h s).OutputsSafe := by
  have ends (r : EndReason) (n : Nat) {t : State} (kt : t.OutputsSafe) :
      (deadLevelWatch n (endingRequest h r t)).OutputsSafe :=
    deadLevelWatch_safe n (endingRequest_safe h r kt)
  unfold afterLiveStep
  dsimp only
  split
  · exact k
  · split
    · split
      · exact ends _ _ (safe_of_frame k (setChoices_frame s _) (by decide))
      · exact ends _ _ k
    · split
      · next e =>
        have hf : s.inConfigFault = false := not_fault_of_state k h (by rw [e.1]; rintro (a | ⟨f, a⟩) <;> cases a)
        exact deadLevelWatch_safe _ (moveHose_safe h .trimming k (by simp [hf]))
      · exact deadLevelWatch_safe _ k

theorem setMeter_safe {s : State} (h : HoseIx) (m : Meter) (k : s.OutputsSafe) : (s.setMeter h m).OutputsSafe :=
  safe_of_frame k (setMeter_frame s h m) (by decide)

theorem creepStep_safe {s : State} (h : HoseIx) (forward : Bool) (k : s.OutputsSafe) :
    (creepStep h forward s).OutputsSafe := by
  unfold creepStep
  dsimp only
  split
  · exact raise_safe _ (setMeter_safe h _ k)
  · exact setMeter_safe h _ k

theorem takeStep_safe {s : State} (h : HoseIx) (forward : Bool) (k : s.OutputsSafe) :
    (takeStep h forward s).OutputsSafe := by
  unfold takeStep
  dsimp only
  split
  · exact afterLiveStep_safe h (setMeter_safe h _ (setMeter_safe h _ k))
  · exact creepStep_safe h _ (setMeter_safe h _ k)

theorem takeInvalid_safe {s : State} (h : HoseIx) (k : s.OutputsSafe) : (takeInvalid h s).OutputsSafe := by
  unfold takeInvalid
  dsimp only
  split
  · exact meterFault_safe h (setMeter_safe h _ k)
  · exact setMeter_safe h _ k

theorem phaseChange_safe {s : State} (h : HoseIx) (la : Bool) (ha : Nat) (lb : Bool) (hb : Nat) (k : s.OutputsSafe) :
    (phaseChange h la ha lb hb s).OutputsSafe := by
  have moves (m : PhaseMove) {t : State} (kt : t.OutputsSafe) : (takeMove h m t).OutputsSafe := by
    cases m with
    | none => exact kt
    | forward => exact takeStep_safe h true (seeMotion_safe h kt)
    | reverse => exact takeStep_safe h false (seeMotion_safe h kt)
    | invalid => exact takeInvalid_safe h (seeMotion_safe h kt)
  unfold phaseChange
  dsimp only
  split
  · exact k
  · split
    · exact moves _ (setMeter_safe h _ k)
    · exact setMeter_safe h _ k

theorem takeRate_safe {s : State} (h : HoseIx) (k : s.OutputsSafe) : (takeRate h s).OutputsSafe := by
  have kc : (closeRateWindow h s).OutputsSafe := setMeter_safe h _ k
  unfold takeRate
  dsimp only
  split
  · exact raise_safe _ kc
  · exact kc

/-! ### Driving -/

theorem stopFlowPast_safe {s : State} (h : HoseIx) (k : s.OutputsSafe) : (stopFlowPast h s).OutputsSafe :=
  (SameOutputs.setValve (by rfl) (by rfl) (by exact fun _ c => c)).safe k

/-- A period begins only at a duty above 0, so that a shut valve's output stays off (R12). -/
theorem startPeriod_safe {s : State} (h : HoseIx) (k : s.OutputsSafe) : (startPeriod h s).OutputsSafe := by
  unfold startPeriod
  dsimp only
  split
  · exact k
  · next h0 => exact (SameOutputs.setValve (by rfl) (by rfl) fun c => absurd c h0).safe k

theorem endDutyOn_safe {s : State} (h : HoseIx) (k : s.OutputsSafe) :
    (s.setValve h { s.valves.get h with output := false }).OutputsSafe :=
  (SameOutputs.setValve (by rfl) (by rfl) (by exact fun _ c => ⟨c.1, rfl⟩)).safe k

theorem takeValveProof_safe {s : State} (h : HoseIx) (closed : Bool) (k : s.OutputsSafe) :
    (takeValveProof h closed s).OutputsSafe := by
  unfold takeValveProof
  dsimp only
  split
  · exact k
  · split
    · exact (SameOutputs.setValve (by rfl) (by rfl) (by exact fun _ c => c)).safe k
    · exact checkStuck_safe h ((SameOutputs.setValve (by rfl) (by rfl) (by exact fun _ c => c)).safe k)

theorem endingClose_safe {s : State} {h : HoseIx} {b : Bool} {f : Option HoseFault} {r : EndReason} (k : s.OutputsSafe)
    (he : (s.hoses.get h).state = .ending) : (closeRaw h b f r s).OutputsSafe :=
  closeRaw_safe h b f r k (not_fault_of_state k h (by rw [he]; rintro (a | ⟨f, a⟩) <;> cases a))

theorem pumpSafe_of_state {s : State} {p : PumpIx} {x : Pump} (k : s.OutputsSafe)
    (hx : x.state.contactor = true → (s.pumps.get p).state.contactor = true
      ∨ s.tripped = false ∧ 0 < s.runCount (s.cfg.pumpTanks.get p)) : (s.setPump p x).OutputsSafe := by
  obtain ⟨hv, hp, hh⟩ := k
  refine ⟨hv, fun q hq => ?_, hh⟩
  by_cases e : q = p
  · subst e
    simp only [State.setPump_pumps, PerPump.get_set_self] at hq
    rcases hx hq with h | ⟨ht, hr⟩
    · exact hp q h
    · exact ⟨ht, fun _ => hr⟩
  · simp only [State.setPump_pumps, PerPump.get_set_ne _ _ e] at hq
    exact hp q hq

/-- A pump in STARTING enters RUNNING with its contactor on as it was (R21). -/
theorem runPump_safe {s : State} (p : PumpIx) (k : s.OutputsSafe) (hs : (s.pumps.get p).state = .starting) :
    (runPump p s).OutputsSafe :=
  safe_foldl (fun h _ kt => exitPriming_safe h kt) _ (pumpSafe_of_state k fun _ => .inl (by rw [hs]; rfl))

theorem pumpSettle_safe {s : State} (p : PumpIx) (k : s.OutputsSafe) (hs : (s.pumps.get p).state = .starting) :
    (if (s.pumps.get p).proof then runPump p s else faultPump p s).OutputsSafe := by
  split
  · exact runPump_safe p k hs
  · exact faultPump_safe p k

theorem pumpProof_safe {s : State} (p : PumpIx) (b : Bool) (k : s.OutputsSafe) :
    (s.setPump p { s.pumps.get p with proof := b }).OutputsSafe := (SameOutputs.setPump (by exact fun c => c)).safe k

/-- At the minimum-off expiry a pump starts only in NORMAL with a run count (R22). -/
theorem minimumOff_safe {s : State} (p : PumpIx) (k : s.OutputsSafe) :
    (if 0 < s.runCount (s.cfg.pumpTanks.get p) ∧ s.tripped = false then startPump p s
      else s.setPump p { s.pumps.get p with state := .off, timer := none }).OutputsSafe := by
  split
  · next c => exact pumpSafe_of_state k fun _ => .inr ⟨c.2, c.1⟩
  · exact pumpSafe_of_state k fun c => by cases c

/-! ### Deliveries -/

theorem setHook_safe {s : State} (h : HoseIx) (o : Option Hook) (k : s.OutputsSafe) :
    (s.setHose h { s.hoses.get h with hook := o }).OutputsSafe := (SameOutputs.setHose (by rfl)).safe k

theorem takeHook_safe {s : State} (h : HoseIx) (level : Hook) (k : s.OutputsSafe) : (takeHook h level s).OutputsSafe := by
  have free {t : State} (kt : t.OutputsSafe) (st : HoseState) (c : ¬t.inConfigFault = true) :
      (moveHose h st t).OutputsSafe := moveHose_safe h st kt fun f => absurd f c
  have first {t : State} (kt : t.OutputsSafe) : (firstHook h t).OutputsSafe := by
    unfold firstHook
    split
    · split
      · exact kt
      · next c => exact free kt _ c
    · exact kt
  have lifted {t : State} (kt : t.OutputsSafe) : (lift h t).OutputsSafe := by
    unfold lift
    split
    · split
      · exact kt
      · next c => exact free kt _ c
    · exact kt
  have hung {t : State} (kt : t.OutputsSafe) : (hang h t).OutputsSafe := by
    unfold hang
    split
    · exact kt
    · next c =>
      split
      case h_2 | h_3 | h_4 => exact endingRequest_safe h _ kt
      case h_1 | h_5 | h_6 => exact free kt _ c
      case h_7 | h_8 | h_9 => exact kt
  unfold takeHook
  dsimp only
  split
  · exact first (setHook_safe h _ k)
  · exact lifted (setHook_safe h _ k)
  · exact hung (setHook_safe h _ k)
  · exact k
  · exact k

theorem acceptClaim_safe {s : State} (h : HoseIx) (machine : Nat) (hours : Option Nat) (v : Service) (limit : Nat)
    (fl : RecordFlags) (k : s.OutputsSafe) (hf : s.inConfigFault = false) :
    (acceptClaim h machine hours v limit fl s).OutputsSafe := by
  have entered {t : State} (kt : t.OutputsSafe) (ht : t.inConfigFault = false) (m : Meter) (x : Hose)
      (hx : x.state = (t.hoses.get h).state) : (moveHose h .priming ((t.setMeter h m).setHose h x)).OutputsSafe :=
    moveHose_safe h .priming ((SameOutputs.setHose (by exact hx)).safe (setMeter_safe h m kt)) fun c =>
      absurd (show t.inConfigFault = true from c) (by simp [ht])
  have left {t : State} (kt : t.OutputsSafe) (o : Option PumpIx) : (match o with
      | some p => if (t.pumps.get p).state = PumpState.running then exitPriming h t else t
      | none => t).OutputsSafe := by
    cases o with
    | none => exact kt
    | some p =>
      dsimp only
      split
      · exact exitPriming_safe h kt
      · exact kt
  have kj : (s.setJournal { s.journal with reserved := s.journal.reserved + 1 }).OutputsSafe :=
    safe_of_frame k (setJournal_frame _ _) (by decide)
  unfold acceptClaim
  dsimp only
  refine left ?_ _
  cases v with
  | record r => exact entered kj hf _ _ rfl
  | permit p => exact entered (safe_of_frame kj (removePermit_frame _ _ _) (by decide)) hf _ _ rfl

theorem claim_safe {s : State} (h : HoseIx) (machine : Nat) (hours : Option Nat) (k : s.OutputsSafe)
    (hw : (s.hoses.get h).state = .waiting) : (claim h machine hours s).OutputsSafe := by
  have hf : s.inConfigFault = false := not_fault_of_state k h (by rw [hw]; rintro (a | ⟨f, a⟩) <;> cases a)
  have refused {t : State} (kt : t.OutputsSafe) (ht : t.inConfigFault = false) (r : RefusalReason) :
      (refuseClaim h r t).OutputsSafe := moveHose_safe h _ kt (by simp [ht])
  have stock {t : State} (kt : t.OutputsSafe) (ht : t.inConfigFault = false) (v : Service) (b : Bool) (a : Nat)
      (fl : RecordFlags) : (claimStock h machine hours v b a fl t).OutputsSafe := by
    unfold claimStock
    dsimp only
    split
    · exact refused kt ht _
    · split
      · exact refused kt ht _
      · split
        · exact refused kt ht _
        · exact acceptClaim_safe h machine hours v _ _ kt ht
  have account : (claimAccount h machine hours s).OutputsSafe := by
    unfold claimAccount
    dsimp only
    split
    · exact refused k hf _
    · exact stock k hf _ _ _ _
    · next r _ =>
      have kp := safe_of_frame k (putRecord_frame (hoursCheck s.cfg (s.hoseCfg h) r hours).record s) (by decide)
      split
      · exact refused kp hf _
      · exact stock kp hf _ _ _ _
  unfold claim
  split
  · exact refused k hf _
  · split
    · exact refused k hf _
    · split
      · exact refused k hf _
      · exact account

theorem refreshTag_safe {s : State} (h : HoseIx) (machine : Nat) (k : s.OutputsSafe) :
    (refreshTag h machine s).OutputsSafe := by
  unfold refreshTag
  dsimp only
  split
  · exact (SameOutputs.setHose (by rfl)).safe k
  · exact k

theorem takeTag_safe {s : State} (h : HoseIx) (machine : Nat) (hours : Option Nat) (k : s.OutputsSafe) :
    (takeTag h machine hours s).OutputsSafe := by
  unfold takeTag
  split
  case h_1 => next e => exact claim_safe h machine hours k e
  case h_5 => exact k
  case h_2 | h_3 | h_4 => exact refreshTag_safe h machine k

theorem takeStopHose_safe {s : State} (f : Frame) (k : s.OutputsSafe) : (takeStopHose f s).OutputsSafe := by
  unfold takeStopHose
  split
  · split
    · split
      · exact endingRequest_safe _ _ k
      · exact safe_of_frame k (refuse_frame _ _ _ _ s) (by decide)
    · exact k
  · exact k

/-! ### Tanks -/

theorem takeLevel_safe {s : State} (l : LevelBody) (k : s.OutputsSafe) : (takeLevel l s).OutputsSafe := by
  unfold takeLevel
  split
  · exact k
  · split
    · exact safe_of_frame k (setGauging_frame s _) (by decide)
    · exact deadLevelWatch_safe _ (safe_of_frame k (bookLevel_frame _ _ s) (by decide))

theorem overfillTest_safe {s : State} (c : ProbeIx) (n : Nat) (k : s.OutputsSafe) : (overfillTest c n s).OutputsSafe := by
  have kp (p : Probe) : (s.setProbe c p).OutputsSafe := safe_of_frame k (setProbe_frame s c p) (by decide)
  unfold overfillTest
  dsimp only
  split
  · exact raise_safe _ (kp _)
  · exact kp _

theorem scan_safe {s : State} (c : ProbeIx) (n : Nat) (k : s.OutputsSafe) : (scan c n s).OutputsSafe := by
  have kp (p : Probe) : (s.setProbe c p).OutputsSafe := safe_of_frame k (setProbe_frame s c p) (by decide)
  have tracked (p : Probe) : (trackingScan c (s.setProbe c p)).OutputsSafe :=
    safe_of_frame (overfillTest_safe c _
      (deadLevelWatch_safe _ (safe_of_frame (kp p) (bookLevel_frame _ _ _) (by decide)))) (handOver_frame _ _) (by decide)
  unfold scan
  dsimp only
  split
  · split
    · exact kp _
    · exact tracked _
    · split
      · exact tracked _
      · exact kp _
  · exact kp _

/-! ### The trip unit -/

theorem confirmInput_safe {s : State} (i : InputIx) (b : Bool) (k : s.OutputsSafe) : (confirmInput i b s).OutputsSafe := by
  have kt (x : PerInput SpillState) : (s.setTripUnit { s.tripUnit with inputs := x }).OutputsSafe :=
    (SameOutputs.setTripUnit (by rfl) (by rfl)).safe k
  unfold confirmInput
  dsimp only
  split
  · exact k
  · split
    · exact raise_safe _ (kt _)
    · exact kt _

theorem takeButton_safe {s : State} (b : Bool) (k : s.OutputsSafe) : (takeButton b s).OutputsSafe := by
  have kt (x : Button) : (s.setTripUnit { s.tripUnit with button := x }).OutputsSafe :=
    (SameOutputs.setTripUnit (by rfl) (by rfl)).safe k
  unfold takeButton
  dsimp only
  split
  · exact raise_safe _ (kt _)
  · exact kt _

theorem startState_held {b : Bool} {o : Option Hook} (hb : b = true) : heldState (startState b o) := by
  subst hb; exact .inl rfl

theorem returnToService_safe {s : State} (h : HoseIx) (k : s.OutputsSafe) : (returnToService h s).OutputsSafe := by
  unfold returnToService
  split
  · split
    · exact moveHose_safe h _ (setMeter_safe h _ k) fun c => startState_held c
    · exact k
  · exact k

theorem resetPump_safe {s : State} (p : PumpIx) (k : s.OutputsSafe) : (resetPump p s).OutputsSafe := by
  unfold resetPump
  split
  · exact pumpSafe_of_state k fun c => by cases c
  · exact k

theorem keyOperation_safe {s : State} (k : s.OutputsSafe) : (keyOperation s).OutputsSafe := by
  have hoses : (HoseIx.all.foldl (fun s h => returnToService h s) s).OutputsSafe :=
    safe_foldl (fun h _ kt => returnToService_safe h kt) _ k
  have pumps := safe_foldl (fun p _ kt => resetPump_safe p kt) PumpIx.all hoses
  have zone := withZone_safe pumps ((removeCauses_frame _).mono rfl)
  exact (SameOutputs.setTripUnit (by rfl) (by rfl)).safe zone

theorem takeReset_safe {s : State} (k : s.OutputsSafe) : (takeReset s).OutputsSafe := by
  have kt : (s.setTripUnit { s.tripUnit with keySwitch := .reset }).OutputsSafe :=
    (SameOutputs.setTripUnit (by rfl) (by rfl)).safe k
  unfold takeReset
  dsimp only
  split
  · exact kt
  · exact keyOperation_safe kt
  · exact k

theorem overrideHold_safe {s : State} (p : Origin → Bool) (k : s.OutputsSafe) :
    (withZone (dropOrigins p) (s.setTripUnit { s.tripUnit with overrideTimer := none })).OutputsSafe :=
  withZone_safe ((SameOutputs.setTripUnit (by rfl) (by rfl)).safe k) ((dropOrigins_frame _ _).mono rfl)

theorem enterOrigin_safe {s : State} (o : Origin) (k : s.OutputsSafe) : (withZone (enterOrigin o) s).OutputsSafe :=
  withZone_safe k ((enterOrigin_frame _ _).mono rfl)

theorem dropOrigins_safe {s : State} (p : Origin → Bool) (k : s.OutputsSafe) :
    (withZone (dropOrigins p) s).OutputsSafe := withZone_safe k ((dropOrigins_frame _ _).mono rfl)

theorem takeTrip_safe {s : State} (f : Frame) (k : s.OutputsSafe) : (takeTrip f s).OutputsSafe := by
  unfold takeTrip
  split
  · split
    · exact enterOrigin_safe _ k
    · exact k
  · exact k

theorem takeClear_safe {s : State} (f : Frame) (k : s.OutputsSafe) : (takeClear f s).OutputsSafe := by
  unfold takeClear
  split
  · split
    · exact dropOrigins_safe _ k
    · exact k
  · exact k

theorem takeBeacon_safe {s : State} (f : Frame) (k : s.OutputsSafe) : (takeBeacon f s).OutputsSafe := by
  unfold takeBeacon
  split
  · split
    · exact enterOrigin_safe _ k
    · exact dropOrigins_safe _ k
  · exact k

/-! ### Time -/

theorem setUnit_safe {s : State} (u : StartUnit) (k : s.OutputsSafe) (hu : u.settings = s.unit.settings) :
    (s.setUnit u).OutputsSafe :=
  SameOutputs.safe ⟨hu, rfl, rfl, fun _ => rfl, fun _ => rfl, fun _ => rfl, fun _ _ c => c, fun _ c => c⟩ k

theorem tick_settings (u : StartUnit) : u.tick.settings = u.settings := by
  unfold StartUnit.tick; split <;> rfl

theorem advance_sameOutputs (s : State) : SameOutputs s (advance s) where
  unit := tick_settings s.unit
  tripped := rfl
  fault := rfl
  state h := by simp [advance, Hose.tick]
  commanded h := by simp [advance, Valve.tick]
  duty h := by simp [advance, Valve.tick]
  off h _ c := by simpa [advance, Valve.tick] using c
  pumps p c := by simpa [advance, Pump.tick] using c

/-! ### Starts -/

/-- With every valve shut, every contactor off and every hose in a state of stage SHUT that CONFIG_FAULT allows, the
outputs are safe. -/
theorem safe_of_shut {s : State}
    (hv : ∀ h, (s.valves.get h).commanded = .shut ∧ (s.valves.get h).duty = 0 ∧ (s.valves.get h).periodDuty = 0
      ∧ (s.valves.get h).output = false)
    (hp : ∀ p, (s.pumps.get p).state.contactor = false) (hh : ∀ h, stageOf (s.hoses.get h).state = .shut)
    (hf : ∀ h, s.heldRight h) : s.OutputsSafe := by
  refine ⟨fun h => ?_, fun p c => ?_, hf⟩
  · obtain ⟨c, d, pd, o⟩ := hv h
    exact ⟨by rw [c, hh], by simp [State.dutyFor, c, d, stageDuty], fun _ => ⟨pd, o⟩⟩
  · rw [hp] at c; cases c

theorem losePower_safe {s : State} (k : s.unit.powered = false → s.OutputsSafe) : (losePower s).OutputsSafe := by
  unfold losePower
  split
  · refine safe_of_shut (fun h => ?_) (fun p => ?_) (fun h => ?_) fun h c => ?_
    · simp [State.reset]
    · simp [State.reset, PumpState.contactor]
    · simp [unpoweredHose, stageOf]
    · simp [State.inConfigFault, State.reset] at c
  · next e => exact k (by simpa using e)

theorem startState_shut (b : Bool) (o : Option Hook) : stageOf (startState b o) = .shut := by
  unfold startState
  split
  · rfl
  · split <;> rfl

/-- The blocks' start values with the hoses set, and then only what touches no valve, pump, hose or join state: the
outputs are safe (R17, R25, R57, R58). -/
theorem started_safe {k : StartKind} {s t u : State} (hv : t.valves = s.valves.map (startValve k))
    (hp : t.pumps = s.pumps.map (startPumpValue k)) (hh : u.hoses = (startHoses t).hoses)
    (huv : u.valves = t.valves) (hup : u.pumps = t.pumps) (hj : u.link.join = t.link.join) : u.OutputsSafe := by
  refine safe_of_shut (fun h => ?_) (fun p => ?_) (fun h => ?_) fun h c => ?_
  · simp [huv, hv, startValve]
  · simp [hup, hp, startPumpValue, PumpState.contactor]
  · simp [hh, startHoses, Hose.enter, startState_shut]
  · rw [inConfigFault_congr hj] at c
    simpa [hh, startHoses, Hose.enter, heldState] using startState_held (o := (t.hoses.get h).hook) c

theorem startFirstSteps_pumps (k : StartKind) (s : State) :
    (startFirstSteps k s).pumps = s.pumps.map (startPumpValue k) := by
  cases k <;> rfl

theorem startFirstSteps_valves (k : StartKind) (s : State) :
    (startFirstSteps k s).valves = s.valves.map (startValve k) := by
  cases k <;> rfl

theorem startFirstSteps_safe (k : StartKind) (s : State) (n : Nat) :
    (startHoses (startTrip (startCloses n (startFirstSteps k s)))).OutputsSafe := by
  have f := startCloses_frame n (startFirstSteps k s)
  have g := startTrip_frame (startCloses n (startFirstSteps k s))
  have fg : sameOutside (.retained :: .tripUnit :: handOffParts) (startFirstSteps k s)
    (startTrip (startCloses n (startFirstSteps k s))) := f.then g rfl rfl
  exact started_safe (s := s) (k := k) (Eq.trans (fg .valves (by decide)) (startFirstSteps_valves k s))
    (Eq.trans (fg .pumps (by decide)) (startFirstSteps_pumps k s)) rfl rfl rfl rfl

theorem startFirstSteps_powered (k : StartKind) (s : State) :
    (startFirstSteps k s).unit.powered = s.unit.powered := by
  cases k <;> rfl

theorem powerOn_safe (strap : Nat) (image : List Byte) (held : Bool) (lostAfter : Option Nat) (s : State) :
    (powerOn strap image held lostAfter s).OutputsSafe := by
  unfold powerOn
  dsimp only
  split
  · refine losePower_safe fun c => ?_
    rw [startCloses_frame _ _ .unit (by decide), startFirstSteps_powered] at c
    cases c
  · exact startFirstSteps_safe _ _ _

theorem makeRestart_safe (s : State) : (makeRestart s).OutputsSafe := by
  unfold makeRestart
  dsimp only
  have f (t : State) := restartTrip_frame t
  exact started_safe (k := .restart) rfl rfl (f _ .hoses (by decide)) (f _ .valves (by decide)) (f _ .pumps (by decide))
    ((f _).join (by decide))

/-! ### The line's commands -/

theorem finishFrame_safe {s : State} (k : s.OutputsSafe) : (finishFrame s).OutputsSafe := by
  have told (p : Purpose) {t : State} (kt : t.OutputsSafe) : (tellSent p t).OutputsSafe := by
    cases p with
    | plain => exact kt
    | readFrame => exact safe_of_frame kt (readSent_frame t) (by decide)
    | restartReply => exact makeRestart_safe t
  unfold finishFrame
  split
  · exact (SameOutputs.setLink (by rfl)).safe k
  · exact told _ ((SameOutputs.setLink (by rfl)).safe k)

/-! ### The step (O4) -/

theorem takes_safe {c : Instr} {s : State} {f : State → State} (k : s.OutputsSafe)
    (he : exec c s = .next (whenPowered f s)) (hf : (f s).OutputsSafe) : Takes c s State.OutputsSafe := by
  refine ⟨_, he, ?_⟩
  unfold whenPowered
  split
  · exact hf
  · exact k

theorem safe_ite {c : Prop} [Decidable c] {s t : State} (hs : c → s.OutputsSafe) (ht : ¬c → t.OutputsSafe) :
    (if c then s else t).OutputsSafe := by
  split
  · next h => exact hs h
  · next h => exact ht h

theorem takes_safe_of_touches {c : Instr} {s : State} (k : s.OutputsSafe)
    (hp : (outputParts.all fun p => !(touches c).contains p) = true) : Takes c s State.OutputsSafe := by
  obtain ⟨t, ht, f⟩ := everyCommandCompletesInItsFrame c s
  exact ⟨t, ht, safe_of_frame k f hp⟩

theorem takes_safe_takeHead {c : Instr} {s : State} {b : Block} {ks : List FrameKind} {f : Frame → State → State}
    (k : s.OutputsSafe) (he : exec c s = .next (whenPowered (takeHead b ks f) s))
    (hf : ∀ a t, t.OutputsSafe → (f a t).OutputsSafe) : Takes c s State.OutputsSafe :=
  takes_safe k he (takeHead_safe k hf)

/-- What a frame's effect leaves alone keeps the outputs safe. -/
theorem takes_safe_frame {c : Instr} {s : State} {b : Block} {ks : List FrameKind} {f : Frame → State → State}
    {ps : List Part} (k : s.OutputsSafe) (he : exec c s = .next (whenPowered (takeHead b ks f) s))
    (hf : ∀ a t, sameOutside ps t (f a t)) (hp : (outputParts.all fun p => !ps.contains p) = true) :
    Takes c s State.OutputsSafe :=
  takes_safe_takeHead k he fun a t kt => safe_of_frame kt (hf a t) hp

theorem exec_safe (c : Instr) (s : State) (k : s.OutputsSafe) : Takes c s State.OutputsSafe := by
  cases c with
  | qualifiedPhaseChange h la ha lb hb => exact takes_safe k rfl (phaseChange_safe h la ha lb hb k)
  | creepWindowExpiry _ => exact takes_safe_of_touches k rfl
  | rateWindowExpiry h _ => exact takes_safe k rfl (safe_ite (fun _ => takeRate_safe h k) fun _ => k)
  | meterSettled h _ =>
    exact takes_safe k rfl (safe_ite (fun _ => closeSettled_safe h (stopFlowPast_safe h k)) fun _ => k)
  | drivePeriodStart h _ => exact takes_safe k rfl (safe_ite (fun _ => startPeriod_safe h k) fun _ => k)
  | dutyOnTimeEnd h _ => exact takes_safe k rfl (safe_ite (fun _ => endDutyOn_safe h k) fun _ => k)
  | valveProofChange h closed _ =>
    exact takes_safe k rfl (safe_ite (fun _ => k) fun _ => takeValveProof_safe h closed k)
  | zeroDutySettle h _ => exact takes_safe k rfl (safe_ite (fun _ => checkStuck_safe h k) fun _ => k)
  | flowPastExpiry h _ =>
    exact takes_safe k rfl (safe_ite (fun c => stuckOut_safe (endingClose_safe k c.2)) fun _ => k)
  | pumpSettleExpiry p _ => exact takes_safe k rfl (safe_ite (fun c => pumpSettle_safe p k c.1) fun _ => k)
  | pumpProofChange p present _ =>
    have kp := pumpProof_safe p present k
    exact takes_safe k rfl (safe_ite (fun _ => k) fun _ => safe_ite (fun _ => faultPump_safe p kp) fun _ => kp)
  | minimumOffExpiry p _ => exact takes_safe k rfl (safe_ite (fun _ => minimumOff_safe p k) fun _ => k)
  | nozzleHookChange h offHook _ => exact takes_safe k rfl (safe_ite (fun _ => k) fun _ => takeHook_safe h _ k)
  | tagFrame h good machine hours =>
    exact takes_safe k rfl (safe_ite (fun _ => takeTag_safe h machine hours k) fun _ => k)
  | claimTimerExpiry h _ =>
    refine takes_safe k rfl (safe_ite (fun c => moveHose_safe h _ k fun f => absurd f ?_) fun _ => k)
    simp [not_fault_of_state k h (by rw [c.1]; rintro (a | ⟨f, a⟩) <;> cases a)]
  | tagGraceExpiry h _ =>
    exact takes_safe k rfl
      (safe_ite (fun _ => safe_ite (fun _ => endingRequest_safe h _ k) fun _ => k) fun _ => k)
  | noFlowTimeout h _ => exact takes_safe k rfl (safe_ite (fun _ => endingRequest_safe h _ k) fun _ => k)
  | lampFlashToggle h _ =>
    refine takes_safe k rfl ?_
    dsimp only
    split
    · exact (SameOutputs.setHose (by rfl)).safe k
    · exact k
  | permitExpiry _ _ _ => exact takes_safe_of_touches k rfl
  | drawBook =>
    refine takes_safe_takeHead k rfl fun f t kt => ?_
    split
    · exact deadLevelWatch_safe _ (safe_of_frame kt (bookDraw_frame _ _ t) (by decide))
    · exact kt
  | drawAccount =>
    refine takes_safe_frame k rfl (ps := [.accounts]) (fun f t => ?_) (by decide)
    split
    · exact takeDrawAccount_frame _ _ t
    · exact .refl _ _
  | receipt =>
    refine takes_safe_takeHead k rfl fun f t kt => ?_
    split
    · exact deadLevelWatch_safe _ (safe_of_frame kt (bookReceipt_frame _ _ t) (by decide))
    · exact kt
  | level =>
    refine takes_safe_takeHead k rfl fun f t kt => ?_
    split
    · exact takeLevel_safe _ kt
    · exact kt
  | gaugeAgeExpiry _ _ => exact takes_safe_of_touches k rfl
  | conflictTimerExpiry _ => exact takes_safe_of_touches k rfl
  | scanTimerExpiry _ => exact takes_safe_of_touches k rfl
  | probeGateClose c n => exact takes_safe k rfl (safe_ite (fun _ => scan_safe c n k) fun _ => k)
  | spillInputConfirm i b _ => exact takes_safe k rfl (safe_ite (fun _ => k) fun _ => confirmInput_safe i b k)
  | emergencyStop b _ => exact takes_safe k rfl (safe_ite (fun _ => k) fun _ => takeButton_safe b k)
  | tripResetKey _ => exact takes_safe k rfl (safe_ite (fun _ => k) fun _ => takeReset_safe k)
  | keyRelease _ =>
    exact takes_safe k rfl (safe_ite (fun _ => k) fun _ => (SameOutputs.setTripUnit (by rfl) (by rfl)).safe k)
  | overrideHoldExpiry _ => exact takes_safe k rfl (safe_ite (fun _ => overrideHold_safe _ k) fun _ => k)
  | trip => exact takes_safe_takeHead k rfl fun f t kt => takeTrip_safe f kt
  | clear => exact takes_safe_takeHead k rfl fun f t kt => takeClear_safe f kt
  | beacon => exact takes_safe_takeHead k rfl fun f t kt => takeBeacon_safe f kt
  | peerTableUpdate => exact takes_safe_frame k rfl hearPeer_frame (by decide)
  | peerQuietExpiry _ _ => exact takes_safe_of_touches k rfl
  | peerLostExpiry _ _ => exact takes_safe_of_touches k rfl
  | beaconTimerExpiry _ =>
    refine takes_safe k rfl (safe_ite (fun _ => ?_) fun _ => k)
    have kb := safe_of_frame k (setBeaconTimer_frame s 0) (by decide)
    unfold sendBeacon
    dsimp only
    split
    · exact kb
    · exact safe_of_frame kb (handOver_frame _ _) (by decide)
  | rosterSet =>
    refine takes_safe_frame k rfl (ps := .accounts :: handing) (fun f t => ?_) (by decide)
    split
    · exact takeRosterSet_frame _ _ t
    · exact .refl _ _
  | rosterRemove =>
    refine takes_safe_frame k rfl (ps := .accounts :: handing) (fun f t => ?_) (by decide)
    split
    · exact takeRosterRemove_frame _ _ t
    · exact .refl _ _
  | permit =>
    refine takes_safe_frame k rfl (ps := .accounts :: handing) (fun f t => ?_) (by decide)
    split
    · exact takePermit_frame _ _ t
    · exact .refl _ _
  | accountRead =>
    refine takes_safe_frame k rfl (ps := handing) (fun f t => ?_) (by decide)
    split
    · exact takeAccountRead_frame _ _ t
    · exact .refl _ _
  | journalRead => exact takes_safe_frame k rfl takeJournalRead_frame (by decide)
  | collect => exact takes_safe_frame k rfl takeCollect_frame (by decide)
  | stopHose => exact takes_safe_takeHead k rfl fun f t kt => takeStopHose_safe f kt
  | statusReq => exact takes_safe_frame k rfl takeStatusReq_frame (by decide)
  | identReq => exact takes_safe_frame k rfl (fun _ t => reply_frame _ _ _ _ _ t) (by decide)
  | restart => exact takes_safe_frame k rfl (fun _ t => reply_frame _ _ _ _ _ t) (by decide)
  | time =>
    refine takes_safe_takeHead k rfl fun f t kt => ?_
    unfold takeTime
    split
    · exact setUnit_safe _ kt rfl
    · exact kt
  | unknownKindFrame =>
    exact takes_safe k rfl (safe_of_line k (takeUnowned_frame s) (by decide) (inConfigFault_congr (takeUnowned_join s)))
  | characterReceived b m g =>
    exact takes_safe k rfl (safe_of_line k (hearCharacter_frame b m g s) (by decide) (hearCharacter_fault b m g s))
  | characterTimeout n =>
    exact takes_safe k rfl (safe_of_line k (loseFrame_frame n s) (by decide) (inConfigFault_congr (loseFrame_join n s)))
  | accessGapReached n =>
    exact takes_safe k rfl (safe_of_line k (reachGap_frame n s) (by decide) (inConfigFault_congr (reachGap_join n s)))
  | leadTimeEnd =>
    refine takes_safe k rfl ?_
    dsimp only
    split
    · exact (SameOutputs.setLink (by rfl)).safe k
    · exact k
  | echoMismatch =>
    refine takes_safe k rfl ?_
    split
    · exact safe_of_line k (failAttempt_frame s) (by decide) (failAttempt_fault s)
    · exact k
  | frameSent =>
    refine takes_safe k rfl ?_
    split
    · exact finishFrame_safe k
    all_goals exact k
  | joinTimerExpiry _ =>
    refine takes_safe k rfl (safe_ite (fun c => ?_) fun _ => k)
    exact safe_of_line k (setLine_frame s _ (by rfl) (by rfl)) (by decide) (by simp [State.inConfigFault, c.1])
  | isolationHoldExpiry _ =>
    refine takes_safe k rfl (safe_ite (fun c => ?_) fun _ => k)
    exact safe_of_line k (setLine_frame s _ (by rfl) (by rfl)) (by decide) (by simp [State.inConfigFault, c.1])
  | powerOn strap image held lostAfter => exact ⟨_, rfl, powerOn_safe strap image held lostAfter s⟩
  | mainPowerLoss => exact ⟨_, rfl, losePower_safe fun _ => k⟩

/-- Settles O4: the outputs stay safe through every command and every millisecond. -/
theorem everyStepKeepsTheOutputsSafe : Obligations.EveryStepKeepsTheOutputsSafe := by
  intro s t k h
  exact step_keeps (fun s cs k => SameOutputs.safe ⟨rfl, rfl, rfl, fun _ => rfl, fun _ => rfl, fun _ => rfl,
    fun _ _ c => c, fun _ c => c⟩ k) (fun s k => (advance_sameOutputs s).safe k) exec_safe k h

end Sys2Proof.Machine
end

section
/-! SUPPORT. What leads from one state to another keeps the deliveries, the collections and the widths (O5 to O7): the
invariants part by part, and one lemma for each update of one item. -/

namespace Sys2Proof.Machine

/-! ### The invariants part by part -/

/-- What the collections' invariant says of one part. -/
def State.ordered (s : State) : Part → Prop
  | .accounts => rosterInOrder s.accounts.roster ∧ permitsInOrder s.accounts.permits
      ∧ ∀ r ∈ s.accounts.roster, windowsInOrder r.windows
  | .books => ∀ k, keysInOrder (s.books.get k).recent
  | .probes => ∀ c, (s.probes.get c).history.length ≤ Config.historyCapacity
  | .tripUnit => originsInOrder s.tripUnit.origins
  | .peers => peersInOrder s.peers ∧ ∀ p ∈ s.peers, tanksInRange p.tanks
  | .link => s.link.buffer.length ≤ Config.receiveCapacity
  | .queue => s.link.ordinary.length ≤ Config.ordinaryCapacity ∧ s.link.reserved.length ≤ Config.reservedCapacity
      ∧ (s.link.ordinary.filter fun e => e.kind == .beacon).length ≤ 1
  | _ => True

/-- A record's counts and fill are within their widths. -/
def MachineRecord.fits (r : MachineRecord) : Prop :=
  r.anomalies.fit ∧ ∀ f, r.lastFill = some f → f.quantity ≤ 4294967295

/-- A channel's counts are within their widths. -/
def Meter.fits (m : Meter) : Prop := netFits m.net ∧ m.phaseErrors ≤ 65535 ∧ m.creep ≤ 4294967295

/-- What the widths' invariant says of one part. -/
def State.fitsAt (s : State) : Part → Prop
  | .counts => s.counts.fit
  | .meters => ∀ h, (s.meters.get h).fits
  | .retained => ∀ h r, s.retained.get h = some r → netFits r.net
  | .hoses => ∀ h, (s.hoses.get h).overrun ≤ 5000
  | .accounts => ∀ r ∈ s.accounts.roster, r.fits
  | .books => ∀ k, (s.books.get k).varianceCount ≤ 65535
  | .unit => s.unit.seconds < 4294967296 ∧ s.unit.millis < 1000
  | _ => True

theorem collectionsKept_iff (s : State) : s.CollectionsKept ↔ ∀ p, s.ordered p := by
  constructor
  · rintro ⟨r, p, k, hs, o, ps, b, q, v, w, ts, be⟩ part
    cases part
    case accounts => exact ⟨r, p, w⟩
    case books => exact k
    case probes => exact hs
    case tripUnit => exact o
    case peers => exact ⟨ps, ts⟩
    case link => exact b
    case queue => exact ⟨q, v, be⟩
    all_goals trivial
  · intro h
    obtain ⟨r, p, w⟩ := h .accounts
    obtain ⟨ps, ts⟩ := h .peers
    obtain ⟨q, v, be⟩ := h .queue
    exact ⟨r, p, h .books, h .probes, h .tripUnit, ps, h .link, q, v, w, ts, be⟩

theorem widthsKept_iff (s : State) : s.WidthsKept ↔ ∀ p, s.fitsAt p := by
  constructor
  · rintro ⟨c, m, r, o, a, v, u⟩ part
    cases part
    case counts => exact c
    case meters => exact m
    case retained => exact r
    case hoses => exact o
    case accounts => exact a
    case books => exact v
    case unit => exact u
    all_goals trivial
  · intro h
    exact ⟨h .counts, h .meters, h .retained, h .hoses, h .accounts, h .books, h .unit⟩

theorem ordered_congr {s t : State} {p : Part} (h : s.sameAt t p) (k : s.ordered p) : t.ordered p := by
  cases p
  case link =>
    have l : { t.link with ordinary := s.link.ordinary, reserved := s.link.reserved } = s.link := h
    have e : t.link.buffer = s.link.buffer := by
      have := congrArg Link.buffer l
      exact this
    show t.link.buffer.length ≤ _
    rw [e]; exact k
  case queue =>
    obtain ⟨ho, hr⟩ := h
    show t.link.ordinary.length ≤ _ ∧ t.link.reserved.length ≤ _ ∧ (t.link.ordinary.filter _).length ≤ 1
    rw [ho, hr]; exact k
  all_goals first | trivial | (simp only [State.sameAt] at h; simp only [State.ordered, h] at k ⊢; exact k)

theorem fitsAt_congr {s t : State} {p : Part} (h : s.sameAt t p) (k : s.fitsAt p) : t.fitsAt p := by
  cases p <;> first | trivial | (simp only [State.sameAt] at h; simp only [State.fitsAt, h] at k ⊢; exact k)

/-! ### What keeps the collections and the widths -/

/-- What leads from `s` to `t` keeps the collections and the widths. -/
structure Shaped (s t : State) : Prop where
  collections : s.CollectionsKept → t.CollectionsKept
  widths : s.WidthsKept → t.WidthsKept

theorem Shaped.refl (s : State) : Shaped s s := ⟨id, id⟩

theorem Shaped.trans {s t u : State} (h : Shaped s t) (k : Shaped t u) : Shaped s u :=
  ⟨fun a => k.collections (h.collections a), fun a => k.widths (h.widths a)⟩

/-- The parts of which neither invariant says anything. -/
def unshaped : List Part := [.creepTimer, .valves, .pumps, .gauging, .journal, .read, .beaconTimer, .choices, .pending]

/-- What touches one part of which an invariant speaks, and keeps there what it says. -/
theorem Shaped.of_part {ps : List Part} {s t : State} (p : Part) (f : sameOutside ps s t)
    (hp : (ps.all fun q => (p :: unshaped).contains q) = true) (ho : s.ordered p → t.ordered p)
    (hf : s.fitsAt p → t.fitsAt p) : Shaped s t := by
  have g : sameOutside (p :: unshaped) s t := f.mono hp
  refine ⟨fun k => (collectionsKept_iff t).mpr fun q => ?_, fun k => (widthsKept_iff t).mpr fun q => ?_⟩
  · have kq := (collectionsKept_iff s).mp k q
    by_cases e : q = p
    · subst e; exact ho kq
    · by_cases u : q ∈ unshaped
      · simp only [unshaped, List.mem_cons, List.not_mem_nil, or_false] at u
        rcases u with rfl | rfl | rfl | rfl | rfl | rfl | rfl | rfl | rfl <;> trivial
      · exact ordered_congr (g q (by simp [e, u])) kq
  · have kq := (widthsKept_iff s).mp k q
    by_cases e : q = p
    · subst e; exact hf kq
    · by_cases u : q ∈ unshaped
      · simp only [unshaped, List.mem_cons, List.not_mem_nil, or_false] at u
        rcases u with rfl | rfl | rfl | rfl | rfl | rfl | rfl | rfl | rfl <;> trivial
      · exact fitsAt_congr (g q (by simp [e, u])) kq

/-- What touches only parts of which neither invariant speaks. -/
theorem Shaped.of_frame {ps : List Part} {s t : State} (f : sameOutside ps s t)
    (hp : (ps.all fun q => unshaped.contains q) = true) : Shaped s t :=
  .of_part .valves f (by
    rw [List.all_eq_true] at hp ⊢
    intro q hq
    have := hp q hq
    simp_all) (fun _ => trivial) fun _ => trivial

theorem Shaped.foldl {α : Type} {f : State → α → State} (hf : ∀ a s, Shaped s (f s a)) (l : List α) (s : State) :
    Shaped s (l.foldl f s) := by
  induction l generalizing s with
  | nil => exact .refl s
  | cons a l ih => exact (hf a s).trans (ih _)

theorem Shaped.ite {s t u : State} {c : Prop} [Decidable c] (h : c → Shaped s t) (k : ¬c → Shaped s u) :
    Shaped s (if c then t else u) := by
  split
  · next a => exact h a
  · next a => exact k a

theorem setMeter_shaped (s : State) (h : HoseIx) (m : Meter) (hm : (s.meters.get h).fits → m.fits) :
    Shaped s (s.setMeter h m) :=
  .of_part .meters (setMeter_frame s h m) rfl (fun _ => trivial) fun k g => by
    show ((s.meters.set h m).get g).fits
    by_cases e : g = h
    · subst e; rw [PerHose.get_set_self]; exact hm (k g)
    · rw [PerHose.get_set_ne _ _ e]; exact k g

theorem setHose_shaped (s : State) (h : HoseIx) (x : Hose) (hx : (s.hoses.get h).overrun ≤ 5000 → x.overrun ≤ 5000) :
    Shaped s (s.setHose h x) :=
  .of_part .hoses (setHose_frame s h x) rfl (fun _ => trivial) fun k g => by
    show ((s.hoses.set h x).get g).overrun ≤ 5000
    by_cases e : g = h
    · subst e; rw [PerHose.get_set_self]; exact hx (k g)
    · rw [PerHose.get_set_ne _ _ e]; exact k g

theorem setValve_shaped (s : State) (h : HoseIx) (v : Valve) : Shaped s (s.setValve h v) :=
  .of_frame (setValve_frame s h v) rfl

theorem setPump_shaped (s : State) (p : PumpIx) (x : Pump) : Shaped s (s.setPump p x) :=
  .of_frame (setPump_frame s p x) rfl

theorem setBook_shaped (s : State) (k : BookIx) (b : Book)
    (ho : keysInOrder (s.books.get k).recent → keysInOrder b.recent)
    (hf : (s.books.get k).varianceCount ≤ 65535 → b.varianceCount ≤ 65535) : Shaped s (s.setBook k b) := by
  refine .of_part .books (setBook_frame s k b) rfl (fun a j => ?_) fun a j => ?_
  · show keysInOrder ((s.books.set k b).get j).recent
    by_cases e : j = k
    · subst e; rw [PerBook.get_set_self]; exact ho (a j)
    · rw [PerBook.get_set_ne _ _ e]; exact a j
  · show ((s.books.set k b).get j).varianceCount ≤ 65535
    by_cases e : j = k
    · subst e; rw [PerBook.get_set_self]; exact hf (a j)
    · rw [PerBook.get_set_ne _ _ e]; exact a j

theorem setProbe_shaped (s : State) (c : ProbeIx) (p : Probe)
    (hp : (s.probes.get c).history.length ≤ Config.historyCapacity → p.history.length ≤ Config.historyCapacity) :
    Shaped s (s.setProbe c p) :=
  .of_part .probes (setProbe_frame s c p) rfl (fun a d => by
    show ((s.probes.set c p).get d).history.length ≤ _
    by_cases e : d = c
    · subst e; rw [PerProbe.get_set_self]; exact hp (a d)
    · rw [PerProbe.get_set_ne _ _ e]; exact a d) fun _ => trivial

theorem setTripUnit_shaped (s : State) (u : TripUnit)
    (ho : originsInOrder s.tripUnit.origins → originsInOrder u.origins) : Shaped s (s.setTripUnit u) :=
  .of_part .tripUnit (setTripUnit_frame s u) rfl ho fun _ => trivial

theorem setPeers_shaped (s : State) (ps : List Peer)
    (h : (peersInOrder s.peers ∧ ∀ p ∈ s.peers, tanksInRange p.tanks) →
      peersInOrder ps ∧ ∀ p ∈ ps, tanksInRange p.tanks) : Shaped s (s.setPeers ps) :=
  .of_part .peers (setPeers_frame s ps) rfl h fun _ => trivial

theorem setCounts_shaped (s : State) (c : Counts) (h : s.counts.fit → c.fit) : Shaped s (s.setCounts c) :=
  .of_part .counts (setCounts_frame s c) rfl (fun _ => trivial) h

theorem setAccounts_shaped (s : State) (a : Accounts)
    (ho : (rosterInOrder s.accounts.roster ∧ permitsInOrder s.accounts.permits
        ∧ ∀ r ∈ s.accounts.roster, windowsInOrder r.windows) →
      rosterInOrder a.roster ∧ permitsInOrder a.permits ∧ ∀ r ∈ a.roster, windowsInOrder r.windows)
    (hf : (∀ r ∈ s.accounts.roster, r.fits) → ∀ r ∈ a.roster, r.fits) : Shaped s (s.setAccounts a) :=
  .of_part .accounts (setAccounts_frame s a) rfl ho hf

theorem setUnit_shaped (s : State) (u : StartUnit)
    (h : s.unit.seconds < 4294967296 ∧ s.unit.millis < 1000 → u.seconds < 4294967296 ∧ u.millis < 1000) :
    Shaped s (s.setUnit u) :=
  .of_part .unit (setUnit_frame s u) rfl (fun _ => trivial) h

theorem setGauging_shaped (s : State) (g : Gauging) : Shaped s (s.setGauging g) := .of_frame (setGauging_frame s g) rfl

theorem setJournal_shaped (s : State) (j : Journal) : Shaped s (s.setJournal j) := .of_frame (setJournal_frame s j) rfl

theorem setRetained_shaped (s : State) (h : HoseIx) (x : Option Retained) (hx : ∀ r, x = some r → netFits r.net) :
    Shaped s (s.setRetained h x) :=
  .of_part .retained (setRetained_frame s h x) rfl (fun _ => trivial) fun k g r hr => by
    have hr : (s.retained.set h x).get g = some r := hr
    by_cases e : g = h
    · subst e; rw [PerHose.get_set_self] at hr; exact hx r hr
    · rw [PerHose.get_set_ne _ _ e] at hr; exact k g r hr

/-- An update of the line's items, with no frame more in the receive buffer. -/
theorem setLine_shaped (s : State) (l : Link) (ho : l.ordinary = s.link.ordinary) (hr : l.reserved = s.link.reserved)
    (hb : s.link.buffer.length ≤ Config.receiveCapacity → l.buffer.length ≤ Config.receiveCapacity) :
    Shaped s (s.setLink l) :=
  .of_part .link (setLine_frame s l ho hr) rfl hb fun _ => trivial

/-- An update of the transmit queue that grows neither list past its capacity and adds no second BEACON. -/
theorem setQueue_shaped (s : State) (o r : List TxEntry)
    (h : s.ordered .queue → o.length ≤ Config.ordinaryCapacity ∧ r.length ≤ Config.reservedCapacity
      ∧ (o.filter fun e => e.kind == .beacon).length ≤ 1) :
    Shaped s (s.setLink { s.link with ordinary := o, reserved := r }) :=
  .of_part .queue (setQueue_frame s o r) rfl h fun _ => trivial

/-! ### What keeps the deliveries -/

/-- The deliveries' invariant where so many reservations stand beside those of the live deliveries: what holds between
the two halves of a close or of an accepted claim. -/
def State.DeliveriesOwing (s : State) (n : Nat) : Prop :=
  (∀ h, s.recordRight h) ∧ s.journal.reserved = s.liveRecords.length + n
    ∧ s.journal.uncollected + s.journal.reserved + s.retainedCount ≤ Config.journalCapacity
    ∧ s.journal.records.length ≤ Config.journalCapacity
    ∧ (s.unit.powered = true → s.inConfigFault = false → s.retainedCount = 0)
    ∧ (s.inConfigFault = true → ∀ e ∈ s.link.ordinary ++ s.link.reserved, e.purpose ≠ .restartReply)

theorem deliveriesOwing_zero (s : State) : s.DeliveriesOwing 0 ↔ s.DeliveriesKept := Iff.rfl

/-- No entry of the queue answers a RESTART. -/
def Link.noRestart (l : Link) : Prop := ∀ e ∈ l.ordinary ++ l.reserved, e.purpose ≠ .restartReply

/-- Two states hold the same deliveries and journal records, and the second has no new RESTART's reply queued in
CONFIG_FAULT. -/
structure SameDeliveries (s t : State) : Prop where
  state : ∀ h, (t.hoses.get h).state = (s.hoses.get h).state
  live : ∀ h, (t.hoses.get h).live = (s.hoses.get h).live
  records : t.journal.records = s.journal.records
  reserved : t.journal.reserved = s.journal.reserved
  retained : t.retained = s.retained
  powered : t.unit.powered = s.unit.powered
  fault : t.inConfigFault = s.inConfigFault
  restarts : s.inConfigFault = true → s.link.noRestart → t.link.noRestart

theorem SameDeliveries.refl (s : State) : SameDeliveries s s :=
  ⟨fun _ => rfl, fun _ => rfl, rfl, rfl, rfl, rfl, rfl, fun _ h => h⟩

theorem SameDeliveries.trans {s t u : State} (h : SameDeliveries s t) (k : SameDeliveries t u) : SameDeliveries s u :=
  ⟨fun g => (k.state g).trans (h.state g), fun g => (k.live g).trans (h.live g), k.records.trans h.records,
    k.reserved.trans h.reserved, k.retained.trans h.retained, k.powered.trans h.powered, k.fault.trans h.fault,
    fun c r => k.restarts (by rw [h.fault]; exact c) (h.restarts c r)⟩

theorem SameDeliveries.liveRecords {s t : State} (k : SameDeliveries s t) : t.liveRecords = s.liveRecords := by
  simp only [State.liveRecords, k.live]

theorem SameDeliveries.retainedCount {s t : State} (k : SameDeliveries s t) : t.retainedCount = s.retainedCount := by
  simp only [State.retainedCount, k.retained]

theorem SameDeliveries.owing {s t : State} {n : Nat} (k : SameDeliveries s t) (h : s.DeliveriesOwing n) :
    t.DeliveriesOwing n := by
  obtain ⟨rr, rv, cap, len, pw, cf⟩ := h
  refine ⟨fun g => ?_, ?_, ?_, ?_, fun a b => ?_, fun c => k.restarts (by rw [← k.fault]; exact c) (cf ?_)⟩
  · have := rr g
    simp only [State.recordRight, k.state, k.live] at this ⊢
    exact this
  · rw [k.reserved, k.liveRecords, rv]
  · rw [k.reserved, k.retainedCount]
    simpa only [Journal.uncollected, k.records] using cap
  · rw [k.records]; exact len
  · rw [k.retainedCount]
    exact pw (by rw [← k.powered]; exact a) (by rw [← k.fault]; exact b)
  · rw [← k.fault]; exact c

theorem SameDeliveries.kept {s t : State} (k : SameDeliveries s t) (h : s.DeliveriesKept) : t.DeliveriesKept :=
  k.owing (n := 0) h

/-- The parts of which the deliveries' invariant speaks. -/
def deliveryParts : List Part := [.hoses, .journal, .retained, .unit, .link, .queue]

theorem sameOutside.deliveries {ps : List Part} {s t : State} (f : sameOutside ps s t)
    (hp : (deliveryParts.all fun p => !ps.contains p) = true) : SameDeliveries s t := by
  have n : ∀ p ∈ deliveryParts, p ∉ ps := fun p hm hc => by
    have := List.all_eq_true.mp hp p hm
    simp [hc] at this
  have hh : t.hoses = s.hoses := f .hoses (n _ (by decide))
  obtain ⟨ho, hr⟩ : t.link.ordinary = s.link.ordinary ∧ t.link.reserved = s.link.reserved :=
    f .queue (n _ (by decide))
  have hu : t.unit = s.unit := f .unit (n _ (by decide))
  exact ⟨fun h => by rw [hh], fun h => by rw [hh], f.records (n _ (by decide)), f.reservations (n _ (by decide)),
    f .retained (n _ (by decide)), by rw [hu], inConfigFault_congr (f.join (n _ (by decide))),
    fun _ h => by unfold Link.noRestart; rw [ho, hr]; exact h⟩

theorem SameDeliveries.foldl {α : Type} {f : State → α → State} (hf : ∀ a s, SameDeliveries s (f s a)) (l : List α)
    (s : State) : SameDeliveries s (l.foldl f s) := by
  induction l generalizing s with
  | nil => exact .refl s
  | cons a l ih => exact (hf a s).trans (ih _)

/-- An update of the link that keeps the join state and adds no RESTART's reply in CONFIG_FAULT. -/
theorem setLink_deliveries (s : State) (l : Link) (hj : l.join = s.link.join)
    (hr : s.inConfigFault = true → s.link.noRestart → l.noRestart) : SameDeliveries s (s.setLink l) :=
  ⟨fun _ => rfl, fun _ => rfl, rfl, rfl, rfl, rfl, inConfigFault_congr hj, hr⟩

theorem setHose_deliveries (s : State) (h : HoseIx) (x : Hose) (hs : x.state = (s.hoses.get h).state)
    (hl : x.live = (s.hoses.get h).live) : SameDeliveries s (s.setHose h x) :=
  ⟨fun g => by by_cases e : g = h <;> simp [e, hs], fun g => by by_cases e : g = h <;> simp [e, hl], rfl, rfl, rfl, rfl,
    rfl, fun _ h => h⟩

/-! ### A hose's record changes -/

theorem countP_change {α : Type} {p q : α → Bool} {a : α} (hpa : p a = false) (hqa : q a = true) :
    ∀ {l : List α}, (∀ b ∈ l, b ≠ a → q b = p b) → l.Nodup → a ∈ l → l.countP q = l.countP p + 1
  | [], _, _, hm => by cases hm
  | b :: l, hs, hd, hm => by
    obtain ⟨hb, hd⟩ := List.nodup_cons.mp hd
    by_cases e : b = a
    · subst e
      have same : l.countP q = l.countP p := List.countP_congr fun c hc => by
        rw [hs c (List.mem_cons_of_mem _ hc) (by rintro rfl; exact hb hc)]
      rw [List.countP_cons, List.countP_cons, same]
      simp [hpa, hqa]
    · have ih := countP_change hpa hqa (fun c hc => hs c (List.mem_cons_of_mem _ hc)) hd
        ((List.mem_cons.mp hm).resolve_left (Ne.symm e))
      rw [List.countP_cons, List.countP_cons, ih, hs b (List.mem_cons_self ..) e]
      omega

theorem liveRecords_length (s : State) :
    s.liveRecords.length = HoseIx.all.countP fun h => (s.hoses.get h).live.isSome :=
  List.countP_eq_length_filter.symm

/-- A hose's record that fits its state. -/
def Hose.recordFits (x : Hose) : Prop :=
  liveState x.state = x.live.isSome ∧ ∀ l, x.live = some l → (l.endReason.isSome ↔ x.state = .ending)

theorem setHose_recordRight {s : State} {h : HoseIx} {x : Hose} (k : ∀ g, s.recordRight g) (hx : x.recordFits)
    (g : HoseIx) : (s.setHose h x).recordRight g := by
  show ((s.hoses.set h x).get g).recordFits
  by_cases e : g = h
  · subst e; rw [PerHose.get_set_self]; exact hx
  · rw [PerHose.get_set_ne _ _ e]; exact k g

theorem liveRecords_set_same {s : State} {h : HoseIx} {x : Hose} (hl : x.live.isSome = (s.hoses.get h).live.isSome) :
    (s.setHose h x).liveRecords.length = s.liveRecords.length := by
  rw [liveRecords_length, liveRecords_length]
  refine List.countP_congr fun g _ => ?_
  by_cases e : g = h <;> simp [e, hl]

theorem liveRecords_set_live {s : State} {h : HoseIx} {x : Hose} (hx : x.live.isSome = true)
    (hl : (s.hoses.get h).live = none) : (s.setHose h x).liveRecords.length = s.liveRecords.length + 1 := by
  rw [liveRecords_length, liveRecords_length]
  exact countP_change (a := h) (by simp [hl]) (by simp [hx]) (fun g _ e => by simp [e]) HoseIx.nodup_all
    (HoseIx.mem_all h)

theorem liveRecords_set_none {s : State} {h : HoseIx} {x : Hose} (hx : x.live = none)
    (hl : (s.hoses.get h).live.isSome = true) : s.liveRecords.length = (s.setHose h x).liveRecords.length + 1 := by
  rw [liveRecords_length, liveRecords_length]
  exact countP_change (a := h) (by simp [hx]) hl (fun g _ e => by simp [e]) HoseIx.nodup_all (HoseIx.mem_all h)

/-- A hose whose record stays one or stays none, and fits its state. -/
theorem setHose_owing {s : State} {h : HoseIx} {x : Hose} {n : Nat} (k : s.DeliveriesOwing n) (hx : x.recordFits)
    (hl : x.live.isSome = (s.hoses.get h).live.isSome) : (s.setHose h x).DeliveriesOwing n := by
  obtain ⟨rr, rv, rest⟩ := k
  exact ⟨setHose_recordRight rr hx, by rw [liveRecords_set_same hl]; exact rv, rest⟩

/-- A hose's record goes: its reservation stands beside (R48). -/
theorem setHose_closes {s : State} {h : HoseIx} {x : Hose} {n : Nat} (k : s.DeliveriesOwing n) (hx : x.recordFits)
    (hn : x.live = none) (hl : (s.hoses.get h).live.isSome = true) : (s.setHose h x).DeliveriesOwing (n + 1) := by
  obtain ⟨rr, rv, rest⟩ := k
  refine ⟨setHose_recordRight rr hx, ?_, rest⟩
  have := liveRecords_set_none hn hl
  show s.journal.reserved = _
  omega

/-- A hose takes a record: a reservation that stood beside is its (R35). -/
theorem setHose_opens {s : State} {h : HoseIx} {x : Hose} {n : Nat} (k : s.DeliveriesOwing (n + 1)) (hx : x.recordFits)
    (hs : x.live.isSome = true) (hl : (s.hoses.get h).live = none) : (s.setHose h x).DeliveriesOwing n := by
  obtain ⟨rr, rv, rest⟩ := k
  refine ⟨setHose_recordRight rr hx, ?_, rest⟩
  have := liveRecords_set_live hs hl
  show s.journal.reserved = _
  omega

/-! ### The journal changes -/

theorem uncollected_write (j : Journal) (r : DeliveryRecord) : (j.write r).uncollected ≤ j.uncollected + 1 := by
  unfold Journal.write Journal.uncollected
  dsimp only
  rw [List.filter_append, List.length_append]
  have : ([r].filter fun r => !r.collected).length ≤ 1 := List.length_filter_le _ [r]
  split
  · omega
  · have := ((List.drop_sublist 1 j.records).filter fun r => !r.collected).length_le
    omega

theorem length_write {j : Journal} (r : DeliveryRecord) (h : j.records.length ≤ Config.journalCapacity) :
    (j.write r).records.length ≤ Config.journalCapacity := by
  unfold Journal.write
  dsimp only
  rw [List.length_append]
  split
  · simp only [List.length_singleton]; omega
  · have : 1 ≤ Config.journalCapacity := by decide
    rw [List.length_drop, List.length_singleton]; omega

/-- A journal that a reservation given back, or a record written over it, leaves so. -/
theorem setJournal_owing {s : State} {j : Journal} {n : Nat} (k : s.DeliveriesOwing (n + 1))
    (hr : j.reserved = s.journal.reserved - 1) (hu : j.uncollected ≤ s.journal.uncollected + 1)
    (hl : s.journal.records.length ≤ Config.journalCapacity → j.records.length ≤ Config.journalCapacity) :
    (s.setJournal j).DeliveriesOwing n := by
  obtain ⟨rr, rv, cap, len, pw, cf⟩ := k
  refine ⟨rr, ?_, ?_, hl len, pw, cf⟩
  · show j.reserved = s.liveRecords.length + n
    omega
  · show j.uncollected + j.reserved + s.retainedCount ≤ _
    omega

theorem journalClose_owing {s : State} (c : Closed) (f : RecordFlags) {n : Nat} (k : s.DeliveriesOwing (n + 1)) :
    (journalClose c f s).DeliveriesOwing n :=
  setJournal_owing k rfl (uncollected_write s.journal.release _) fun h => length_write (j := s.journal.release) _ h

theorem journalRelease_owing {s : State} {n : Nat} (k : s.DeliveriesOwing (n + 1)) :
    (journalRelease s).DeliveriesOwing n :=
  setJournal_owing k rfl (Nat.le_succ _) fun h => h

/-! ### What carries all three -/

/-- What leads from `s` to `t` carries the deliveries, the collections and the widths over. -/
structure Carries (s t : State) : Prop where
  shaped : Shaped s t
  deliveries : s.DeliveriesKept → t.DeliveriesKept

theorem Carries.refl (s : State) : Carries s s := ⟨.refl s, id⟩

theorem Carries.trans {s t u : State} (h : Carries s t) (k : Carries t u) : Carries s u :=
  ⟨h.shaped.trans k.shaped, fun a => k.deliveries (h.deliveries a)⟩

theorem Shaped.carries {s t : State} (h : Shaped s t) (d : SameDeliveries s t) : Carries s t := ⟨h, d.kept⟩

theorem Shaped.carries_frame {ps : List Part} {s t : State} (h : Shaped s t) (f : sameOutside ps s t)
    (hp : (deliveryParts.all fun p => !ps.contains p) = true) : Carries s t := h.carries (f.deliveries hp)

/-- The parts of which no invariant speaks. -/
def uncarried : List Part := [.creepTimer, .valves, .pumps, .gauging, .read, .beaconTimer, .choices, .pending]

theorem Carries.of_frame {ps : List Part} {s t : State} (f : sameOutside ps s t)
    (hp : (ps.all fun q => uncarried.contains q) = true) : Carries s t :=
  have g : sameOutside uncarried s t := f.mono hp
  (Shaped.of_frame g rfl).carries_frame g rfl

theorem Carries.foldl {α : Type} {f : State → α → State} (hf : ∀ a s, Carries s (f s a)) (l : List α) (s : State) :
    Carries s (l.foldl f s) := by
  induction l generalizing s with
  | nil => exact .refl s
  | cons a l ih => exact (hf a s).trans (ih _)

theorem Carries.ite {s t u : State} {c : Prop} [Decidable c] (h : c → Carries s t) (k : ¬c → Carries s u) :
    Carries s (if c then t else u) := by
  split
  · next a => exact h a
  · next a => exact k a

theorem setMeter_carries (s : State) (h : HoseIx) (m : Meter) (hm : (s.meters.get h).fits → m.fits) :
    Carries s (s.setMeter h m) := (setMeter_shaped s h m hm).carries_frame (setMeter_frame s h m) (by decide)

theorem setValve_carries (s : State) (h : HoseIx) (v : Valve) : Carries s (s.setValve h v) :=
  .of_frame (setValve_frame s h v) rfl

theorem setPump_carries (s : State) (p : PumpIx) (x : Pump) : Carries s (s.setPump p x) :=
  .of_frame (setPump_frame s p x) rfl

/-- A hose's items change but for its state and its record. -/
theorem setHose_carries_items (s : State) (h : HoseIx) (x : Hose) (hs : x.state = (s.hoses.get h).state)
    (hl : x.live = (s.hoses.get h).live) (ho : x.overrun = (s.hoses.get h).overrun) : Carries s (s.setHose h x) :=
  (setHose_shaped s h x fun k => by rw [ho]; exact k).carries (setHose_deliveries s h x hs hl)

/-- A hose takes a state that its record fits, its overrun kept. -/
theorem setHose_carries (s : State) (h : HoseIx) (x : Hose) (ho : x.overrun = (s.hoses.get h).overrun)
    (hx : (s.hoses.get h).recordFits → x.recordFits) (hl : x.live.isSome = (s.hoses.get h).live.isSome) :
    Carries s (s.setHose h x) :=
  ⟨setHose_shaped s h x fun k => by rw [ho]; exact k, fun k => setHose_owing (n := 0) k (hx (k.1 h)) hl⟩

theorem setBook_carries (s : State) (k : BookIx) (b : Book)
    (ho : keysInOrder (s.books.get k).recent → keysInOrder b.recent)
    (hf : (s.books.get k).varianceCount ≤ 65535 → b.varianceCount ≤ 65535) : Carries s (s.setBook k b) :=
  (setBook_shaped s k b ho hf).carries_frame (setBook_frame s k b) (by decide)

theorem setProbe_carries (s : State) (c : ProbeIx) (p : Probe)
    (hp : (s.probes.get c).history.length ≤ Config.historyCapacity → p.history.length ≤ Config.historyCapacity) :
    Carries s (s.setProbe c p) := (setProbe_shaped s c p hp).carries_frame (setProbe_frame s c p) (by decide)

theorem setTripUnit_carries (s : State) (u : TripUnit)
    (ho : originsInOrder s.tripUnit.origins → originsInOrder u.origins) : Carries s (s.setTripUnit u) :=
  (setTripUnit_shaped s u ho).carries_frame (setTripUnit_frame s u) (by decide)

theorem setPeers_carries (s : State) (ps : List Peer)
    (h : (peersInOrder s.peers ∧ ∀ p ∈ s.peers, tanksInRange p.tanks) →
      peersInOrder ps ∧ ∀ p ∈ ps, tanksInRange p.tanks) : Carries s (s.setPeers ps) :=
  (setPeers_shaped s ps h).carries_frame (setPeers_frame s ps) (by decide)

theorem setCounts_carries (s : State) (c : Counts) (h : s.counts.fit → c.fit) : Carries s (s.setCounts c) :=
  (setCounts_shaped s c h).carries_frame (setCounts_frame s c) (by decide)

theorem setAccounts_carries (s : State) (a : Accounts)
    (ho : (rosterInOrder s.accounts.roster ∧ permitsInOrder s.accounts.permits
        ∧ ∀ r ∈ s.accounts.roster, windowsInOrder r.windows) →
      rosterInOrder a.roster ∧ permitsInOrder a.permits ∧ ∀ r ∈ a.roster, windowsInOrder r.windows)
    (hf : (∀ r ∈ s.accounts.roster, r.fits) → ∀ r ∈ a.roster, r.fits) : Carries s (s.setAccounts a) :=
  (setAccounts_shaped s a ho hf).carries_frame (setAccounts_frame s a) (by decide)

theorem setGauging_carries (s : State) (g : Gauging) : Carries s (s.setGauging g) :=
  .of_frame (setGauging_frame s g) rfl

theorem setRead_carries (s : State) (r : Option ReadInProgress) :
    Carries s (s.setJournal { s.journal with read := r }) := .of_frame (setRead_frame s r) rfl

/-- An update of the line's items that keeps the queue, the join state and the capacity of the receive buffer. -/
theorem setLine_carries (s : State) (l : Link) (ho : l.ordinary = s.link.ordinary) (hr : l.reserved = s.link.reserved)
    (hj : l.join = s.link.join)
    (hb : s.link.buffer.length ≤ Config.receiveCapacity → l.buffer.length ≤ Config.receiveCapacity) :
    Carries s (s.setLink l) :=
  (setLine_shaped s l ho hr hb).carries
    (setLink_deliveries s l hj fun _ h => by unfold Link.noRestart; rw [ho, hr]; exact h)

/-- An update of the transmit queue alone. -/
theorem setQueue_carries (s : State) (o r : List TxEntry)
    (h : s.ordered .queue → o.length ≤ Config.ordinaryCapacity ∧ r.length ≤ Config.reservedCapacity
      ∧ (o.filter fun e => e.kind == .beacon).length ≤ 1)
    (hn : s.inConfigFault = true → s.link.noRestart → Link.noRestart { s.link with ordinary := o, reserved := r }) :
    Carries s (s.setLink { s.link with ordinary := o, reserved := r }) :=
  (setQueue_shaped s o r h).carries (setLink_deliveries s _ rfl hn)

end Sys2Proof.Machine
end

section
/-! SUPPORT. The shared operations keep the deliveries, the collections and the widths: the hand-over of frames, moves of
hoses, the account table, the books. -/

namespace Sys2Proof.Machine

/-! ### Counts -/

theorem countUp_le (n : Nat) : countUp n ≤ 65535 := Nat.min_le_right _ _

theorem anomalyUp_le (n : Nat) : anomalyUp n ≤ 255 := Nat.min_le_right _ _

theorem countDrop_carries (s : State) : Carries s (countDrop s) :=
  setCounts_carries s _ fun ⟨a, b, c, d, _, f, g, h⟩ => ⟨a, b, c, d, countUp_le _, f, g, h⟩

theorem countMalformed_carries (s : State) : Carries s (countMalformed s) :=
  setCounts_carries s _ fun ⟨a, b, c, d, e, _, g, h⟩ => ⟨a, b, c, d, e, countUp_le _, g, h⟩

/-! ### The transmit queue (R164 to R168) -/

theorem takeFirst_some {p : TxEntry → Bool} {e : TxEntry} : ∀ {l rest : List TxEntry},
    takeFirst p l = some (e, rest) → ∃ a b, l = a ++ e :: b ∧ rest = a ++ b ∧ p e = true ∧ ∀ q ∈ a, p q = false
  | [], _, h => by cases h
  | q :: l, rest, h => by
    unfold takeFirst at h
    by_cases hq : p q = true
    · rw [if_pos hq] at h
      obtain ⟨rfl, rfl⟩ := Prod.mk.inj (Option.some.inj h)
      exact ⟨[], l, rfl, rfl, hq, fun _ hm => by cases hm⟩
    · rw [if_neg hq] at h
      obtain ⟨⟨e', r⟩, hr, he⟩ := Option.map_eq_some_iff.mp h
      obtain ⟨rfl, rfl⟩ := Prod.mk.inj he
      obtain ⟨a, b, hl, hb, hp, ha⟩ := takeFirst_some hr
      exact ⟨q :: a, b, by rw [hl]; rfl, by rw [hb]; rfl, hp, fun x hx => by
        rcases List.mem_cons.mp hx with rfl | hx
        · simpa using hq
        · exact ha x hx⟩

theorem takeFirst_none {p : TxEntry → Bool} : ∀ {l : List TxEntry}, takeFirst p l = none → ∀ q ∈ l, p q = false
  | [], _, _, hm => by cases hm
  | q :: l, h, x, hm => by
    unfold takeFirst at h
    by_cases hq : p q = true
    · rw [if_pos hq] at h; cases h
    · rw [if_neg hq] at h
      rcases List.mem_cons.mp hm with rfl | hm
      · simpa using hq
      · exact takeFirst_none (Option.map_eq_none_iff.mp h) x hm

/-- The BEACONs of a list of entries. -/
abbrev beaconsOf (l : List TxEntry) : Nat := (l.filter fun e => e.kind == .beacon).length

theorem beaconsOf_append (a b : List TxEntry) : beaconsOf (a ++ b) = beaconsOf a + beaconsOf b := by
  simp [beaconsOf]

theorem beaconsOf_cons (e : TxEntry) (b : List TxEntry) :
    beaconsOf (e :: b) = (if e.kind = .beacon then 1 else 0) + beaconsOf b := by
  by_cases h : e.kind = .beacon <;> simp [beaconsOf, h, Nat.add_comm]

theorem beaconsOf_one_le (e : TxEntry) : beaconsOf [e] ≤ 1 := List.length_filter_le _ [e]

/-- A queue whose entries stood in it before, but for one frame that answers no RESTART. -/
theorem noRestart_of_mem {s : State} {f : NewFrame} {l : Link} (hf : f.purpose ≠ .restartReply)
    (hl : ∀ e ∈ l.ordinary ++ l.reserved, e ∈ s.link.ordinary ++ s.link.reserved ∨ e = s.entryOf f)
    (h : s.link.noRestart) : l.noRestart := fun e he => by
  rcases hl e he with k | rfl
  · exact h e k
  · exact hf

section
variable {f : NewFrame} {s : State} (hf : s.inConfigFault = true → f.purpose ≠ .restartReply)
include hf

theorem handReserved_carries : Carries s (handReserved f s) := by
  unfold handReserved
  split
  · next rest hr =>
    obtain ⟨a, b, hl, rfl, -, -⟩ := takeFirst_some hr
    refine setQueue_carries s _ _ (fun ⟨ho, hv, hb⟩ => ⟨ho, ?_, hb⟩) fun c => noRestart_of_mem (hf c) fun e he => ?_
    · rw [hl] at hv
      simp only [List.length_append, List.length_cons, List.length_nil] at hv ⊢
      omega
    · rw [hl]
      simp only [List.mem_append, List.mem_cons, List.not_mem_nil, or_false] at he ⊢
      tauto
  · refine .ite (fun hlt => ?_) fun _ => .refl s
    refine setQueue_carries s _ _ (fun ⟨ho, _, hb⟩ => ⟨ho, ?_, hb⟩) fun c => noRestart_of_mem (hf c) fun e he => ?_
    · rw [List.length_append, List.length_singleton]; exact hlt
    · simp only [List.mem_append, List.mem_cons, List.not_mem_nil, or_false] at he ⊢
      tauto

/-- An ordinary entry more, where one is free. -/
theorem handAppend_carries (hlt : s.link.ordinary.length < Config.ordinaryCapacity)
    (hb : beaconsOf s.link.ordinary ≤ 1 → beaconsOf (s.link.ordinary ++ [s.entryOf f]) ≤ 1) :
    Carries s (s.setLink { s.link with ordinary := s.link.ordinary ++ [s.entryOf f] }) := by
  refine setQueue_carries s _ _ (fun ⟨_, hv, b⟩ => ⟨?_, hv, hb b⟩) fun c => noRestart_of_mem (hf c) fun e he => ?_
  · rw [List.length_append, List.length_singleton]; exact hlt
  · simp only [List.mem_append, List.mem_cons, List.not_mem_nil, or_false] at he ⊢
    tauto

/-- An ordinary entry in the place of another. -/
theorem handReplace_carries {e : TxEntry} {a b : List TxEntry} (hl : s.link.ordinary = a ++ e :: b)
    (hb : beaconsOf s.link.ordinary ≤ 1 → beaconsOf (a ++ b ++ [s.entryOf f]) ≤ 1) :
    Carries s (s.setLink { s.link with ordinary := a ++ b ++ [s.entryOf f] }) := by
  refine setQueue_carries s _ _ (fun ⟨ho, hv, k⟩ => ⟨?_, hv, hb k⟩) fun c => noRestart_of_mem (hf c) fun x hx => ?_
  · rw [hl] at ho
    simp only [List.length_append, List.length_cons, List.length_nil] at ho ⊢
    omega
  · rw [hl]
    simp only [List.mem_append, List.mem_cons, List.not_mem_nil, or_false] at hx ⊢
    tauto

omit hf in
theorem dropNew_carries : Carries s (dropNew f s) :=
  (countDrop_carries s).trans (.of_frame (reportLost_frame _ _) rfl)

theorem handBeacon_carries : Carries s (handBeacon f s) := by
  unfold handBeacon
  split
  · next e rest hr =>
    obtain ⟨a, b, hl, rfl, he, -⟩ := takeFirst_some hr
    refine .ite (fun _ => .refl s) fun _ => handReplace_carries hf hl fun k => ?_
    rw [hl, beaconsOf_append, beaconsOf_cons, if_pos (by simpa using he)] at k
    rw [beaconsOf_append, beaconsOf_append]
    have := beaconsOf_one_le (s.entryOf f)
    omega
  · next hn =>
    refine .ite (fun hlt => handAppend_carries hf hlt fun _ => ?_) fun _ => dropNew_carries
    have none : beaconsOf s.link.ordinary = 0 := by
      rw [beaconsOf, List.length_eq_zero_iff, List.filter_eq_nil_iff]
      intro e he
      simpa using takeFirst_none hn e he
    rw [beaconsOf_append, none]
    have := beaconsOf_one_le (s.entryOf f)
    omega

/-- A frame that is no BEACON adds none. -/
theorem handOrdinary_carries (hk : f.kind ≠ .beacon) : Carries s (handOrdinary f s) := by
  have none : beaconsOf [s.entryOf f] = 0 := by simp [beaconsOf, State.entryOf, hk]
  have put {e : TxEntry} {rest : List TxEntry} {p : TxEntry → Bool} (hr : takeFirst p s.link.ordinary = some (e, rest)) :
      Carries s (reportLost e.purpose (countDrop (s.setLink { s.link with ordinary := rest ++ [s.entryOf f] }))) := by
    obtain ⟨a, b, hl, rfl, -, -⟩ := takeFirst_some hr
    refine ((handReplace_carries hf hl fun k => ?_).trans (countDrop_carries _)).trans
      (.of_frame (reportLost_frame _ _) rfl)
    rw [hl, beaconsOf_append, beaconsOf_cons] at k
    rw [beaconsOf_append, beaconsOf_append, none]
    omega
  unfold handOrdinary
  refine .ite (fun hlt => handAppend_carries hf hlt fun k => ?_) fun _ => .ite (fun _ => ?_) fun _ => dropNew_carries
  · rw [beaconsOf_append, none]; exact k
  · unfold displace
    dsimp only
    split
    · next hr => exact put hr
    · split
      · next hr => exact put hr
      · exact dropNew_carries

theorem handOver_carries : Carries s (handOver f s) := by
  unfold handOver
  refine .ite (fun _ => .refl s) fun _ => ?_
  split
  · exact handReserved_carries hf
  · exact handReserved_carries hf
  · exact handBeacon_carries hf
  · next hb => exact handOrdinary_carries hf hb

end

theorem reply_carries (d : Nat) (k : FrameKind) (b : List Byte) (o : Block) (p : Purpose) (s : State)
    (hp : s.inConfigFault = true → p ≠ .restartReply) : Carries s (reply d k b o p s) := handOver_carries hp

theorem refuse_carries (d k : Nat) (c : RefusalCode) (o : Block) (s : State) : Carries s (refuse d k c o s) :=
  reply_carries _ _ _ _ _ s fun _ => by decide

theorem announce_carries (s : State) : Carries s (announce s) :=
  .ite (fun _ => .refl s) fun _ =>
    (setTripUnit_carries s _ (by exact fun h => h)).trans (handOver_carries (f := s.tripFrame) fun _ h => by cases h)

theorem readNext_carries (s : State) : Carries s (readNext s) := by
  unfold readNext
  split
  · exact .refl s
  · split
    · exact (setRead_carries s _).trans (reply_carries _ _ _ _ _ _ fun _ => by decide)
    · exact (setRead_carries s _).trans (reply_carries _ _ _ _ _ _ fun _ => by decide)

theorem readSent_carries (s : State) : Carries s (readSent s) := by
  unfold readSent
  split
  · exact .refl s
  · exact .ite (fun _ => setRead_carries s _) fun _ => readNext_carries s

/-! ### Valves and pumps -/

theorem restartQuiet_carries (h : HoseIx) (s : State) : Carries s (restartQuiet h s) := setMeter_carries s h _ fun k => k

theorem refreshValve_carries (h : HoseIx) (s : State) : Carries s (refreshValve h s) :=
  .ite (fun _ => (setValve_carries s h _).trans (restartQuiet_carries h _)) fun _ => setValve_carries s h _

theorem refreshValves_carries (s : State) : Carries s (refreshValves s) :=
  .foldl (fun h t => refreshValve_carries h t) _ s

theorem refreshValve_deliveries (h : HoseIx) (s : State) : SameDeliveries s (refreshValve h s) :=
  (refreshValve_frame h s).deliveries (by decide)

theorem returnNormal_carries (s : State) : Carries s (returnNormal s) :=
  (refreshValves_carries s).trans (.foldl (fun p t => .of_frame (resumePump_frame p t) rfl) _ _)

/-! ### Moves of a hose -/

/-- What follows a hose's own items at a move touches nothing of its record. -/
theorem moveHose_follows (h : HoseIx) (st : HoseState) (s : State) :
    Shaped (s.setHose h ((s.hoses.get h).enter st)) (moveHose h st s)
      ∧ SameDeliveries (s.setHose h ((s.hoses.get h).enter st)) (moveHose h st s) := by
  have valve (t : State) : Shaped t (commandStage h st t) ∧ SameDeliveries t (commandStage h st t) :=
    ⟨(setValve_shaped t h _).trans (refreshValve_carries h _).shaped, (commandStage_frame h st t).deliveries (by decide)⟩
  have pump (n : Nat) (t : State) : Shaped t (pumpFollows h n t) ∧ SameDeliveries t (pumpFollows h n t) :=
    ⟨.of_frame (pumpFollows_frame h n t) rfl, (pumpFollows_frame h n t).deliveries (by decide)⟩
  exact ⟨(valve _).1.trans (pump _ _).1, (valve _).2.trans (pump _ _).2⟩

theorem moveHose_shaped (h : HoseIx) (st : HoseState) (s : State) : Shaped s (moveHose h st s) :=
  (setHose_shaped s h ((s.hoses.get h).enter st) fun k => k).trans (moveHose_follows h st s).1

theorem setHose_setHose (s : State) (h : HoseIx) (x y : Hose) : (s.setHose h x).setHose h y = s.setHose h y := by
  have : (s.hoses.set h x).set h y = s.hoses.set h y := PerHose.ext_get fun g => by
    by_cases e : g = h <;> simp [e]
  simp only [State.setHose, this]

/-- A hose takes a record and moves at once: the state after it, but for the valve and the pump that follow. -/
theorem setMove_follows (h : HoseIx) (st : HoseState) (s : State) (x : Hose) :
    Shaped (s.setHose h (x.enter st)) (moveHose h st (s.setHose h x))
      ∧ SameDeliveries (s.setHose h (x.enter st)) (moveHose h st (s.setHose h x)) := by
  have k := moveHose_follows h st (s.setHose h x)
  rwa [State.setHose_hoses, PerHose.get_set_self, setHose_setHose] at k

/-- A move to a state that the hose's record fits. -/
theorem moveHose_carries (h : HoseIx) (st : HoseState) (s : State)
    (hx : (s.hoses.get h).recordFits → ((s.hoses.get h).enter st).recordFits) : Carries s (moveHose h st s) :=
  (setHose_carries s h ((s.hoses.get h).enter st) rfl hx rfl).trans ((moveHose_follows h st s).1.carries (moveHose_follows h st s).2)

/-- From one state of no live delivery to another. -/
theorem moveHose_carries_rest (h : HoseIx) (st : HoseState) (s : State) (h0 : liveState (s.hoses.get h).state = false)
    (h1 : liveState st = false) : Carries s (moveHose h st s) :=
  moveHose_carries h st s fun ⟨a, _⟩ => by
    rw [h0] at a
    have none : (s.hoses.get h).live = none := by simpa using a.symm
    exact ⟨by rw [enter_state, h1]; exact a, fun l hl => by
      have hl : (s.hoses.get h).live = some l := hl
      rw [none] at hl; cases hl⟩

/-- From one state in which a delivery runs to another. -/
theorem moveHose_carries_run (h : HoseIx) (st : HoseState) (s : State) (h0 : runState (s.hoses.get h).state = true)
    (h1 : runState st = true) : Carries s (moveHose h st s) :=
  moveHose_carries h st s fun ⟨a, b⟩ => by
    have notEnding {st : HoseState} (r : runState st = true) : st ≠ .ending := by rintro rfl; cases r
    refine ⟨by rw [enter_state, liveState_run h1]; rw [liveState_run h0] at a; exact a, fun l hl => ?_⟩
    have := b l hl
    simp only [notEnding h0, iff_false] at this
    simp only [enter_state, notEnding h1, iff_false]
    exact this

theorem enterEnding_carries (h : HoseIx) (r : EndReason) (s : State) (hr : runState (s.hoses.get h).state = true) :
    Carries s (enterEnding h r s) := by
  refine (setHose_carries s h _ (by rfl) (fun ⟨a, b⟩ => ?_) (by simp [Hose.enter])).trans
    ((setMove_follows h .ending s _).1.carries (setMove_follows h .ending s _).2)
  rw [liveState_run hr] at a
  refine ⟨by simpa [Hose.enter, liveState] using a, fun l hl => ?_⟩
  obtain ⟨l0, -, rfl⟩ := Option.map_eq_some_iff.mp (show (s.hoses.get h).live.map _ = some l from hl)
  simp [Hose.enter, Live.ending]

theorem endRaw_carries (h : HoseIx) (r : EndReason) (s : State) : Carries s (endRaw h r s) := by
  cases hr : runState (s.hoses.get h).state with
  | true => rw [endRaw_run r hr]; exact enterEnding_carries h r s hr
  | false => rw [endRaw_rest r hr]; exact .refl s

theorem endAll_carries (hs : List HoseIx) (r : EndReason) (s : State) : Carries s (endAll hs r s) :=
  .foldl (fun h t => endRaw_carries h r t) hs s

theorem watchRaw_carries (tank : Nat) (s : State) : Carries s (watchRaw tank s) :=
  .ite (fun _ => endAll_carries _ _ s) fun _ => .refl s

/-! ### The roster (R59) -/

theorem mem_insertRecord {r x : MachineRecord} : ∀ {l : List MachineRecord}, x ∈ insertRecord r l → x = r ∨ x ∈ l
  | [], h => .inl (List.mem_singleton.mp h)
  | q :: l, h => by
    unfold insertRecord at h
    split at h
    · exact List.mem_cons.mp h
    · split at h
      · rcases List.mem_cons.mp h with h | h
        · exact .inl h
        · exact .inr (List.mem_cons_of_mem _ h)
      · rcases List.mem_cons.mp h with rfl | h
        · exact .inr (List.mem_cons_self ..)
        · rcases mem_insertRecord h with h | h
          · exact .inl h
          · exact .inr (List.mem_cons_of_mem _ h)

theorem length_insertRecord_le (r : MachineRecord) : ∀ l : List MachineRecord, (insertRecord r l).length ≤ l.length + 1
  | [] => Nat.le_refl _
  | q :: l => by
    have ih := length_insertRecord_le r l
    unfold insertRecord
    split
    · simp
    · split <;> simp only [List.length_cons] <;> omega

/-- A record that replaces the one of its id in a roster in order leaves its length. -/
theorem length_insertRecord_held {r : MachineRecord} : ∀ {l : List MachineRecord},
    (l.Pairwise fun a b => a.id < b.id) → (∃ q ∈ l, q.id = r.id) → (insertRecord r l).length = l.length
  | [], _, ⟨_, hm, _⟩ => by cases hm
  | q :: l, ho, ⟨x, hm, hx⟩ => by
    obtain ⟨hq, ho⟩ := List.pairwise_cons.mp ho
    unfold insertRecord
    rcases List.mem_cons.mp hm with rfl | hm
    · rw [if_neg (by omega), if_pos hx.symm]
      rfl
    · have := hq x hm
      rw [if_neg (by omega), if_neg (by omega), List.length_cons, List.length_cons,
        length_insertRecord_held ho ⟨x, hm, hx⟩]

theorem insertRecord_inOrder {r : MachineRecord} : ∀ {l : List MachineRecord},
    (l.Pairwise fun a b => a.id < b.id) → (insertRecord r l).Pairwise fun a b => a.id < b.id
  | [], _ => List.pairwise_singleton _ _
  | q :: l, ho => by
    obtain ⟨hq, ho'⟩ := List.pairwise_cons.mp ho
    unfold insertRecord
    split
    · next h =>
      refine List.pairwise_cons.mpr ⟨fun x hx => ?_, ho⟩
      rcases List.mem_cons.mp hx with rfl | hx
      · exact h
      · exact h.trans (hq x hx)
    · split
      · next h => exact List.pairwise_cons.mpr ⟨fun x hx => h ▸ hq x hx, ho'⟩
      · refine List.pairwise_cons.mpr ⟨fun x hx => ?_, insertRecord_inOrder ho'⟩
        rcases mem_insertRecord hx with rfl | hx
        · omega
        · exact hq x hx

theorem find_mem {a : Accounts} {id : Nat} {r : MachineRecord} (h : a.find id = some r) : r ∈ a.roster ∧ r.id = id :=
  ⟨List.mem_of_find?_eq_some h, by simpa using List.find?_some h⟩

/-! ### Service windows (R61) -/

/-- The windows' rule is one on their products. -/
theorem windowsInOrder_congr {ws vs : List ServiceWindow} (h : vs.map (·.product) = ws.map (·.product))
    (k : windowsInOrder ws) : windowsInOrder vs := by
  have nodup (l : List ServiceWindow) :
      (l.Pairwise fun a b => a.product ≠ b.product) ↔ (l.map (·.product)).Nodup := List.pairwise_map.symm
  refine ⟨?_, ?_⟩
  · have := congrArg List.length h
    simp only [List.length_map] at this
    rw [this]; exact k.1
  · rw [nodup, h, ← nodup]; exact k.2

theorem window_product (p : Product) (i t a u q : Nat) : (ServiceWindow.mk p i t a u q).product = p := rfl

theorem moveOn_product (w : ServiceWindow) (h : Nat) : (w.moveOn h).product = w.product := by
  unfold ServiceWindow.moveOn
  exact window_product _ _ _ _ _ _

theorem moveWindow_products (r : MachineRecord) (p : Product) (h : Nat) :
    (r.moveWindow p h).windows.map (·.product) = r.windows.map (·.product) := by
  unfold MachineRecord.moveWindow
  rw [List.map_map]
  refine List.map_congr_left fun w _ => ?_
  by_cases e : w.product = p <;> simp [e, moveOn_product]

/-! ### A record in the roster -/

/-- A change of a record that keeps its id and its windows' products, and its counts and fill within their widths. -/
structure RecordKept (r r' : MachineRecord) : Prop where
  id : r'.id = r.id
  products : r'.windows.map (·.product) = r.windows.map (·.product)
  fits : r.fits → r'.fits

theorem RecordKept.refl (r : MachineRecord) : RecordKept r r := ⟨rfl, rfl, fun h => h⟩

theorem RecordKept.trans {r r' r'' : MachineRecord} (h : RecordKept r r') (k : RecordKept r' r'') : RecordKept r r'' :=
  ⟨k.id.trans h.id, k.products.trans h.products, fun f => k.fits (h.fits f)⟩

theorem RecordKept.anomalies {r : MachineRecord} {a : Anomalies} (ha : r.anomalies.fit → a.fit) :
    RecordKept r { r with anomalies := a } := ⟨rfl, rfl, fun ⟨f, l⟩ => ⟨ha f, l⟩⟩

theorem RecordKept.hours {r : MachineRecord} (h : Option Nat) : RecordKept r { r with lastHours := h } :=
  ⟨rfl, rfl, fun f => f⟩

theorem hoursCheck_recordKept (cfg : Settings) (c : HoseSetting) (r : MachineRecord) (hours : Option Nat) :
    RecordKept r (hoursCheck cfg c r hours).record := by
  unfold hoursCheck
  split
  · exact .refl r
  · exact .refl r
  · exact .refl r
  · split
    · exact .refl r
    · split
      · exact .anomalies fun ⟨a, b, _, d, e⟩ => ⟨a, b, anomalyUp_le _, d, e⟩
      · dsimp only
        split
        all_goals exact .anomalies fun ⟨a, _, c, d, e⟩ => ⟨a, anomalyUp_le _, c, d, e⟩

theorem fuelClose_recordKept (r : MachineRecord) (h q : Nat) (trust : Bool) :
    RecordKept r (fuelClose r h q trust).1 := by
  have burnt (b : Bool) : RecordKept r (if b then
      { r with anomalies := { r.anomalies with highBurn := anomalyUp r.anomalies.highBurn } } else r) := by
    split
    · exact .anomalies fun ⟨_, b, c, d, e⟩ => ⟨anomalyUp_le _, b, c, d, e⟩
    · exact .refl r
  have filled (r1 : MachineRecord) :
      RecordKept r1 { r1 with lastFill := some ⟨h, volumeAt .lastFill q⟩, lastHours := some h } :=
    ⟨rfl, rfl, fun ⟨a, _⟩ => ⟨a, fun f hf => by obtain rfl := Option.some.inj hf; exact volumeAt_le _ _⟩⟩
  unfold fuelClose
  dsimp only
  split
  · exact (burnt _).trans (filled _)
  · exact burnt _

theorem classify_recordKept (r : MachineRecord) (w : ServiceWindow) (h : Nat) : RecordKept r (classify r w h).1 := by
  unfold classify
  split
  · exact .refl r
  · split
    · exact .anomalies fun ⟨a, b, c, d, _⟩ => ⟨a, b, c, d, anomalyUp_le _⟩
    · exact .anomalies fun ⟨a, b, c, _, e⟩ => ⟨a, b, c, anomalyUp_le _, e⟩

theorem moveWindow_recordKept (r : MachineRecord) (p : Product) (h : Nat) : RecordKept r (r.moveWindow p h) :=
  ⟨rfl, moveWindow_products r p h, fun f => f⟩

theorem lubeClose_recordKept (r : MachineRecord) (p : Product) (h : Nat) (trust : Bool) :
    RecordKept r (lubeClose r p h trust).1 := by
  unfold lubeClose
  split
  · split
    · exact ((classify_recordKept r _ h).trans (moveWindow_recordKept _ p h)).trans (.hours _)
    · exact .hours _
  · exact .refl r

theorem closeRecord_recordKept (cfg : Settings) (r : MachineRecord) (c : Closed) (h : Nat) :
    RecordKept r (closeRecord cfg r c h).1 := by
  unfold closeRecord
  split
  · exact fuelClose_recordKept r h _ _
  · exact lubeClose_recordKept r _ h _

/-- A peer's DRAW, of a quantity within its field (R76). -/
theorem drawRecord_recordKept (r : MachineRecord) (d : DrawBody) (h o : Nat) (hq : d.quantity ≤ 4294967295) :
    RecordKept r (drawRecord r d h o) := by
  have keyed (r1 : MachineRecord) :
      RecordKept r1 { r1 with lastHours := some h, lastDraw := some ⟨o, d.sequence⟩ } := ⟨rfl, rfl, fun f => f⟩
  have filled : RecordKept r { r with lastFill := some ⟨h, d.quantity⟩ } :=
    ⟨rfl, rfl, fun ⟨a, _⟩ => ⟨a, fun f hf => by obtain rfl := Option.some.inj hf; exact hq⟩⟩
  unfold drawRecord
  dsimp only
  split
  · exact filled.trans (keyed _)
  · exact (moveWindow_recordKept r _ h).trans (keyed _)

/-- A record put in the place of the one it changes. -/
theorem putRecord_carries {s : State} {r r' : MachineRecord} (hf : s.accounts.find r.id = some r)
    (k : RecordKept r r') : Carries s (putRecord r' s) := by
  obtain ⟨hm, -⟩ := find_mem hf
  refine setAccounts_carries s _ (fun ⟨⟨hl, ho⟩, hp, hw⟩ => ⟨⟨?_, insertRecord_inOrder ho⟩, hp, fun x hx => ?_⟩)
    fun hw x hx => ?_
  · show (insertRecord r' s.accounts.roster).length ≤ _
    rw [length_insertRecord_held ho ⟨r, hm, k.id.symm⟩]; exact hl
  · rcases mem_insertRecord hx with rfl | hx
    · exact windowsInOrder_congr k.products (hw r hm)
    · exact hw x hx
  · rcases mem_insertRecord hx with rfl | hx
    · exact k.fits (hw r hm)
    · exact hw x hx

/-- A record put in where the roster has a place. -/
theorem putRecord_carries_new {s : State} {r : MachineRecord} (hl : s.accounts.roster.length < Config.rosterCapacity)
    (hw : windowsInOrder r.windows) (hf : r.fits) : Carries s (putRecord r s) := by
  refine setAccounts_carries s _ (fun ⟨⟨_, ho⟩, hp, k⟩ => ⟨⟨?_, insertRecord_inOrder ho⟩, hp, fun x hx => ?_⟩)
    fun k x hx => ?_
  · exact (length_insertRecord_le r _).trans hl
  · rcases mem_insertRecord hx with rfl | hx
    · exact hw
    · exact k x hx
  · rcases mem_insertRecord hx with rfl | hx
    · exact hf
    · exact k x hx

theorem find_self {a : Accounts} {id : Nat} {r : MachineRecord} (h : a.find id = some r) : a.find r.id = some r := by
  rw [(find_mem h).2]; exact h

theorem accountClose_carries (c : Closed) (s : State) : Carries s (accountClose c s).2 := by
  unfold accountClose
  split
  · next r h hr _ =>
    split
    · exact .refl s
    · exact putRecord_carries (find_self hr) (closeRecord_recordKept s.cfg r c h)
  · exact .refl s

theorem takeDrawAccount_carries (o : Nat) (d : DrawBody) (s : State) (hq : d.quantity ≤ 4294967295) :
    Carries s (takeDrawAccount o d s) := by
  unfold takeDrawAccount
  split
  · next r h hr _ =>
    exact .ite (fun _ => .refl s) fun _ =>
      .ite (fun _ => putRecord_carries (find_self hr) (drawRecord_recordKept r d h o hq)) fun _ => .refl s
  · exact .refl s

/-- An update of the account table that keeps the roster and takes permits away only. -/
theorem setAccounts_carries_permits (s : State) (a : Accounts) (hr : a.roster = s.accounts.roster)
    (hp : permitsInOrder s.accounts.permits → permitsInOrder a.permits) : Carries s (s.setAccounts a) :=
  setAccounts_carries s a (fun ⟨r, p, w⟩ => by rw [hr]; exact ⟨r, hp p, w⟩) fun w => by rw [hr]; exact w

theorem dropPermit_inOrder {m : Nat} {p : Product} {ps : List Permit} (h : permitsInOrder ps) :
    permitsInOrder (dropPermit m p ps) := ⟨(List.length_filter_le _ _).trans h.1, h.2.filter _⟩

theorem removePermit_carries (m : Nat) (p : Product) (s : State) : Carries s (removePermit m p s) :=
  setAccounts_carries_permits s _ (by rfl) (by exact dropPermit_inOrder)

theorem takeRosterSet_carries (f : Frame) (b : RosterSetBody) (s : State)
    (hw : windowsInOrder (b.windows.map windowOfSetting)) : Carries s (takeRosterSet f b s) := by
  have replaced {r : MachineRecord} (hr : s.accounts.find b.id = some r) : Carries s (putRecord (replaceRecord r b) s) := by
    obtain ⟨hm, -⟩ := find_mem hr
    refine setAccounts_carries s _ (fun ⟨⟨hl, ho⟩, hp, k⟩ => ⟨⟨?_, insertRecord_inOrder ho⟩, hp, fun x hx => ?_⟩)
      fun k x hx => ?_
    · show (insertRecord _ _).length ≤ _
      rw [length_insertRecord_held (r := replaceRecord r b) ho ⟨r, hm, rfl⟩]; exact hl
    · rcases mem_insertRecord hx with rfl | hx
      · exact hw
      · exact k x hx
    · rcases mem_insertRecord hx with rfl | hx
      · exact k r hm
      · exact k x hx
  have refused : Carries s ((s.setAccounts { s.accounts with rosterFull := true }).setCounts
      { s.counts with rosterFull := countUp s.counts.rosterFull }) :=
    (setAccounts_carries_permits s _ (by rfl) (by exact fun h => h)).trans
      (setCounts_carries _ _ fun ⟨a, b, c, d, e, f, g, _⟩ => ⟨a, b, c, d, e, f, g, countUp_le _⟩)
  unfold takeRosterSet
  split
  · next r hr => exact replaced hr
  · refine .ite (fun hl => putRecord_carries_new hl hw ?_) fun _ => ?_
    · exact ⟨by simp [newRecord, Anomalies.fit], fun f hf => by simp [newRecord] at hf⟩
    · exact .ite (fun _ => refused) fun _ => refused.trans (refuse_carries _ _ _ _ _)

theorem takeRosterRemove_carries (f : Frame) (id : Nat) (s : State) : Carries s (takeRosterRemove f id s) := by
  unfold takeRosterRemove
  split
  · refine setAccounts_carries s _ (fun ⟨⟨hl, ho⟩, hp, k⟩ => ⟨⟨?_, ho.filter _⟩, hp, fun x hx => ?_⟩) fun k x hx => ?_
    · exact (List.length_filter_le _ _).trans hl
    · exact k x (List.mem_of_mem_filter hx)
    · exact k x (List.mem_of_mem_filter hx)
  · exact .ite (fun _ => .refl s) fun _ => refuse_carries _ _ _ _ s

theorem takePermit_carries (f : Frame) (b : PermitBody) (s : State) : Carries s (takePermit f b s) := by
  unfold takePermit
  refine .ite (fun hl => ?_) fun _ => refuse_carries _ _ _ _ s
  refine setAccounts_carries_permits s _ (by rfl) fun h => ⟨?_, ?_⟩
  · rw [List.length_append, List.length_singleton]; exact hl
  · refine List.pairwise_append.mpr ⟨(dropPermit_inOrder h).2, List.pairwise_singleton _ _, fun q hq x hx => ?_⟩
    rw [List.mem_singleton] at hx
    subst hx
    rintro ⟨hm, hp⟩
    have := (List.mem_filter.mp hq).2
    simp [hm, hp] at this

/-! ### The books (R93, R99) -/

theorem remember_inOrder {b : Book} {key : Key} (hk : key ∉ b.recent) (h : keysInOrder b.recent) :
    keysInOrder (b.remember key).recent := by
  obtain ⟨hl, hd⟩ := h
  have snoc {l : List Key} (hl : l.length < Config.recentCapacity) (hd : l.Nodup) (hn : key ∉ l) :
      keysInOrder (l ++ [key]) := by
    refine ⟨by rw [List.length_append, List.length_singleton]; exact hl, ?_⟩
    exact List.nodup_append.mpr ⟨hd, List.nodup_singleton _, fun a ha c hc e => by
      rw [List.mem_singleton] at hc; subst hc e; exact hn ha⟩
  unfold Book.remember
  dsimp only
  split
  · next h => exact snoc h hd hk
  · have : 1 ≤ Config.recentCapacity := by decide
    exact snoc (by rw [List.length_drop]; omega) (hd.sublist (List.drop_sublist 1 _))
      fun hm => hk (List.mem_of_mem_drop hm)

theorem bookClose_carries (t q : Nat) (s : State) : Carries s (bookClose t q s) := by
  unfold bookClose
  split
  · exact .refl s
  · exact setBook_carries s _ _ (by exact fun h => h) (by exact fun h => h)

theorem bookDraw_carries (o : Nat) (d : DrawBody) (s : State) : Carries s (bookDraw o d s) := by
  unfold bookDraw
  split
  · exact .refl s
  · refine .ite (fun _ => .refl s) fun hn => ?_
    exact setBook_carries s _ _ (remember_inOrder (by simpa [Book.subtract] using hn)) (by exact fun h => h)

theorem bookReceipt_carries (f : Frame) (r : ReceiptBody) (s : State) : Carries s (bookReceipt f r s) := by
  unfold bookReceipt
  split
  · exact .ite (fun _ => .refl s) fun _ => refuse_carries _ _ _ _ s
  · refine .ite (fun _ => .refl s) fun hn => ?_
    exact setBook_carries s _ _ (remember_inOrder (by simpa [Book.add] using hn)) (by exact fun h => h)

/-- What a LEVEL does to a book's list of keys and its count of variances. -/
theorem gauge_keeps (b : Book) (g tol : Nat) (i : Bool) :
    (b.gauge g tol i).recent = b.recent
      ∧ (b.varianceCount ≤ 65535 → (b.gauge g tol i).varianceCount ≤ 65535) := by
  have last (b' : Book) (i : Bool) : (if i then { b' with state := .aged, ageTimer := none }
        else { b' with state := BookState.current, ageTimer := some 0 } : Book).recent = b'.recent
      ∧ (if i then { b' with state := .aged, ageTimer := none }
        else { b' with state := BookState.current, ageTimer := some 0 } : Book).varianceCount = b'.varianceCount := by
    cases i <;> exact ⟨rfl, rfl⟩
  unfold Book.gauge
  dsimp only
  refine ⟨(last _ _).1.trans ?_, fun h => ?_⟩
  · split
    · split
      · split <;> rfl
      · rfl
    · rfl
    · rfl
  · rw [(last _ _).2]
    split
    · split
      · split
        · exact h
        · exact countUp_le _
      · exact h
    · exact h
    · exact h

theorem bookLevel_carries (t v : Nat) (s : State) : Carries s (bookLevel t v s) := by
  unfold bookLevel
  split
  · exact .refl s
  · exact setBook_carries s _ _ (fun h => by rw [(gauge_keeps _ _ _ _).1]; exact h) (gauge_keeps _ _ _ _).2

theorem age_keeps (b : Book) : b.age.recent = b.recent ∧ b.age.varianceCount = b.varianceCount := by
  unfold Book.age
  split <;> exact ⟨rfl, rfl⟩

/-- An update of every book that keeps its keys and its count of variances. -/
theorem setBooks_carries {s t : State} (f : sameOutside [.books] s t)
    (hk : ∀ k, (t.books.get k).recent = (s.books.get k).recent
      ∧ (t.books.get k).varianceCount = (s.books.get k).varianceCount) : Carries s t :=
  (Shaped.of_part .books f rfl (fun h k => by rw [(hk k).1]; exact h k) fun h k => by
    rw [(hk k).2]; exact h k).carries_frame f (by decide)

theorem ageAllBooks_carries (s : State) : Carries s (ageAllBooks s) :=
  setBooks_carries (ageAllBooks_frame s) fun k => by
    show ((s.books.map Book.age).get k).recent = _ ∧ ((s.books.map Book.age).get k).varianceCount = _
    rw [PerBook.get_map]; exact age_keeps _

theorem ageLostTanks_carries (ts : List Nat) (s : State) : Carries s (ageLostTanks ts s) :=
  setBooks_carries (ageLostTanks_frame ts s) fun k => by
    unfold ageLostTanks
    dsimp only
    rw [PerBook.get_ofIx]
    split
    · exact age_keeps _
    · exact ⟨rfl, rfl⟩

end Sys2Proof.Machine
end

section
/-! SUPPORT. Endings, closes, trips and the commands' own operations keep the deliveries, the collections and the
widths. -/

namespace Sys2Proof.Machine

/-! ### Closes (R48 to R50) -/

theorem learned_le (o obs : Nat) : learned o obs ≤ 5000 := by
  unfold learned
  omega

theorem afterClose_notLive (x : Hose) (f : Option HoseFault) (r : EndReason) : liveState (afterClose x f r) = false := by
  unfold afterClose
  split
  · rfl
  · split
    · rfl
    · split <;> rfl

theorem handOff_shaped (c : Closed) (s : State) : Shaped s (handOff c s) :=
  .ite (fun _ => setJournal_shaped s _) fun _ =>
    (((accountClose_carries c s).shaped.trans (setJournal_shaped _ _)).trans (bookClose_carries _ _ _).shaped).trans
      (handOver_carries fun _ h => by cases h).shaped

/-- A close handed on gives back the reservation that stood beside (R142, R143). -/
theorem handOff_kept (c : Closed) {s : State} (k : s.DeliveriesOwing 1) : (handOff c s).DeliveriesKept := by
  unfold handOff
  dsimp only
  split
  · exact journalRelease_owing k
  · have account := ((accountClose_frame c s).deliveries (by decide)).owing k
    have journal := journalClose_owing c (accountClose c s).1 account
    exact (handOver_carries fun _ h => by cases h).deliveries ((bookClose_carries _ _ _).deliveries journal)

theorem closeRaw_carries (h : HoseIx) (b : Bool) (f : Option HoseFault) (r : EndReason) (s : State) :
    Carries s (closeRaw h b f r s) := by
  unfold closeRaw
  dsimp only
  split
  · exact .refl s
  · next l hl =>
    generalize hx : ({ s.hoses.get h with
      live := none
      meterMark := false
      overrun := if b = true ∧ r = .preset then
          learned l.overrunUsed (observedOverrun (s.hoseCfg h).meterK (l.closeCount.getD (s.meters.get h).net)
            (s.meters.get h).net) else (s.hoses.get h).overrun } : Hose) = x
    have notLive := afterClose_notLive (s.hoses.get h) f r
    generalize afterClose (s.hoses.get h) f r = st at notLive ⊢
    have moved := setMove_follows h st s x
    have overrun : (s.hoses.get h).overrun ≤ 5000 → x.overrun ≤ 5000 := fun k => by
      subst hx
      dsimp only
      split
      · exact learned_le _ _
      · exact k
    have live : (x.enter st).live = none := by subst hx; rfl
    have closed (c : Closed) : Carries s (handOff c (moveHose h st (s.setHose h x))) := by
      refine ⟨((setHose_shaped s h (x.enter st) overrun).trans moved.1).trans (handOff_shaped c _), fun k => ?_⟩
      have fits : (x.enter st).recordFits :=
        ⟨by rw [live, enter_state, notLive]; rfl, fun l' hl' => by rw [live] at hl'; cases hl'⟩
      exact handOff_kept c (moved.2.owing (setHose_closes (n := 0) k fits live (by rw [hl]; rfl)))
    exact .ite (fun _ => closed _) fun _ => (closed _).trans (watchRaw_carries _ _)

theorem settleNew_carries (s0 : State) : ∀ (n : Nat) (s : State), Carries s (settleNew s0 n s)
  | 0, s => .refl s
  | n + 1, s => by
    unfold settleNew
    split
    · exact .refl s
    · exact (closeRaw_carries _ _ _ _ s).trans (settleNew_carries s0 n _)

theorem settling_carries {f : State → State} {s : State} (h : Carries s (f s)) : Carries s (settling f s) :=
  h.trans (settleNew_carries s 6 _)

theorem endingRequest_carries (h : HoseIx) (r : EndReason) (s : State) : Carries s (endingRequest h r s) :=
  settling_carries (endRaw_carries h r s)

theorem deadLevelWatch_carries (tank : Nat) (s : State) : Carries s (deadLevelWatch tank s) :=
  settling_carries (watchRaw_carries tank s)

theorem closeSettled_carries (h : HoseIx) (s : State) : Carries s (closeSettled h s) :=
  .ite (fun _ => settling_carries (closeRaw_carries h _ _ _ s)) fun _ => .refl s

/-! ### The zone (R121 to R124) -/

theorem tripHose_carries (h : HoseIx) (s : State) : Carries s (tripHose h s) := by
  unfold tripHose
  split
  · next e => exact moveHose_carries_rest h _ s (by rw [e]; rfl) rfl
  · exact endRaw_carries h _ s

theorem enterTripped_carries (s : State) : Carries s (enterTripped s) := by
  have pumps (t : State) : Carries t (PumpIx.all.foldl (fun s p => tripPump p s) t) :=
    .foldl (fun p t => .of_frame (tripPump_frame p t) rfl) _ t
  have hoses (t : State) : Carries t (HoseIx.all.foldl (fun s h => tripHose h s) t) :=
    .foldl (fun h t => tripHose_carries h t) _ t
  unfold enterTripped
  exact ((refreshValves_carries s).trans (pumps _)).trans (settling_carries (hoses _))

theorem zoneFollows_carries (s0 s : State) : Carries s (zoneFollows s0 s) :=
  .ite (fun _ => enterTripped_carries s) fun _ => .ite (fun _ => returnNormal_carries s) fun _ => .refl s

theorem withZone_carries {f : State → State} {s : State} (h : Carries s (f s)) : Carries s (withZone f s) :=
  h.trans (zoneFollows_carries s _)

theorem latch_origins (t : TripUnit) (c : Cause) : (t.latch c).origins = t.origins := by
  unfold TripUnit.latch
  dsimp only
  split <;> rfl

theorem raise_carries (c : Cause) (s : State) : Carries s (raise c s) := by
  have latched : Carries s (s.setTripUnit (s.tripUnit.latch c)) :=
    setTripUnit_carries s _ fun k => by rw [latch_origins]; exact k
  exact .ite (fun _ => .refl s) fun _ =>
    (Carries.trans (.ite (fun _ => latched.trans (announce_carries _)) fun _ => latched)) (zoneFollows_carries s _)

/-- An origin in the place of the one of its address, or beside others of other addresses. -/
theorem originsInOrder_update {os : List Origin} (o : Origin) (h : originsInOrder os) :
    originsInOrder (os.map fun q => if q.address = o.address then o else q) := by
  have address (q : Origin) : (if q.address = o.address then o else q).address = q.address := by
    split
    · next e => exact e.symm
    · rfl
  refine ⟨by rw [List.length_map]; exact h.1, List.pairwise_map.mpr (h.2.imp fun {a b} hab => ?_)⟩
  rw [address, address]; exact hab

theorem originsInOrder_append {os : List Origin} {o : Origin} (hl : os.length < Config.originCapacity)
    (hd : os.Pairwise fun a b => a.address ≠ b.address) (hn : ∀ q ∈ os, q.address ≠ o.address) :
    originsInOrder (os ++ [o]) := by
  refine ⟨by rw [List.length_append, List.length_singleton]; exact hl, ?_⟩
  exact List.pairwise_append.mpr ⟨hd, List.pairwise_singleton _ _, fun q hq x hx => by
    rw [List.mem_singleton] at hx; subst hx; exact hn q hq⟩

theorem dropLostOrigin_sublist (s : State) : ∀ {l rest : List Origin}, dropLostOrigin s l = some rest →
    rest.Sublist l ∧ rest.length + 1 = l.length
  | [], _, h => by cases h
  | o :: l, rest, h => by
    unfold dropLostOrigin at h
    split at h
    · obtain rfl := Option.some.inj h
      exact ⟨List.sublist_cons_self _ _, rfl⟩
    · obtain ⟨r, hr, rfl⟩ := Option.map_eq_some_iff.mp h
      obtain ⟨hs, hl⟩ := dropLostOrigin_sublist s hr
      exact ⟨hs.cons_cons o, by simp only [List.length_cons]; omega⟩

theorem enterOrigin_carries (o : Origin) (s : State) : Carries s (enterOrigin o s) := by
  unfold enterOrigin
  dsimp only
  refine .ite (fun _ => setTripUnit_carries s _ (by exact originsInOrder_update o)) fun hn => ?_
  have others : ∀ q ∈ s.tripUnit.origins, q.address ≠ o.address := by simpa using hn
  refine .ite (fun hl => setTripUnit_carries s _ fun k => originsInOrder_append hl k.2 others) fun _ => ?_
  split
  · next rest hr =>
    obtain ⟨hs, hl⟩ := dropLostOrigin_sublist s hr
    refine setTripUnit_carries s _ fun k => originsInOrder_append ?_ (k.2.sublist hs) fun q hq => others q (hs.subset hq)
    have := k.1
    omega
  · exact countMalformed_carries s

theorem dropOrigins_carries (p : Origin → Bool) (s : State) : Carries s (dropOrigins p s) :=
  setTripUnit_carries s _ fun k => ⟨(List.length_filter_le _ _).trans k.1, k.2.filter _⟩

/-! ### Faults (R15, R21, R46, R47) -/

theorem stuckOut_carries {f : State → State} {s : State} (h : Carries s (f s)) : Carries s (stuckOut f s) :=
  (settling_carries h).trans (raise_carries _ _)

theorem valveStuck_carries (h : HoseIx) (s : State) : Carries s (valveStuck h s) := by
  unfold valveStuck
  split
  case h_1 => next e =>
    exact stuckOut_carries ((enterEnding_carries h _ s (by rw [e]; rfl)).trans (closeRaw_carries h _ _ _ _))
  case h_2 => exact stuckOut_carries (closeRaw_carries h _ _ _ s)
  case h_3 | h_4 | h_5 => exact .refl s
  all_goals
    next e => exact stuckOut_carries (moveHose_carries_rest h _ s (by rw [e]; rfl) rfl)

theorem checkStuck_carries (h : HoseIx) (s : State) : Carries s (checkStuck h s) :=
  .ite (fun _ => (setValve_carries s h _).trans (valveStuck_carries h _)) fun _ => .refl s

theorem markMeter_carries (h : HoseIx) (s : State) : Carries s (markMeter h s) :=
  setHose_carries_items s h _ (by rfl) (by rfl) (by rfl)

theorem meterFault_carries (h : HoseIx) (s : State) : Carries s (meterFault h s) := by
  unfold meterFault
  split
  case h_1 | h_2 | h_3 => exact (markMeter_carries h s).trans (endingRequest_carries h _ _)
  case h_4 => exact markMeter_carries h s
  case h_5 => exact .refl s
  all_goals
    next e => exact moveHose_carries_rest h _ s (by rw [e]; rfl) rfl

theorem faultPump_carries (p : PumpIx) (s : State) : Carries s (faultPump p s) :=
  (setPump_carries s p _).trans (settling_carries (endAll_carries _ _ _))

theorem exitPriming_carries (h : HoseIx) (s : State) : Carries s (exitPriming h s) := by
  unfold exitPriming
  dsimp only
  split
  · next e _ =>
    exact .ite (fun _ => endingRequest_carries h _ s) fun _ => .ite (fun _ => endingRequest_carries h _ s) fun _ =>
      .ite (fun _ => moveHose_carries_run h _ s (by rw [e]; rfl) rfl)
        fun _ => moveHose_carries_run h _ s (by rw [e]; rfl) rfl
  · exact .refl s

/-! ### Taking a frame (R157) -/

theorem dropHead_carries (s : State) : Carries s (dropHead s) :=
  setLine_carries s _ (by rfl) (by rfl) (by rfl) fun k => by
    rw [List.length_drop]; omega

theorem markHead_carries (b : Block) (s : State) : Carries s (markHead b s) := by
  unfold markHead
  split
  · exact .refl s
  · next hb => exact setLine_carries s _ (by rfl) (by rfl) (by rfl) fun k => by rw [hb] at k; exact k

theorem markHead_join (b : Block) (s : State) : (markHead b s).link.join = s.link.join := by
  unfold markHead; split <;> rfl

/-- A frame's effect is asked for only where the block is one of the frame's owners. -/
theorem takeHead_carries {b : Block} {ks : List FrameKind} {f : Frame → State → State} {s : State}
    (hf : ∀ k a t, k ∈ ks → b ∈ ownersOf k a.src t.inConfigFault → Carries t (f a t)) :
    Carries s (takeHead b ks f s) := by
  unfold takeHead
  split
  · exact .refl s
  · split
    · exact .refl s
    · next k _ =>
      refine .ite (fun _ => .refl s) fun hk => ?_
      split
      · exact (dropHead_carries s).trans (countMalformed_carries _)
      · exact (dropHead_carries s).trans (refuse_carries _ _ _ _ _)
      · refine .ite (fun _ => dropHead_carries s) fun _ => .ite (fun _ => .refl s) fun ho => ?_
        simp only [Bool.or_eq_true, Bool.not_eq_true', not_or, Bool.not_eq_false] at ho
        have owner := List.contains_iff_mem.mp ho.1
        refine Carries.trans (.ite (fun _ => dropHead_carries s) fun _ => markHead_carries b s)
          (hf k _ _ (by simpa using hk) ?_)
        split
        · exact owner
        · rwa [inConfigFault_congr (markHead_join b s)]

theorem takeUnowned_carries (s : State) : Carries s (takeUnowned s) := by
  have counted : Carries s (countMalformed (dropHead s)) := (dropHead_carries s).trans (countMalformed_carries _)
  unfold takeUnowned
  split
  · exact .refl s
  · split
    · split
      · exact (dropHead_carries s).trans (refuse_carries _ _ _ _ _)
      · exact counted
    · exact counted
    · exact .refl s

/-! ### Metering -/

theorem seeMotion_carries (h : HoseIx) (s : State) : Carries s (seeMotion h s) :=
  (restartQuiet_carries h s).trans (setHose_carries_items _ h _ (by rfl) (by rfl) (by rfl))

theorem afterLiveStep_carries (h : HoseIx) (s : State) : Carries s (afterLiveStep h s) := by
  have ends (r : EndReason) (tank : Nat) (t : State) : Carries t (deadLevelWatch tank (endingRequest h r t)) :=
    (endingRequest_carries h r t).trans (deadLevelWatch_carries tank _)
  unfold afterLiveStep
  dsimp only
  split
  · exact .refl s
  · refine .ite (fun _ => .ite (fun _ => ?_) fun _ => ends _ _ s) fun _ => .ite (fun c => ?_) fun _ =>
      deadLevelWatch_carries _ s
    · exact (Carries.of_frame (setChoices_frame s _) rfl).trans (ends _ _ _)
    · exact (moveHose_carries_run h _ s (by rw [c.1]; rfl) rfl).trans (deadLevelWatch_carries _ _)

theorem clampNet_fits (n : Int) : netFits (clampNet n) := by
  unfold netFits clampNet
  omega

theorem creepAfter_le {n : Nat} (forward : Bool) (h : n ≤ 4294967295) : creepAfter n forward ≤ 4294967295 := by
  unfold creepAfter
  split
  · exact Nat.min_le_right _ _
  · omega

theorem creepStep_carries (h : HoseIx) (forward : Bool) (s : State) : Carries s (creepStep h forward s) := by
  have crept : Carries s (s.setMeter h { s.meters.get h with creep := creepAfter (s.meters.get h).creep forward }) :=
    setMeter_carries s h _ fun ⟨a, b, c⟩ => ⟨a, b, creepAfter_le _ c⟩
  exact .ite (fun _ => crept.trans (raise_carries _ _)) fun _ => crept

theorem takeStep_carries (h : HoseIx) (forward : Bool) (s : State) : Carries s (takeStep h forward s) := by
  have counted (n : Int) : Carries s (s.setMeter h { s.meters.get h with window := n }) :=
    setMeter_carries s h _ (by exact fun k => k)
  have net (t : State) (n : Int) : Carries t (t.setMeter h { t.meters.get h with net := clampNet n }) :=
    setMeter_carries t h _ fun ⟨_, b, c⟩ => ⟨clampNet_fits _, b, c⟩
  exact .ite (fun _ => ((counted _).trans (net _ _)).trans (afterLiveStep_carries h _)) fun _ =>
    (counted _).trans (creepStep_carries h forward _)

theorem takeInvalid_carries (h : HoseIx) (s : State) : Carries s (takeInvalid h s) := by
  have counted : Carries s (s.setMeter h { s.meters.get h with phaseErrors := countUp (s.meters.get h).phaseErrors }) :=
    setMeter_carries s h _ fun ⟨a, _, c⟩ => ⟨a, countUp_le _, c⟩
  exact .ite (fun _ => counted.trans (meterFault_carries h _)) fun _ => counted

theorem takeMove_carries (h : HoseIx) (m : PhaseMove) (s : State) : Carries s (takeMove h m s) := by
  cases m with
  | none => exact .refl s
  | forward => exact (seeMotion_carries h s).trans (takeStep_carries h true _)
  | reverse => exact (seeMotion_carries h s).trans (takeStep_carries h false _)
  | invalid => exact (seeMotion_carries h s).trans (takeInvalid_carries h _)

theorem phaseChange_carries (h : HoseIx) (la : Bool) (ha : Nat) (lb : Bool) (hb : Nat) (s : State) :
    Carries s (phaseChange h la ha lb hb s) := by
  have levels (a b : Option Bool) : Carries s (s.setMeter h { s.meters.get h with levelA := a, levelB := b }) :=
    setMeter_carries s h _ (by exact fun k => k)
  unfold phaseChange
  dsimp only
  refine .ite (fun _ => .refl s) fun _ => ?_
  split
  · exact (levels _ _).trans (takeMove_carries h _ _)
  · exact levels _ _

theorem setMeters_carries {s t : State} {ps : List Part} (f : sameOutside ps s t)
    (hp : (ps.all fun q => (Part.meters :: uncarried).contains q) = true)
    (hm : ∀ h, (s.meters.get h).fits → (t.meters.get h).fits) : Carries s t :=
  have g : sameOutside (.meters :: uncarried) s t := f.mono hp
  (Shaped.of_part .meters g rfl (fun _ => trivial) fun k h => hm h (k h)).carries_frame g rfl

theorem clearedCreep_fits {m : Meter} (h : m.fits) : Meter.fits { m with creep := 0 } :=
  ⟨h.1, h.2.1, Nat.zero_le _⟩

theorem clearCreep_carries (s : State) : Carries s (clearCreep s) :=
  setMeters_carries (clearCreep_frame s) rfl fun h k => by
    simpa [clearCreep] using clearedCreep_fits k

theorem restartCreepWindow_carries (s : State) : Carries s (clearCreep { s with creepTimer := 0 }) :=
  setMeters_carries (restartCreepWindow_frame s) rfl fun h k => by
    simpa [clearCreep] using clearedCreep_fits k

theorem takeRate_carries (h : HoseIx) (s : State) : Carries s (takeRate h s) := by
  have closed : Carries s (closeRateWindow h s) := setMeter_carries s h _ (by exact fun k => k)
  exact .ite (fun _ => closed.trans (raise_carries _ _)) fun _ => closed

/-! ### Driving -/

theorem takeValveProof_carries (h : HoseIx) (closed : Bool) (s : State) : Carries s (takeValveProof h closed s) :=
  .ite (fun _ => .refl s) fun _ => .ite (fun _ => setValve_carries s h _) fun _ =>
    (setValve_carries s h _).trans (checkStuck_carries h _)

theorem runPump_carries (p : PumpIx) (s : State) : Carries s (runPump p s) :=
  (setPump_carries s p _).trans (.foldl (fun h t => exitPriming_carries h t) _ _)

/-! ### Deliveries -/

theorem takeHook_carries (h : HoseIx) (level : Hook) (s : State) : Carries s (takeHook h level s) := by
  have hook (o : Option Hook) : Carries s (s.setHose h { s.hoses.get h with hook := o }) :=
    setHose_carries_items s h _ (by rfl) (by rfl) (by rfl)
  have first (t : State) : Carries t (firstHook h t) := by
    unfold firstHook
    split
    · next e _ => exact .ite (fun _ => .refl t) fun _ => moveHose_carries_rest h _ t (by rw [e]; rfl) rfl
    · exact .refl t
  have lifted (t : State) : Carries t (lift h t) := by
    unfold lift
    split
    · next e => exact .ite (fun _ => .refl t) fun _ => moveHose_carries_rest h _ t (by rw [e]; rfl) rfl
    · exact .refl t
  have hung (t : State) : Carries t (hang h t) := by
    unfold hang
    refine .ite (fun _ => .refl t) fun _ => ?_
    split
    case h_2 | h_3 | h_4 => exact endingRequest_carries h _ t
    case h_7 | h_8 | h_9 => exact .refl t
    all_goals
      next e => exact moveHose_carries_rest h _ t (by rw [e]; rfl) rfl
  unfold takeHook
  dsimp only
  split
  · exact (hook _).trans (first _)
  · exact (hook _).trans (lifted _)
  · exact (hook _).trans (hung _)
  · exact .refl s
  · exact .refl s

/-- A reservation more, where a place is free and no delivery is retained (R35, R139). -/
theorem reserve_owing {s : State} (k : s.DeliveriesKept) (hp : s.unit.powered = true) (hf : s.inConfigFault = false)
    (hj : s.journal.full = false) :
    (s.setJournal { s.journal with reserved := s.journal.reserved + 1 }).DeliveriesOwing 1 := by
  obtain ⟨rr, rv, cap, len, pw, cf⟩ := k
  refine ⟨rr, ?_, ?_, len, pw, cf⟩
  · show s.journal.reserved + 1 = s.liveRecords.length + 1
    rw [rv]
  · show s.journal.uncollected + (s.journal.reserved + 1) + s.retainedCount ≤ _
    rw [pw hp hf]
    simp only [Journal.full, decide_eq_false_iff_not, not_le] at hj
    omega

theorem acceptClaim_carries (h : HoseIx) (machine : Nat) (hours : Option Nat) (v : Service) (limit : Nat)
    (fl : RecordFlags) (s : State) (hp : s.unit.powered = true) (hf : s.inConfigFault = false)
    (hj : s.journal.full = false) (hw : (s.hoses.get h).state = .waiting) :
    Carries s (acceptClaim h machine hours v limit fl s) := by
  have entered (t : State) (m : Meter) (x : Hose) (hm : (t.meters.get h).fits → m.fits)
      (hx : x.overrun = (t.hoses.get h).overrun) (hl : ∃ l, x.live = some l ∧ l.endReason = none)
      (ht : (t.hoses.get h).state = .waiting) :
      Shaped t (moveHose h .priming ((t.setMeter h m).setHose h x))
        ∧ (t.DeliveriesOwing 1 → (moveHose h .priming ((t.setMeter h m).setHose h x)).DeliveriesKept) := by
    have f := setMove_follows h .priming (t.setMeter h m) x
    refine ⟨((setMeter_shaped t h m hm).trans (setHose_shaped _ h _ fun k => ?_)).trans f.1, fun k => ?_⟩
    · show x.overrun ≤ 5000
      rw [hx]; exact k
    · obtain ⟨l, hxl, hxr⟩ := hl
      have km := ((setMeter_frame t h m).deliveries (by decide)).owing k
      refine f.2.owing (n := 0) (setHose_opens km ⟨?_, fun l' hl' => ?_⟩ ?_ ?_)
      · show liveState .priming = x.live.isSome
        rw [hxl]; rfl
      · have hl' : x.live = some l' := hl'
        rw [hxl] at hl'
        obtain rfl := Option.some.inj hl'
        rw [hxr, enter_state]
        simp
      · show x.live.isSome = true
        rw [hxl]; rfl
      · have a := (k.1 h).1
        rw [ht] at a
        simpa [liveState] using a.symm
  have left (t : State) (o : Option PumpIx) : Carries t (match o with
      | some p => if (t.pumps.get p).state = PumpState.running then exitPriming h t else t
      | none => t) := by
    cases o with
    | none => exact .refl t
    | some p => exact .ite (fun _ => exitPriming_carries h t) fun _ => .refl t
  have claimed (t : State) (m : Meter) (x : Hose) (hm : (t.meters.get h).fits → m.fits)
      (hx : x.overrun = (t.hoses.get h).overrun) (hl : ∃ l, x.live = some l ∧ l.endReason = none)
      (ht : (t.hoses.get h).state = .waiting) (hs : Shaped s t) (hd : s.DeliveriesKept → t.DeliveriesOwing 1) :
      Carries s (moveHose h .priming ((t.setMeter h m).setHose h x)) :=
    have e := entered t m x hm hx hl ht
    ⟨hs.trans e.1, fun k => e.2 (hd k)⟩
  have cleared {m : Meter} (k : m.fits) : Meter.fits { m with net := 0, creep := 0, phaseErrors := 0, quiet := 0 } :=
    ⟨by unfold netFits; dsimp only; omega, Nat.zero_le _, Nat.zero_le _⟩
  unfold acceptClaim
  dsimp only
  refine Carries.trans ?_ (left _ _)
  cases v with
  | record r =>
    exact claimed _ _ _ cleared rfl (by exact ⟨_, rfl, rfl⟩) hw (setJournal_shaped s _)
      fun k => reserve_owing k hp hf hj
  | permit p =>
    exact claimed _ _ _ cleared rfl (by exact ⟨_, rfl, rfl⟩) hw
      ((setJournal_shaped s _).trans (removePermit_carries _ _ _).shaped)
      fun k => ((removePermit_frame _ _ _).deliveries (by decide)).owing (reserve_owing k hp hf hj)

theorem claim_carries (h : HoseIx) (machine : Nat) (hours : Option Nat) (s : State) (hp : s.unit.powered = true)
    (hw : (s.hoses.get h).state = .waiting) : Carries s (claim h machine hours s) := by
  have refused (r : RefusalReason) (t : State) (ht : (t.hoses.get h).state = .waiting) : Carries t (refuseClaim h r t) :=
    moveHose_carries_rest h _ t (by rw [ht]; rfl) rfl
  have stock (v : Service) (b : Bool) (a : Nat) (fl : RecordFlags) (t : State) (tp : t.unit.powered = true)
      (tf : t.inConfigFault = false) (tj : t.journal.full = false) (tw : (t.hoses.get h).state = .waiting) :
      Carries t (claimStock h machine hours v b a fl t) := by
    unfold claimStock
    dsimp only
    split
    · exact refused _ t tw
    · exact .ite (fun _ => refused _ t tw) fun _ => .ite (fun _ => refused _ t tw)
        fun _ => acceptClaim_carries h _ _ _ _ _ t tp tf tj tw
  have account (hf : s.inConfigFault = false) (hj : s.journal.full = false) :
      Carries s (claimAccount h machine hours s) := by
    unfold claimAccount
    dsimp only
    split
    · exact refused _ s hw
    · exact stock _ _ _ _ s hp hf hj hw
    · next r hr =>
      have kept : Carries s (putRecord (hoursCheck s.cfg (s.hoseCfg h) r hours).record s) := by
        refine putRecord_carries ?_ (hoursCheck_recordKept s.cfg _ r hours)
        unfold lookup at hr
        split at hr
        · split at hr
          · split at hr <;> cases hr
          · next hfind _ => cases hr; exact find_self hfind
        · cases hr
        · cases hr
      refine kept.trans ?_
      split
      · exact refused _ _ hw
      · exact stock _ _ _ _ _ hp hf hj hw
  unfold claim
  refine .ite (fun _ => refused _ s hw) fun hjoin => .ite (fun _ => refused _ s hw) fun _ =>
    .ite (fun _ => refused _ s hw) fun hj => account ?_ (by simpa using hj)
  have : s.link.join ≠ .configFault := by
    rintro e
    rw [e] at hjoin
    exact hjoin ⟨by decide, by decide⟩
  simpa [State.inConfigFault] using this

theorem refreshTag_carries (h : HoseIx) (machine : Nat) (s : State) : Carries s (refreshTag h machine s) :=
  .ite (fun _ => setHose_carries_items s h _ (by rfl) (by rfl) (by rfl)) fun _ => .refl s

theorem takeTag_carries (h : HoseIx) (machine : Nat) (hours : Option Nat) (s : State) (hp : s.unit.powered = true) :
    Carries s (takeTag h machine hours s) := by
  unfold takeTag
  split
  case h_1 => next e => exact claim_carries h machine hours s hp e
  case h_5 => exact .refl s
  case h_2 | h_3 | h_4 => exact refreshTag_carries h machine s

theorem takeStopHose_carries (f : Frame) (s : State) : Carries s (takeStopHose f s) := by
  unfold takeStopHose
  split
  · split
    · exact .ite (fun _ => endingRequest_carries _ _ s) fun _ => refuse_carries _ _ _ _ s
    · exact .refl s
  · exact .refl s

/-! ### Tanks -/

theorem takeLevel_carries (l : LevelBody) (s : State) : Carries s (takeLevel l s) :=
  .ite (fun _ => .refl s) fun _ => .ite (fun _ => setGauging_carries s _) fun _ =>
    (bookLevel_carries _ _ s).trans (deadLevelWatch_carries _ _)

theorem setProbes_carries (s : State) (ps : PerProbe Probe)
    (h : ∀ c, (ps.get c).history = (s.probes.get c).history) : Carries s { s with probes := ps } :=
  (Shaped.of_part .probes (setProbes_frame s ps) rfl (fun k c => by
    show (ps.get c).history.length ≤ _
    rw [h]; exact k c) fun _ => trivial).carries_frame (setProbes_frame s ps) (by decide)

theorem startScans_carries (s : State) : Carries s (startScans s) :=
  .ite (fun _ => setGauging_carries s _) fun _ => (setGauging_carries s _).trans (setProbes_carries _ _ fun c => by
    rw [PerProbe.get_ofIx]
    unfold openGate
    split <;> rfl)

theorem overfillTest_carries (c : ProbeIx) (n : Nat) (s : State) : Carries s (overfillTest c n s) := by
  have flag (b : Bool) : Carries s (s.setProbe c { s.probes.get c with overfill := b }) :=
    setProbe_carries s c _ (by exact fun k => k)
  exact .ite (fun _ => (flag true).trans (raise_carries _ _)) fun _ => flag false

theorem trackingScan_carries (c : ProbeIx) (s : State) : Carries s (trackingScan c s) :=
  (((bookLevel_carries _ _ s).trans (deadLevelWatch_carries _ _)).trans (overfillTest_carries c _ _)).trans
    (handOver_carries fun _ h => by cases h)

theorem length_appendHeight {hs : List Nat} (n : Nat) (h : hs.length ≤ Config.historyCapacity) :
    (appendHeight hs n).length ≤ Config.historyCapacity := by
  have : 1 ≤ Config.historyCapacity := by decide
  unfold appendHeight
  rw [List.length_append, List.length_singleton]
  split
  · omega
  · rw [List.length_drop]; omega

theorem scan_carries (c : ProbeIx) (n : Nat) (s : State) : Carries s (scan c n s) := by
  have one : 1 ≤ Config.historyCapacity := by decide
  have taken (p : Probe) (hp : p.history = appendHeight (s.probes.get c).history (heightOf (s.cfg.probes.get c) n)) :
      Carries s (s.setProbe c p) := setProbe_carries s c p fun k => by rw [hp]; exact length_appendHeight _ k
  unfold scan
  dsimp only
  refine .ite (fun _ => ?_) fun _ => setProbe_carries s c _ fun _ => Nat.zero_le _
  split
  · exact setProbe_carries s c _ fun _ => one
  · exact (taken _ rfl).trans (trackingScan_carries c _)
  · exact .ite (fun _ => (taken _ rfl).trans (trackingScan_carries c _)) fun _ => taken _ rfl

/-! ### The trip unit -/

/-- An update of the trip unit that keeps the origin list. -/
theorem setTripUnit_carries_items (s : State) (u : TripUnit) (h : u.origins = s.tripUnit.origins) :
    Carries s (s.setTripUnit u) := setTripUnit_carries s u fun k => by rw [h]; exact k

theorem confirmInput_carries (i : InputIx) (b : Bool) (s : State) : Carries s (confirmInput i b s) := by
  unfold confirmInput
  dsimp only
  split
  · exact .refl s
  · exact .ite (fun _ => (setTripUnit_carries_items s _ (by rfl)).trans (raise_carries _ _))
      fun _ => setTripUnit_carries_items s _ (by rfl)

theorem takeButton_carries (b : Bool) (s : State) : Carries s (takeButton b s) :=
  .ite (fun _ => (setTripUnit_carries_items s _ (by rfl)).trans (raise_carries _ _))
    fun _ => setTripUnit_carries_items s _ (by rfl)

theorem startState_notLive (b : Bool) (o : Option Hook) : liveState (startState b o) = false := by
  unfold startState
  split
  · rfl
  · split <;> rfl

theorem returnToService_carries (h : HoseIx) (s : State) : Carries s (returnToService h s) := by
  have cleared : Carries s (s.setMeter h { s.meters.get h with phaseErrors := 0 }) :=
    setMeter_carries s h _ fun ⟨a, _, c⟩ => ⟨a, Nat.zero_le _, c⟩
  unfold returnToService
  split
  · next e =>
    refine .ite (fun _ => cleared.trans ?_) fun _ => .refl s
    exact moveHose_carries_rest h _ _ (by rw [State.setMeter_hoses, e]; rfl) (startState_notLive _ _)
  · exact .refl s

theorem endEpisode_carries (s : State) : Carries s (endEpisode s) := by
  have ended : Carries s (s.setTripUnit { s.tripUnit with episode := none, announced := false }) :=
    setTripUnit_carries_items s _ (by rfl)
  unfold endEpisode
  dsimp only
  split
  · exact .refl s
  · exact .ite (fun _ => ended.trans (handOver_carries fun _ h => by cases h)) fun _ => ended

theorem removeCauses_carries (s : State) : Carries s (removeCauses s) := by
  have kept : Carries s (clearCreep (s.setTripUnit { s.tripUnit with causes := s.causesKept })) :=
    (setTripUnit_carries_items s _ (by rfl)).trans (clearCreep_carries _)
  exact .ite (fun _ => kept.trans (endEpisode_carries _)) fun _ => kept

theorem keyOperation_carries (s : State) : Carries s (keyOperation s) := by
  have hoses : Carries s (HoseIx.all.foldl (fun s h => returnToService h s) s) :=
    .foldl (fun h t => returnToService_carries h t) _ s
  have pumps (t : State) : Carries t (PumpIx.all.foldl (fun s p => resetPump p s) t) :=
    .foldl (fun p t => .of_frame (resetPump_frame p t) rfl) _ t
  have zone (t : State) : Carries t (withZone removeCauses t) := withZone_carries (removeCauses_carries t)
  have hold (t : State) : Carries t (t.setTripUnit { t.tripUnit with overrideTimer := some 0 }) :=
    setTripUnit_carries_items t _ (by rfl)
  exact ((hoses.trans (pumps _)).trans (zone _)).trans (hold _)

theorem takeReset_carries (s : State) : Carries s (takeReset s) := by
  have turned : Carries s (s.setTripUnit { s.tripUnit with keySwitch := .reset }) :=
    setTripUnit_carries_items s _ (by rfl)
  unfold takeReset
  dsimp only
  split
  · exact turned
  · exact turned.trans (keyOperation_carries _)
  · exact .refl s

theorem takeTrip_carries (f : Frame) (s : State) : Carries s (takeTrip f s) := by
  unfold takeTrip
  split
  · exact .ite (fun _ => withZone_carries (enterOrigin_carries _ s)) fun _ => .refl s
  · exact .refl s

theorem takeClear_carries (f : Frame) (s : State) : Carries s (takeClear f s) := by
  unfold takeClear
  split
  · exact .ite (fun _ => withZone_carries (dropOrigins_carries _ s)) fun _ => .refl s
  · exact .refl s

theorem takeBeacon_carries (f : Frame) (s : State) : Carries s (takeBeacon f s) := by
  unfold takeBeacon
  split
  · exact .ite (fun _ => withZone_carries (enterOrigin_carries _ s)) fun _ => withZone_carries (dropOrigins_carries _ s)
  · exact .refl s

/-! ### Peers (R192, R193) -/

/-- A change of entries that keeps their addresses and tanks within their ranges. -/
theorem peers_map {ps : List Peer} {f : Peer → Peer} (ha : ∀ p, (f p).address = p.address)
    (ht : ∀ p, tanksInRange p.tanks → tanksInRange (f p).tanks)
    (h : peersInOrder ps ∧ ∀ p ∈ ps, tanksInRange p.tanks) :
    peersInOrder (ps.map f) ∧ ∀ p ∈ ps.map f, tanksInRange p.tanks := by
  obtain ⟨⟨hl, ho⟩, hr⟩ := h
  refine ⟨⟨by rw [List.length_map]; exact hl, List.pairwise_map.mpr (ho.imp fun {a b} hab => ?_)⟩, fun p hp => ?_⟩
  · rw [ha, ha]; exact hab
  · obtain ⟨q, hq, rfl⟩ := List.mem_map.mp hp
    exact ht q (hr q hq)

theorem updatePeer_inOrder {ps : List Peer} {address : Nat} {f : Peer → Peer} (ha : ∀ p, (f p).address = p.address)
    (ht : ∀ p, tanksInRange p.tanks → tanksInRange (f p).tanks)
    (h : peersInOrder ps ∧ ∀ p ∈ ps, tanksInRange p.tanks) :
    peersInOrder (updatePeer address f ps) ∧ ∀ p ∈ updatePeer address f ps, tanksInRange p.tanks :=
  peers_map (fun p => by split <;> simp [ha]) (fun p k => by
    split
    · exact ht p k
    · exact k) h

theorem mem_insertPeer {p x : Peer} : ∀ {l : List Peer}, x ∈ insertPeer p l → x = p ∨ x ∈ l
  | [], h => .inl (List.mem_singleton.mp h)
  | q :: l, h => by
    unfold insertPeer at h
    split at h
    · exact List.mem_cons.mp h
    · rcases List.mem_cons.mp h with rfl | h
      · exact .inr (List.mem_cons_self ..)
      · rcases mem_insertPeer h with h | h
        · exact .inl h
        · exact .inr (List.mem_cons_of_mem _ h)

theorem length_insertPeer (p : Peer) : ∀ l : List Peer, (insertPeer p l).length = l.length + 1
  | [] => rfl
  | q :: l => by
    unfold insertPeer
    split
    · rfl
    · rw [List.length_cons, length_insertPeer p l, List.length_cons]

theorem insertPeer_inOrder {p : Peer} : ∀ {l : List Peer}, (l.Pairwise fun a b => a.address < b.address) →
    (∀ q ∈ l, q.address ≠ p.address) → (insertPeer p l).Pairwise fun a b => a.address < b.address
  | [], _, _ => List.pairwise_singleton _ _
  | q :: l, ho, hn => by
    obtain ⟨hq, ho'⟩ := List.pairwise_cons.mp ho
    have other := hn q (List.mem_cons_self ..)
    unfold insertPeer
    split
    · next h =>
      refine List.pairwise_cons.mpr ⟨fun x hx => ?_, ho⟩
      rcases List.mem_cons.mp hx with rfl | hx
      · exact h
      · exact h.trans (hq x hx)
    · refine List.pairwise_cons.mpr ⟨fun x hx => ?_,
        insertPeer_inOrder ho' fun x hx => hn x (List.mem_cons_of_mem _ hx)⟩
      rcases mem_insertPeer hx with rfl | hx
      · omega
      · exact hq x hx

theorem oldestLost_mem : ∀ {l : List Peer} {q : Peer}, oldestLost l = some q → q ∈ l
  | [], _, h => by cases h
  | p :: l, q, h => by
    unfold oldestLost at h
    split at h
    · next hq =>
      split at h
      · obtain rfl := Option.some.inj h; exact List.mem_cons_self ..
      · obtain rfl := Option.some.inj h; exact List.mem_cons_of_mem _ (oldestLost_mem hq)
    · obtain rfl := Option.some.inj h; exact List.mem_cons_self ..
    · exact List.mem_cons_of_mem _ (oldestLost_mem h)

/-- What a frame tells of its sender's tanks passes the content test of a BEACON (R187). -/
theorem beaconNews_tanks {f : Frame} {b : BeaconBody} (h : beaconNews f = some b) : tanksInRange b.tanks := by
  unfold beaconNews at h
  split at h
  · split at h
    · next hb =>
      obtain rfl := Option.some.inj h
      unfold beaconBody at hb
      split at hb
      · cases hb
      · split at hb
        · cases hb
        · next _ hl =>
          dsimp only at hb
          split at hb
          · next hr =>
            obtain rfl := Content.sound.inj hb
            simp only [Bool.and_eq_true, within_eq_true, List.all_eq_true] at hr
            obtain ⟨⟨⟨-, hn⟩, ht⟩, -⟩ := hr
            refine ⟨?_, fun t hm => ht t hm⟩
            show ((f.body.drop 13).map fun c => c.toNat).length ≤ 4
            rw [List.length_map, List.length_drop]
            omega
          · cases hb
    · cases h
  · cases h

theorem hear_tanks (p : Peer) (now : Nat) (f : Frame) (h : tanksInRange p.tanks) :
    tanksInRange (p.hear now (beaconNews f)).tanks := by
  unfold Peer.hear
  dsimp only
  split
  · next hb => exact beaconNews_tanks hb
  · exact h

theorem hearPeer_carries (f : Frame) (s : State) : Carries s (hearPeer f s) := by
  have freshTanks (n : Nat) : tanksInRange ((newPeer f.src n).hear s.unit.seconds (beaconNews f)).tanks :=
    hear_tanks _ _ f ⟨Nat.zero_le _, fun t ht => by cases ht⟩
  unfold hearPeer
  dsimp only
  refine .ite (fun _ => setPeers_carries s _ (updatePeer_inOrder (fun _ => rfl) fun p k => hear_tanks p _ f k))
    fun hn => ?_
  have others : ∀ q ∈ s.peers, q.address ≠ f.src := by simpa using hn
  have entered {ps : List Peer} (hl : ps.length < Config.peerCapacity) (hs : ps.Sublist s.peers)
      (k : peersInOrder s.peers ∧ ∀ p ∈ s.peers, tanksInRange p.tanks) :
      peersInOrder (insertPeer ((newPeer f.src s.cfg.beaconInterval).hear s.unit.seconds (beaconNews f)) ps)
        ∧ ∀ p ∈ insertPeer ((newPeer f.src s.cfg.beaconInterval).hear s.unit.seconds (beaconNews f)) ps,
          tanksInRange p.tanks := by
    refine ⟨⟨by rw [length_insertPeer]; exact hl, insertPeer_inOrder (k.1.2.sublist hs) fun q hq =>
      others q (hs.subset hq)⟩, fun p hp => ?_⟩
    rcases mem_insertPeer hp with rfl | hp
    · exact freshTanks _
    · exact k.2 p (hs.subset hp)
  refine .ite (fun hl => setPeers_carries s _ (entered hl (.refl _))) fun hfull => ?_
  split
  · next q hq =>
    have shorter : (removePeer q.address s.peers).length < s.peers.length :=
      List.length_filter_lt_length_iff_exists.mpr ⟨q, oldestLost_mem hq, by simp⟩
    refine setPeers_carries s _ fun k => entered ?_ List.filter_sublist k
    have := k.1.1
    omega
  · exact setCounts_carries s _ fun ⟨a, b, c, d, e, g, _, i⟩ => ⟨a, b, c, d, e, g, countUp_le _, i⟩

theorem quiet_keeps (p : Peer) (n : Nat) : (p.quiet n).address = p.address ∧ (p.quiet n).tanks = p.tanks := by
  unfold Peer.quiet
  split <;> exact ⟨rfl, rfl⟩

theorem quietPeer_carries (address : Nat) (s : State) :
    Carries s (s.setPeers (updatePeer address (fun p => p.quiet s.cfg.lostTimeout) s.peers)) :=
  setPeers_carries s _ (updatePeer_inOrder (fun p => (quiet_keeps p _).1) fun p k => by
    rw [(quiet_keeps p _).2]; exact k)

theorem losePeer_carries (address : Nat) (ts : List Nat) (s : State) :
    Carries s (ageLostTanks ts (s.setPeers (updatePeer address Peer.lose s.peers))) :=
  (setPeers_carries s _ (updatePeer_inOrder (f := Peer.lose) (fun _ => rfl) fun _ k => k)).trans (ageLostTanks_carries ts _)

theorem sendBeacon_carries (s : State) : Carries s (sendBeacon s) := by
  have timer : Carries s { s with beaconTimer := 0 } := .of_frame (setBeaconTimer_frame s 0) rfl
  unfold sendBeacon
  dsimp only
  split
  · exact timer
  · exact timer.trans (handOver_carries fun _ h => by cases h)

/-! ### The office and the journal -/

theorem takeAccountRead_carries (f : Frame) (b : AccountReadBody) (s : State) : Carries s (takeAccountRead f b s) := by
  unfold takeAccountRead
  split
  · exact refuse_carries _ _ _ _ s
  · exact reply_carries _ _ _ _ _ s fun _ => by decide

theorem takeJournalRead_carries (f : Frame) (s : State) : Carries s (takeJournalRead f s) := by
  unfold takeJournalRead
  split
  · split
    · exact refuse_carries _ _ _ _ s
    · exact (setRead_carries s _).trans (readNext_carries _)
  · exact .refl s

theorem markThrough_uncollected (o t : Nat) (rs : List DeliveryRecord) :
    ((markThrough o t rs).filter fun r => !r.collected).length ≤ (rs.filter fun r => !r.collected).length := by
  rw [← List.countP_eq_length_filter, ← List.countP_eq_length_filter, markThrough, List.countP_map]
  refine List.countP_mono_left fun r _ h => ?_
  dsimp only [Function.comp] at h
  split at h
  · simp at h
  · exact h

theorem length_markThrough (o t : Nat) (rs : List DeliveryRecord) : (markThrough o t rs).length = rs.length :=
  List.length_map _

/-- A COLLECT leaves no more records uncollected, and none more or less (R146). -/
theorem collect_keeps (j : Journal) (q : Nat) :
    (j.collect q).uncollected ≤ j.uncollected ∧ (j.collect q).records.length = j.records.length
      ∧ (j.collect q).reserved = j.reserved := by
  have marked (o t : Nat) (m : Nat) :
      Journal.uncollected { j with records := markThrough o t j.records, mark := m } ≤ j.uncollected
        ∧ (markThrough o t j.records).length = j.records.length :=
    ⟨markThrough_uncollected o t j.records, length_markThrough o t j.records⟩
  unfold Journal.collect
  cases j.records.find? fun r => !r.collected with
  | none => exact ⟨Nat.le_refl _, rfl, rfl⟩
  | some r =>
    dsimp only
    by_cases h1 : sequenceForward r.sequence q ≤ sequenceForward r.sequence j.newest
    · rw [if_pos h1]; exact ⟨(marked _ _ _).1, (marked _ q 0).2, rfl⟩
    · rw [if_neg h1]
      by_cases h2 : 1 ≤ sequenceForward j.newest q ∧ sequenceForward j.newest q ≤ 2147483647
      · rw [if_pos h2]; exact ⟨(marked _ _ _).1, (marked _ j.newest 0).2, rfl⟩
      · rw [if_neg h2]; exact ⟨Nat.le_refl _, rfl, rfl⟩

theorem takeCollect_carries (f : Frame) (s : State) : Carries s (takeCollect f s) := by
  unfold takeCollect
  split
  · next q _ =>
    obtain ⟨hu, hl, hr⟩ := collect_keeps s.journal q
    have marked : Carries s (s.setJournal (s.journal.collect q)) :=
      ⟨setJournal_shaped s _, fun ⟨rr, rv, cap, len, pw, cf⟩ => ⟨rr, hr.trans rv, by
        show (s.journal.collect q).uncollected + (s.journal.collect q).reserved + s.retainedCount ≤ _
        omega, by rw [← hl] at len; exact len, pw, cf⟩⟩
    exact marked.trans (reply_carries _ _ _ _ _ _ fun _ => by decide)
  · exact .refl s

theorem takeStatusReq_carries (f : Frame) (s : State) : Carries s (takeStatusReq f s) := by
  unfold takeStatusReq
  split
  · refine Carries.trans (.ite (fun _ => ?_) fun _ => .refl s) (reply_carries _ _ _ _ _ _ fun _ => by decide)
    exact setCounts_carries s _ fun _ => by simp [Counts.fit]
  · exact .refl s

theorem takeTime_carries (f : Frame) (s : State) : Carries s (takeTime f s) := by
  unfold takeTime
  split
  · exact ⟨setUnit_shaped s _ (by exact fun k => k),
      SameDeliveries.kept ⟨fun _ => rfl, fun _ => rfl, rfl, rfl, rfl, rfl, rfl, fun _ h => h⟩⟩
  · exact .refl s

end Sys2Proof.Machine
end

section
/-! SUPPORT. The line's operations, the starts and the step keep the deliveries, the collections and the widths (O5 to
O7). -/

namespace Sys2Proof.Machine

/-! ### The line -/

/-- An update of the link that keeps the capacities of its buffer and queue, its BEACONs, whether the station is in
CONFIG_FAULT, and that no RESTART is answered there. -/
theorem setLink_carries (s : State) (l : Link)
    (hb : s.link.buffer.length ≤ Config.receiveCapacity → l.buffer.length ≤ Config.receiveCapacity)
    (hq : s.ordered .queue → (s.setLink l).ordered .queue)
    (hf : (s.setLink l).inConfigFault = s.inConfigFault)
    (hn : s.inConfigFault = true → s.link.noRestart → l.noRestart) : Carries s (s.setLink l) := by
  have line := setLine_shaped s { l with ordinary := s.link.ordinary, reserved := s.link.reserved } rfl rfl hb
  have queue := setQueue_shaped (s.setLink { l with ordinary := s.link.ordinary, reserved := s.link.reserved })
    l.ordinary l.reserved hq
  exact (line.trans queue).carries ⟨fun _ => rfl, fun _ => rfl, rfl, rfl, rfl, rfl, hf, hn⟩

theorem setReceiver_carries (r : Receiver) (s : State) : Carries s (setReceiver r s) :=
  setLine_carries s _ (by rfl) (by rfl) (by rfl) (by exact fun k => k)

theorem countFraming_carries (s : State) : Carries s (countFraming s) :=
  setCounts_carries s _ fun ⟨_, b, c, d, e, f, g, h⟩ => ⟨countUp_le _, b, c, d, e, f, g, h⟩

theorem weighHead_carries (b : Byte) (s : State) : Carries s (weighHead b s) :=
  .ite (fun _ => setReceiver_carries _ s) fun _ => setReceiver_carries _ s

theorem discardPartial_carries (s : State) : Carries s (discardPartial s) :=
  (countFraming_carries s).trans (setReceiver_carries _ _)

theorem storeFrame_carries (f : Frame) (s : State) : Carries s (storeFrame f s) := by
  refine .ite (fun hl => setLine_carries s _ (by rfl) (by rfl) (by rfl) fun _ => ?_) fun _ => ?_
  · rw [List.length_append, List.length_singleton]; exact hl
  · exact setCounts_carries s _ fun ⟨a, b, _, d, e, f, g, h⟩ => ⟨a, b, countUp_le _, d, e, f, g, h⟩

theorem countCheck_carries (s : State) : Carries s (s.setCounts { s.counts with check := countUp s.counts.check }) :=
  setCounts_carries s _ fun ⟨a, _, c, d, e, f, g, h⟩ => ⟨a, countUp_le _, c, d, e, f, g, h⟩

theorem completeFrame_carries (d : Nat) (cs : List Byte) (s : State) : Carries s (completeFrame d cs s) := by
  have sought := setReceiver_carries (.seeking false) s
  exact .ite (fun _ => sought.trans (countCheck_carries _)) fun _ =>
    .ite (fun _ => sought.trans (countMalformed_carries _)) fun _ => sought.trans (storeFrame_carries _ _)

theorem receive_carries (b : Byte) (m g : Bool) (s : State) : Carries s (receive b m g s) := by
  have assembled (d : Nat) (cs : List Byte) : Carries s (assemble d cs s) :=
    .ite (fun _ => discardPartial_carries s) fun _ => .ite (fun _ => completeFrame_carries d cs s)
      fun _ => setReceiver_carries _ s
  unfold receive
  dsimp only
  split
  · exact .ite (fun _ => weighHead_carries b s) fun _ => .refl s
  · exact .ite (fun _ => weighHead_carries b s) fun _ => .ite (fun _ => .refl s)
      fun _ => (countFraming_carries s).trans (setReceiver_carries _ _)
  · exact .ite (fun _ => (discardPartial_carries s).trans (weighHead_carries b _)) fun _ =>
      .ite (fun _ => discardPartial_carries s) fun _ => assembled _ _

/-- The entry in transmission leaves the queue, the line's items as given. -/
theorem dropCurrent_carries (s : State) (d : Driver) (n : Nat) :
    Carries s (s.setLink { s.link.dropCurrent with driver := d, failures := n }) := by
  refine setLink_carries s _ (by exact fun k => k) (fun ⟨ho, hr, hb⟩ => ⟨?_, ?_, ?_⟩) (by rfl) fun _ h e he => h e ?_
  · exact (List.length_filter_le _ _).trans ho
  · exact (List.length_filter_le _ _).trans hr
  · exact (List.filter_sublist.filter _).length_le.trans hb
  · simp only [Link.dropCurrent, List.mem_append, List.mem_filter] at he
    rw [List.mem_append]
    exact he.imp And.left And.left

/-- The entry in transmission changes, its kind and purpose kept. -/
theorem mapCurrent_carries (s : State) (f : TxEntry → TxEntry) (hk : ∀ e, (f e).kind = e.kind)
    (hp : ∀ e, (f e).purpose = e.purpose) : Carries s (s.setLink (s.link.mapCurrent f)) := by
  have kind (e : TxEntry) : (if e.onLine then f e else e).kind = e.kind := by
    split
    · exact hk e
    · rfl
  have purpose (e : TxEntry) : (if e.onLine then f e else e).purpose = e.purpose := by
    split
    · exact hp e
    · rfl
  refine setLink_carries s _ (by exact fun k => k) (fun ⟨ho, hr, hb⟩ => ⟨?_, ?_, ?_⟩) (by rfl) fun _ h e he => ?_
  · show (s.link.ordinary.map _).length ≤ _
    rw [List.length_map]; exact ho
  · show (s.link.reserved.map _).length ≤ _
    rw [List.length_map]; exact hr
  · show ((s.link.ordinary.map fun e => if e.onLine then f e else e).filter fun e => e.kind == .beacon).length ≤ 1
    rw [List.filter_map, List.length_map]
    have : ((fun e : TxEntry => e.kind == .beacon) ∘ fun e => if e.onLine then f e else e)
        = fun e => e.kind == .beacon := funext fun e => by simp [Function.comp, kind]
    rw [this]; exact hb
  · simp only [Link.mapCurrent, ← List.map_append, List.mem_map] at he
    obtain ⟨q, hq, rfl⟩ := he
    rw [purpose]; exact h q hq

theorem failFrame_carries (s : State) : Carries s (failFrame s) := by
  unfold failFrame
  split
  · exact .refl s
  · refine .ite (fun _ => ?_) fun _ => mapCurrent_carries s _ (fun _ => rfl) fun _ => rfl
    exact ((dropCurrent_carries s s.link.driver s.link.failures).trans (countDrop_carries _)).trans
      (.of_frame (reportLost_frame _ _) rfl)

theorem countFailure_carries (s : State) : Carries s (countFailure s) := by
  have failures (n : Nat) : Carries s (s.setLink { s.link with failures := n }) :=
    setLine_carries s _ (by rfl) (by rfl) (by rfl) (by exact fun k => k)
  unfold countFailure
  refine .ite (fun _ => failures _) fun _ => ?_
  split
  · next e =>
    refine Carries.trans (setLink_carries s _ (by exact fun k => k) (by exact fun k => k) ?_ (by exact fun _ k => k))
      (ageAllBooks_carries _)
    simp [State.inConfigFault, e]
  · exact failures 0

theorem failAttempt_carries (s : State) : Carries s (failAttempt s) := by
  have released : Carries s (s.setLink { s.link with driver := .released }) :=
    setLine_carries s _ (by rfl) (by rfl) (by rfl) (by exact fun k => k)
  have counted (t : State) : Carries t (t.setCounts { t.counts with collision := countUp t.counts.collision }) :=
    setCounts_carries t _ fun ⟨a, b, c, _, e, f, g, h⟩ => ⟨a, b, c, countUp_le _, e, f, g, h⟩
  exact ((released.trans (counted _)).trans (failFrame_carries _)).trans (countFailure_carries _)

theorem hearCharacter_carries (b : Byte) (m g : Bool) (s : State) : Carries s (hearCharacter b m g s) := by
  have line (t : State) (d : Driver) (o : Option Nat) : Carries t (t.setLink { t.link with driver := d, silence := o }) :=
    setLine_carries t _ (by rfl) (by rfl) (by rfl) (by exact fun k => k)
  have heard : Carries s (s.setLink { s.link with silence := none }) := line s s.link.driver none
  have echo (n : Nat) (t : State) : Carries t (compareEcho n b m g t) := by
    unfold compareEcho
    dsimp only
    split
    · exact .refl t
    · exact .ite (fun _ => line t _ t.link.silence) fun _ => failAttempt_carries t
  unfold hearCharacter
  dsimp only
  split
  case h_1 => exact heard.trans (echo _ _)
  all_goals exact heard.trans (receive_carries b m g _)

theorem silence_carries (s : State) (o : Option Nat) : Carries s (s.setLink { s.link with silence := o }) :=
  setLine_carries s _ (by rfl) (by rfl) (by rfl) (by exact fun k => k)

theorem loseFrame_carries (n : Nat) (s : State) : Carries s (loseFrame n s) := by
  unfold loseFrame
  dsimp only
  split
  · exact .ite (fun _ => (silence_carries s _).trans (discardPartial_carries _)) fun _ => .refl s
  · exact .refl s
  · exact .refl s

/-- Marking an entry changes no entry's kind or purpose. -/
theorem markFirst_maps {α : Type} (f : TxEntry → α)
    (hf : ∀ e : TxEntry, f { e with status := .inTransmission } = f e) (e : TxEntry) :
    ∀ l : List TxEntry, (markFirst e l).map f = l.map f
  | [] => rfl
  | q :: l => by
    unfold markFirst
    split
    · simp [hf]
    · simp [markFirst_maps f hf e l]

theorem beaconsOf_map {a b : List TxEntry} (h : a.map (·.kind) = b.map (·.kind)) : beaconsOf a = beaconsOf b := by
  have count (l : List TxEntry) : beaconsOf l = (l.map (·.kind)).countP (· == .beacon) := by
    rw [List.countP_map, List.countP_eq_length_filter]
    rfl
  rw [count, count, h]

theorem noRestart_map {a b : List TxEntry} (h : a.map (·.purpose) = b.map (·.purpose))
    (k : ∀ e ∈ b, e.purpose ≠ .restartReply) : ∀ e ∈ a, e.purpose ≠ .restartReply := fun e he => by
  have : e.purpose ∈ b.map (·.purpose) := h ▸ List.mem_map_of_mem he
  obtain ⟨q, hq, hp⟩ := List.mem_map.mp this
  rw [← hp]; exact k q hq

/-- An attempt's beginning changes the status of one entry and the driver (R161, R164). -/
theorem attempt_maps {α : Type} (f : TxEntry → α) (hf : ∀ e : TxEntry, f { e with status := .inTransmission } = f e)
    (l : Link) : l.attempt.ordinary.map f = l.ordinary.map f ∧ l.attempt.reserved.map f = l.reserved.map f := by
  unfold Link.attempt
  split
  · exact ⟨rfl, markFirst_maps f hf _ _⟩
  · split
    · exact ⟨markFirst_maps f hf _ _, rfl⟩
    · exact ⟨rfl, rfl⟩

theorem attempt_buffer (l : Link) : l.attempt.buffer = l.buffer := by
  unfold Link.attempt
  split
  · rfl
  · split <;> rfl

theorem attempt_carries (s : State) : Carries s (s.setLink s.link.attempt) := by
  obtain ⟨ko, -⟩ := attempt_maps (·.kind) (fun _ => rfl) s.link
  obtain ⟨uo, ur⟩ := attempt_maps (fun _ => ()) (fun _ => rfl) s.link
  obtain ⟨po, pr⟩ := attempt_maps (·.purpose) (fun _ => rfl) s.link
  have lo := congrArg List.length uo
  have lr := congrArg List.length ur
  simp only [List.length_map] at lo lr
  refine setLink_carries s _ (fun k => by rw [attempt_buffer]; exact k) (fun ⟨ho, hr, hb⟩ => ⟨?_, ?_, ?_⟩)
    (inConfigFault_congr (attempt_join _)) fun _ h => noRestart_map (b := s.link.ordinary ++ s.link.reserved) ?_ h
  · show s.link.attempt.ordinary.length ≤ _
    rw [lo]; exact ho
  · show s.link.attempt.reserved.length ≤ _
    rw [lr]; exact hr
  · show beaconsOf s.link.attempt.ordinary ≤ 1
    rw [beaconsOf_map ko]; exact hb
  · rw [List.map_append, List.map_append, po, pr]

theorem reachGap_carries (n : Nat) (s : State) : Carries s (reachGap n s) :=
  .ite (fun _ => (silence_carries s _).trans (attempt_carries _)) fun _ => silence_carries s _

/-! ### Losing power (R203) -/

/-- The places of the journal that are taken, by uncollected records, live and retained deliveries, are within its
capacity, and so are its records. -/
def State.PlacesFit (s : State) : Prop :=
  s.journal.uncollected + s.liveRecords.length + s.retainedCount ≤ Config.journalCapacity
    ∧ s.journal.records.length ≤ Config.journalCapacity

theorem State.DeliveriesKept.placesFit {s : State} (k : s.DeliveriesKept) : s.PlacesFit := by
  obtain ⟨-, rv, cap, len, -, -⟩ := k
  exact ⟨by rw [← rv]; exact cap, len⟩

theorem countP_or_le {α : Type} (p q : α → Bool) : ∀ l : List α,
    l.countP (fun a => p a || q a) ≤ l.countP p + l.countP q
  | [] => Nat.le_refl _
  | a :: l => by
    have ih := countP_or_le p q l
    simp only [List.countP_cons]
    cases p a <;> cases q a <;> simp <;> omega

theorem retainedCount_eq (s : State) : s.retainedCount = HoseIx.all.countP fun h => (s.retained.get h).isSome :=
  List.countP_eq_length_filter.symm

/-- What the retention domain holds of deliveries: no more than the live and the retained ones. -/
theorem retainedAt_count (s : State) :
    (HoseIx.all.countP fun h => (s.retainedAt h).isSome) ≤ s.liveRecords.length + s.retainedCount := by
  rw [liveRecords_length, retainedCount_eq]
  refine (List.countP_mono_left fun h _ c => ?_).trans (countP_or_le _ _ HoseIx.all)
  unfold State.retainedAt at c
  cases hl : (s.hoses.get h).live with
  | none => simpa [hl] using c
  | some l => simp

theorem losePower_deliveries {s : State} (k : s.unit.powered = false → s.DeliveriesKept) (hp : s.PlacesFit) :
    (losePower s).DeliveriesKept := by
  unfold losePower
  split
  · obtain ⟨cap, len⟩ := hp
    have count := retainedAt_count s
    refine ⟨fun h => ?_, ?_, ?_, len, ?_, ?_⟩
    · simp [State.recordRight, unpoweredHose, liveState]
    · simp [State.liveRecords, unpoweredHose]
    · rw [retainedCount_eq]
      simp only [PerHose.get_ofIx]
      show s.journal.uncollected + 0 + _ ≤ _
      omega
    · simp [State.reset]
    · simp [State.reset, State.inConfigFault]
  · next e => exact k (by simpa using e)

theorem startMeter_fits {n : Int} (h : netFits n) : (startMeter n).fits := ⟨h, Nat.zero_le _, Nat.zero_le _⟩

theorem retainedAt_fits {s : State} (k : s.WidthsKept) (h : HoseIx) (r : Retained) (hr : s.retainedAt h = some r) :
    netFits r.net := by
  obtain ⟨-, hm, ht, -⟩ := k
  unfold State.retainedAt at hr
  split at hr
  · obtain rfl := Option.some.inj hr; exact (hm h).1
  · exact ht h r hr

theorem losePower_shaped (s : State) : Shaped s (losePower s) := by
  unfold losePower
  split
  · refine ⟨fun k => ?_, fun k => ?_⟩
    · obtain ⟨hr, -, hk, -, -, -, -, -, -, hw, -⟩ := k
      refine ⟨hr, ⟨Nat.zero_le _, .nil⟩, fun b => ?_, fun c => ?_, ⟨Nat.zero_le _, .nil⟩, ⟨Nat.zero_le _, .nil⟩,
        Nat.zero_le _, Nat.zero_le _, Nat.zero_le _, hw, fun p hp => ?_, Nat.zero_le _⟩
      · simpa [Book.atStart] using hk b
      · simp [State.reset]
      · simp [State.reset] at hp
    · obtain ⟨-, hm, -, ho, ha, hv, -, -⟩ := id k
      refine ⟨by simp [State.reset, Counts.fit], fun h => ?_, fun h r hr => ?_, fun h => ?_, ha, fun b => ?_, ?_, ?_⟩
      · rw [PerHose.get_map]; exact startMeter_fits (hm h).1
      · rw [PerHose.get_ofIx] at hr; exact retainedAt_fits k h r hr
      · simpa [unpoweredHose] using ho h
      · simpa [Book.atStart] using hv b
      · simp [State.reset]
      · simp [State.reset]
  · exact .refl s

/-! ### The blocks' start values -/

theorem startBooks_shaped (s : State) : Shaped s (startBooks s) :=
  (setBooks_carries (startBooks_frame s) fun k => by simp [startBooks, Book.atStart]).shaped

theorem startTime_shaped (k : StartKind) (s : State) : Shaped s (startTime k s) :=
  setUnit_shaped s _ fun _ => by simp

theorem startLink_shaped (fault : Bool) (s : State) : Shaped s (startLink fault s) := by
  refine ⟨fun k => (collectionsKept_iff _).mpr fun p => ?_, fun k => (widthsKept_iff _).mpr fun p => ?_⟩
  · have kp := (collectionsKept_iff s).mp k p
    cases p
    case link | queue => simp [State.ordered, startLink]
    all_goals exact kp
  · have kp := (widthsKept_iff s).mp k p
    cases p
    case counts => simp [State.fitsAt, startLink, Counts.fit]
    all_goals exact kp

theorem startNet_fits {s : State} (w : s.WidthsKept) (k : StartKind) (h : HoseIx) : netFits (startNet k s h) := by
  obtain ⟨-, hm, ht, -⟩ := w
  cases k with
  | cold => simp [startNet, netFits]
  | restart => exact (hm h).1
  | warm =>
    unfold startNet
    dsimp only
    split
    · next r hr => exact ht h r hr
    · exact (hm h).1

theorem startBlocks_shaped (k : StartKind) (s : State) : Shaped s (startBlocks k s) := by
  refine ⟨fun c => (collectionsKept_iff _).mpr fun p => ?_, fun w => (widthsKept_iff _).mpr fun p => ?_⟩
  · have kp := (collectionsKept_iff s).mp c p
    cases p
    case accounts => exact ⟨kp.1, ⟨Nat.zero_le _, .nil⟩, kp.2.2⟩
    case probes => exact fun c => by simp [startBlocks, startProbe]
    case peers => exact ⟨⟨Nat.zero_le _, .nil⟩, fun p hp => by simp [startBlocks] at hp⟩
    all_goals exact kp
  · have kp := (widthsKept_iff s).mp w p
    cases p
    case meters =>
      exact fun h => by simpa [startBlocks] using startMeter_fits (startNet_fits w k h)
    case hoses =>
      intro h
      have := kp h
      simpa [startBlocks, startHose, unpoweredHose] using this
    all_goals exact kp

theorem startHoses_shaped (s : State) : Shaped s (startHoses s) :=
  .of_part .hoses (startHoses_frame s) rfl (fun _ => trivial) fun k h => by
    have := k h
    simpa [startHoses, Hose.enter] using this

theorem coldDomain_shaped (s : State) (h : ∀ g, (s.hoseCfg g).initialOverrun ≤ 5000) : Shaped s (coldDomain s) := by
  refine ⟨fun c => (collectionsKept_iff _).mpr fun p => ?_, fun w => (widthsKept_iff _).mpr fun p => ?_⟩
  · have kp := (collectionsKept_iff s).mp c p
    cases p
    case accounts => simp [State.ordered, coldDomain, rosterInOrder, permitsInOrder]
    case books => simp [State.ordered, coldDomain, keysInOrder]
    all_goals exact kp
  · have kp := (widthsKept_iff s).mp w p
    cases p
    case retained => simp [State.fitsAt, coldDomain]
    case hoses => exact fun g => by simpa [coldDomain, unpoweredHose] using h g
    case accounts => simp [State.fitsAt, coldDomain]
    case books => simp [State.fitsAt, coldDomain]
    all_goals exact kp

theorem setReserved_shaped (s : State) (n : Nat) : Shaped s (s.setJournal { s.journal with reserved := n }) :=
  setJournal_shaped s _

theorem startFirstSteps_shaped (k : StartKind) (s : State) (h : ∀ g, (s.hoseCfg g).initialOverrun ≤ 5000) :
    Shaped s (startFirstSteps k s) := by
  have domain : Shaped s (if k = .cold then coldDomain s else s) := .ite (fun _ => coldDomain_shaped s h) fun _ => .refl s
  have blocks (b : Bool) (t : State) : Shaped t (startBlocks k (startBooks (startLink b (startTime k t)))) :=
    (((startTime_shaped k t).trans (startLink_shaped b _)).trans (startBooks_shaped _)).trans (startBlocks_shaped k _)
  exact (domain.trans (blocks _ _)).trans (setReserved_shaped _ _)

theorem closeRetained_shaped (h : HoseIx) (s : State) : Shaped s (closeRetained h s) := by
  unfold closeRetained
  split
  · exact .refl s
  · exact (setRetained_shaped s h none fun r hr => by cases hr).trans (handOff_shaped _ _)

theorem closeRetainedFirst_shaped : ∀ (hs : List HoseIx) (n : Nat) (s : State),
    Shaped s (closeRetainedFirst s hs n)
  | [], _, s => .refl s
  | h :: hs, n, s => by
    unfold closeRetainedFirst
    split
    · cases n with
      | zero => exact .refl s
      | succ n => exact (closeRetained_shaped h s).trans (closeRetainedFirst_shaped hs n _)
    · exact closeRetainedFirst_shaped hs n s

theorem startTrip_shaped (s : State) : Shaped s (startTrip s) := by
  have emptied (u : TripUnit) (hu : u.origins = []) : Shaped s (s.setTripUnit u) :=
    setTripUnit_shaped s u fun _ => by rw [hu]; exact ⟨Nat.zero_le _, .nil⟩
  exact .ite (fun _ => (emptied _ (by rfl)).trans (announce_carries _).shaped) fun _ => emptied _ (by rfl)

/-- A setting in use lies in its field's range (R200, R202). -/
theorem use_le (f : ImageField) (img : List Byte) (hd : f.default = none) (hl : f.low ≤ f.high) :
    f.use img ≤ f.high := by
  unfold ImageField.use
  split
  · next h =>
    simp only [ImageField.taken, ImageField.ok, Bool.and_eq_true, within_eq_true] at h
    exact h.2.2
  · unfold ImageField.replaced
    rw [hd]
    dsimp only
    have := Nat.mod_lt (Config.unstatedSetting f.offset) (show 0 < f.high - f.low + 1 by omega)
    omega

theorem readConfiguration_overrun (strap : Nat) (image : List Byte) (s : State) (h : HoseIx) :
    ((readConfiguration strap image s).hoseCfg h).initialOverrun ≤ 5000 := by
  have : ((readConfiguration strap image s).hoseCfg h).initialOverrun = (fInitialOverrun h).use (imageKept image) := by
    simp [readConfiguration, State.hoseCfg, State.cfg, settingsOf, hoseSetting]
  rw [this]
  exact use_le _ _ rfl (by simp [fInitialOverrun])

theorem powerOn_shaped (strap : Nat) (image : List Byte) (held : Bool) (lostAfter : Option Nat) (s : State) :
    Shaped s (powerOn strap image held lostAfter s) := by
  have read : Shaped s (readConfiguration strap image (losePower s)) :=
    (losePower_shaped s).trans (setUnit_shaped _ _ fun _ => by simp)
  have first (k : StartKind) : Shaped s (startFirstSteps k (readConfiguration strap image (losePower s))) :=
    read.trans (startFirstSteps_shaped k _ (readConfiguration_overrun strap image _))
  have closes (n : Nat) (t : State) : Shaped t (startCloses n t) :=
    .ite (fun _ => closeRetainedFirst_shaped _ n t) fun _ => .refl t
  unfold powerOn
  dsimp only
  split
  · exact ((first _).trans (closes _ _)).trans (losePower_shaped _)
  · exact (((first _).trans (closes _ _)).trans (startTrip_shaped _)).trans (startHoses_shaped _)

/-! ### The closes of a WARM start (R151, R204) -/

/-- What a hand-off does to the places of the journal. -/
theorem handOff_journal (c : Closed) (s : State) :
    (handOff c s).journal.reserved = s.journal.reserved - 1
      ∧ (handOff c s).journal.uncollected ≤ s.journal.uncollected + 1
      ∧ (s.journal.records.length ≤ Config.journalCapacity →
        (handOff c s).journal.records.length ≤ Config.journalCapacity) := by
  by_cases hq : c.quantity = 0
  · rw [show (handOff c s).journal = _ from (handOff_released s hq).1]
    exact ⟨rfl, Nat.le_succ _, fun h => h⟩
  · obtain ⟨-, hr, -, hv, -⟩ := handOff_handedOn s hq
    refine ⟨hv, ?_, ?_⟩
    · unfold Journal.uncollected
      rw [hr]
      exact uncollected_write s.journal _
    · rw [hr]
      exact length_write (j := s.journal) _

theorem retained_set_none {s : State} {h : HoseIx} (hr : (s.retained.get h).isSome = true) :
    s.retainedCount = (s.setRetained h none).retainedCount + 1 := by
  rw [retainedCount_eq, retainedCount_eq]
  exact countP_change (a := h) (by simp) hr (fun g _ e => by simp [e]) HoseIx.nodup_all (HoseIx.mem_all h)

/-- What holds between the closes of a start: a reservation for each retained delivery, within the places. -/
def State.ClosesOwing (s : State) : Prop :=
  s.journal.reserved = s.retainedCount ∧ s.journal.uncollected + s.retainedCount ≤ Config.journalCapacity
    ∧ s.journal.records.length ≤ Config.journalCapacity

theorem closeRetained_retained (h g : HoseIx) (s : State) :
    (closeRetained h s).retained.get g = if g = h then none else s.retained.get g := by
  unfold closeRetained
  split
  · next e => split <;> simp_all
  · rw [show (handOff _ (s.setRetained h none)).retained = (s.setRetained h none).retained from
      handOff_frame _ _ .retained (by decide)]
    simp

theorem closeRetained_owing {s : State} {h : HoseIx} (k : s.ClosesOwing) (hr : (s.retained.get h).isSome = true) :
    (closeRetained h s).ClosesOwing := by
  obtain ⟨rv, cap, len⟩ := k
  unfold closeRetained
  split
  · next e => rw [e] at hr; cases hr
  · next r _ =>
    obtain ⟨jr, ju, jl⟩ := handOff_journal (closedOf h r.live r.net (r.live.endReason.getD .powerLoss) s)
      (s.setRetained h none)
    have kept : (handOff (closedOf h r.live r.net (r.live.endReason.getD .powerLoss) s) (s.setRetained h none)).retainedCount
        = (s.setRetained h none).retainedCount := by
      rw [retainedCount_eq, retainedCount_eq, show (handOff _ (s.setRetained h none)).retained
        = (s.setRetained h none).retained from handOff_frame _ _ .retained (by decide)]
    have less := retained_set_none hr
    rw [State.setRetained_journal] at jr ju jl
    exact ⟨by rw [jr, kept]; omega, by rw [kept]; omega, jl len⟩

theorem closeRetainedFirst_owing : ∀ (hs : List HoseIx) (n : Nat) (s : State), s.ClosesOwing →
    (closeRetainedFirst s hs n).ClosesOwing
  | [], _, _, k => k
  | h :: hs, n, s, k => by
    unfold closeRetainedFirst
    split
    · next hr =>
      cases n with
      | zero => exact k
      | succ n => exact closeRetainedFirst_owing hs n _ (closeRetained_owing k hr)
    · exact closeRetainedFirst_owing hs n s k

theorem closeRetainedFirst_none : ∀ (hs : List HoseIx) (n : Nat) (s : State), hs.length ≤ n → ∀ g,
    g ∈ hs ∨ s.retained.get g = none → (closeRetainedFirst s hs n).retained.get g = none
  | [], _, _, _, g, hg => by
    rcases hg with hg | hg
    · cases hg
    · exact hg
  | h :: hs, n, s, hn, g, hg => by
    unfold closeRetainedFirst
    simp only [List.length_cons] at hn
    split
    · obtain ⟨n, rfl⟩ : ∃ m, n = m + 1 := ⟨n - 1, by omega⟩
      refine closeRetainedFirst_none hs n _ (by omega) g ?_
      rw [closeRetained_retained]
      by_cases e : g = h
      · exact .inr (if_pos e)
      · rw [if_neg e]
        exact hg.imp (fun m => (List.mem_cons.mp m).resolve_left e) id
    · next hr =>
      refine closeRetainedFirst_none hs n s (by omega) g ?_
      by_cases e : g = h
      · subst e; exact .inr (by simpa using hr)
      · exact hg.imp (fun m => (List.mem_cons.mp m).resolve_left e) id

/-! ### The state after the first steps of a start -/

theorem startFirstSteps_live (k : StartKind) (s : State) (h : HoseIx) :
    ((startFirstSteps k s).hoses.get h).live = none := by
  cases k <;> simp [startFirstSteps, startBlocks, startBooks, startLink, startTime, startHose, unpoweredHose]

theorem startFirstSteps_fault (k : StartKind) (s : State) :
    (startFirstSteps k s).inConfigFault = (s.unit.fault != .none)
      ∧ (startFirstSteps k s).unit.fault = s.unit.fault
      ∧ (startFirstSteps k s).link.ordinary = [] ∧ (startFirstSteps k s).link.reserved = [] := by
  have join (b : Bool) : ((if b then JoinState.configFault else .listen) == .configFault) = b := by cases b <;> rfl
  cases k <;> exact ⟨join _, rfl, rfl, rfl⟩

/-- The journal after the first steps: its records, and the reservations of R151 and R203. -/
theorem startFirstSteps_journal (k : StartKind) (s : State) (hp : s.PlacesFit) :
    (startFirstSteps k s).journal.uncollected + (startFirstSteps k s).retainedCount ≤ Config.journalCapacity
      ∧ (startFirstSteps k s).journal.records.length ≤ Config.journalCapacity
      ∧ (startFirstSteps k s).journal.reserved
        = if s.unit.fault = .none then (startFirstSteps k s).retainedCount else 0 := by
  obtain ⟨cap, len⟩ := hp
  have reserved (n : Nat) : (if (s.unit.fault != .none) = true then 0 else n) = if s.unit.fault = .none then n else 0 := by
    cases s.unit.fault <;> rfl
  cases k with
  | cold =>
    have none : (startFirstSteps .cold s).retainedCount = 0 := by
      rw [retainedCount_eq]
      exact List.countP_eq_zero.mpr fun h _ => by simp [startFirstSteps, startBlocks, startBooks, startLink, startTime, coldDomain]
    refine ⟨?_, Nat.zero_le _, reserved _⟩
    rw [none]
    exact Nat.zero_le _
  | warm | restart =>
    exact ⟨by
      show s.journal.uncollected + s.retainedCount ≤ _
      omega, len, reserved _⟩

theorem liveRecords_none {s : State} (h : ∀ g, (s.hoses.get g).live = none) : s.liveRecords.length = 0 := by
  simp [State.liveRecords, h]

theorem retainedCount_none {s : State} (h : ∀ g, s.retained.get g = none) : s.retainedCount = 0 := by
  simp [State.retainedCount, h]

/-- What is left of deliveries after the closes of a start, with power or without a fault. -/
theorem startCloses_deliveries (k : StartKind) (n : Nat) (s : State) (hp : s.PlacesFit) :
    let t := startCloses n (startFirstSteps k s)
    (∀ g, (t.hoses.get g).live = none) ∧ t.PlacesFit
      ∧ (6 ≤ n → t.journal.reserved = 0 ∧ (s.unit.fault = .none → t.retainedCount = 0)) := by
  intro t
  have f := startCloses_frame n (startFirstSteps k s)
  have live (g : HoseIx) : (t.hoses.get g).live = none := by
    rw [show t.hoses = (startFirstSteps k s).hoses from f .hoses (by decide)]
    exact startFirstSteps_live k s g
  obtain ⟨cap, len, rv⟩ := startFirstSteps_journal k s hp
  obtain ⟨-, hf, -, -⟩ := startFirstSteps_fault k s
  refine ⟨live, ?_⟩
  by_cases e : s.unit.fault = .none
  · have ht : t = closeRetainedFirst (startFirstSteps k s) HoseIx.all n := if_pos (by rw [hf]; exact e)
    rw [if_pos e] at rv
    obtain ⟨rv', cap', len'⟩ := closeRetainedFirst_owing HoseIx.all n _ ⟨rv, cap, len⟩
    rw [← ht] at rv' cap' len'
    refine ⟨⟨by rw [liveRecords_none live]; omega, len'⟩, fun hn => ?_⟩
    have noneLeft : t.retainedCount = 0 := retainedCount_none fun g => by
      rw [ht]; exact closeRetainedFirst_none HoseIx.all n _ hn g (.inl (HoseIx.mem_all g))
    exact ⟨by rw [rv', noneLeft], fun _ => noneLeft⟩
  · have ht : t = startFirstSteps k s := if_neg (by rw [hf]; exact e)
    rw [if_neg e] at rv
    rw [ht] at live ⊢
    exact ⟨⟨by rw [liveRecords_none live]; omega, len⟩, fun _ => ⟨rv, fun c => absurd c e⟩⟩

/-- In CONFIG_FAULT a start closes nothing and queues nothing (R57, R173). -/
theorem startCloses_quiet (n : Nat) (k : StartKind) (s : State) :
    (startCloses n (startFirstSteps k s)).inConfigFault = true →
      (startCloses n (startFirstSteps k s)).link.noRestart := by
  have f := startCloses_frame n (startFirstSteps k s)
  obtain ⟨hc, hf, ho, hr⟩ := startFirstSteps_fault k s
  intro h
  rw [inConfigFault_congr (f.join (by decide)), hc] at h
  have : startCloses n (startFirstSteps k s) = startFirstSteps k s := if_neg (by rw [hf]; simpa using h)
  rw [this]
  intro e he
  rw [ho, hr] at he
  cases he

/-- In CONFIG_FAULT the trip unit's start hands over no TRIP (R173). -/
theorem startTrip_link {s : State} (h : s.inConfigFault = true) : (startTrip s).link = s.link := by
  unfold startTrip
  dsimp only
  split
  · unfold announce
    rw [if_pos (by simpa [State.inConfigFault] using h)]
    rfl
  · rfl

theorem powerOn_deliveries (strap : Nat) (image : List Byte) (held : Bool) (lostAfter : Option Nat) {s : State}
    (k : s.DeliveriesKept) : (powerOn strap image held lostAfter s).DeliveriesKept := by
  have lost : (losePower s).DeliveriesKept := losePower_deliveries (fun _ => k) k.placesFit
  have fit : (readConfiguration strap image (losePower s)).PlacesFit := lost.placesFit
  have first (kind : StartKind) (n : Nat) := startCloses_deliveries kind n _ fit
  unfold powerOn
  dsimp only
  generalize startKind held (readConfiguration strap image (losePower s)).unit = kind
  cases lostAfter with
  | some n =>
    refine losePower_deliveries (fun c => ?_) (first kind n).2.1
    rw [startCloses_frame _ _ .unit (by decide), startFirstSteps_powered] at c
    cases c
  | none =>
    dsimp only
    obtain ⟨live, ⟨cap, len⟩, closed⟩ := first kind 6
    obtain ⟨rv, noneLeft⟩ := closed (Nat.le_refl _)
    have fc := startCloses_frame 6 (startFirstSteps kind (readConfiguration strap image (losePower s)))
    have quiet := startCloses_quiet 6 kind (readConfiguration strap image (losePower s))
    obtain ⟨fault, -, -, -⟩ := startFirstSteps_fault kind (readConfiguration strap image (losePower s))
    generalize startCloses 6 (startFirstSteps kind (readConfiguration strap image (losePower s))) = t at *
    have ft := startTrip_frame t
    have hu : (startHoses (startTrip t)).inConfigFault = t.inConfigFault := inConfigFault_congr (ft.join (by decide))
    have lives (g : HoseIx) : ((startHoses (startTrip t)).hoses.get g).live = Option.none := by
      have := live g
      rw [← show (startTrip t).hoses = t.hoses from ft .hoses (by decide)] at this
      simpa [startHoses, Hose.enter] using this
    have recs : (startHoses (startTrip t)).journal.records = t.journal.records := ft.records (by decide)
    have res : (startHoses (startTrip t)).journal.reserved = t.journal.reserved := ft.reservations (by decide)
    have ret : (startHoses (startTrip t)).retainedCount = t.retainedCount := by
      rw [retainedCount_eq, retainedCount_eq]
      rw [show (startHoses (startTrip t)).retained = t.retained from ft .retained (by decide)]
    refine ⟨fun g => ⟨?_, fun l hl => ?_⟩, ?_, ?_, ?_, fun _ hc => ?_, fun hc e he => ?_⟩
    · rw [lives]
      simp [startHoses, Hose.enter, startState_notLive]
    · rw [lives] at hl; cases hl
    · rw [res, rv, liveRecords_none lives]
    · rw [res, rv, ret]
      simp only [Journal.uncollected, recs]
      rw [liveRecords_none live] at cap
      exact cap
    · rw [recs]; exact len
    · rw [ret]
      refine noneLeft ?_
      rw [hu, inConfigFault_congr (fc.join (by decide)), fault] at hc
      simpa using hc
    · rw [hu] at hc
      rw [show (startHoses (startTrip t)).link = t.link from startTrip_link hc] at he
      exact quiet hc e he

end Sys2Proof.Machine
end

section
/-! SUPPORT. The RESTART, the contents of frames, and every command and millisecond keep the deliveries, the collections
and the widths (O5 to O7). -/

namespace Sys2Proof.Machine

/-! ### The RESTART (R205) -/

/-- The closes of a RESTART, the books and the time set before them. -/
def restartCloses (s : State) : State :=
  HoseIx.all.foldl (fun s h => closeForRestart h s) (startBooks (startTime .restart s))

/-- The blocks' values and the journal after the closes of a RESTART. -/
def restartBlocks (s : State) : State :=
  (startBlocks .restart (startLink false s)).setJournal
    { (startBlocks .restart (startLink false s)).journal with reserved := 0 }

theorem makeRestart_eq (s : State) : makeRestart s = restartTrip (startHoses (restartBlocks (restartCloses s))) := rfl

theorem restartCloses_carries (s : State) : Carries s (restartCloses s) := by
  have begun : SameDeliveries s (startBooks (startTime .restart s)) :=
    ⟨fun _ => rfl, fun _ => rfl, rfl, rfl, rfl, rfl, rfl, fun _ k => k⟩
  exact (((startTime_shaped .restart s).trans (startBooks_shaped _)).carries begun).trans
    (.foldl (fun h t => closeRaw_carries h _ _ _ t) _ _)

theorem makeRestart_shaped (s : State) : Shaped s (makeRestart s) := by
  have blocks (t : State) : Shaped t (restartBlocks t) :=
    ((startLink_shaped false t).trans (startBlocks_shaped .restart _)).trans (setJournal_shaped _ _)
  have emptied (t : State) : Shaped t (t.setTripUnit { t.tripUnit with origins := [] }) :=
    setTripUnit_shaped t _ fun _ => ⟨Nat.zero_le _, .nil⟩
  have trip (t : State) : Shaped t (restartTrip t) :=
    .ite (fun _ => (emptied t).trans (announce_carries _).shaped) fun _ => emptied t
  rw [makeRestart_eq]
  exact (((restartCloses_carries s).shaped.trans (blocks _)).trans (startHoses_shaped _)).trans (trip _)

/-- No delivery is live after a RESTART, and no place is reserved (R205). -/
theorem makeRestart_deliveries {s : State} (hp : s.unit.powered = true) (hf : s.inConfigFault = false)
    (k : s.DeliveriesKept) : (makeRestart s).DeliveriesKept := by
  have kc := (restartCloses_carries s).deliveries k
  have ft := restartTrip_frame (startHoses (restartBlocks (restartCloses s)))
  have ret : (makeRestart s).retainedCount = 0 := by
    rw [retainedCount_eq, show (makeRestart s).retained = s.retained from makeRestart_frame s .retained (by decide),
      ← retainedCount_eq]
    obtain ⟨-, -, -, -, pw, -⟩ := k
    exact pw hp hf
  rw [makeRestart_eq] at ret ⊢
  have hu : (restartTrip (startHoses (restartBlocks (restartCloses s)))).inConfigFault = false :=
    inConfigFault_congr (ft.join (by decide))
  have hoses : (restartTrip (startHoses (restartBlocks (restartCloses s)))).hoses
      = (startHoses (restartBlocks (restartCloses s))).hoses := ft .hoses (by decide)
  have recs : (restartTrip (startHoses (restartBlocks (restartCloses s)))).journal.records
      = (restartCloses s).journal.records := ft.records (by decide)
  have res : (restartTrip (startHoses (restartBlocks (restartCloses s)))).journal.reserved = 0 :=
    ft.reservations (by decide)
  generalize restartTrip (startHoses (restartBlocks (restartCloses s))) = t at *
  have live (g : HoseIx) : (t.hoses.get g).live = none := by
    simp [hoses, startHoses, restartBlocks, startBlocks, Hose.enter, startHose, unpoweredHose]
  obtain ⟨-, -, cap, len, -, -⟩ := kc
  refine ⟨fun g => ⟨?_, fun l hl => ?_⟩, ?_, ?_, ?_, fun _ _ => ret, fun hc => ?_⟩
  · rw [live, hoses]
    simp [startHoses, Hose.enter, startState_notLive]
  · rw [live] at hl; cases hl
  · rw [res, liveRecords_none live]
  · rw [res, ret]
    simp only [Journal.uncollected, recs]
    simp only [Journal.uncollected] at cap
    omega
  · rw [recs]; exact len
  · rw [hu] at hc; cases hc

/-- An entry in transmission stands in the queue. -/
theorem current_mem {l : Link} {e : TxEntry} (h : l.current = some e) : e ∈ l.ordinary ++ l.reserved := by
  have := List.mem_of_find?_eq_some h
  rw [List.mem_append] at this ⊢
  exact this.symm

theorem finishFrame_carries {s : State} (hp : s.unit.powered = true) : Carries s (finishFrame s) := by
  unfold finishFrame
  split
  · exact setLine_carries s _ (by rfl) (by rfl) (by rfl) (by exact fun k => k)
  · next e he =>
    have dropped : Carries s (s.setLink { s.link.dropCurrent with driver := .released, failures := 0 }) :=
      dropCurrent_carries s .released 0
    unfold tellSent
    split
    · exact dropped
    · exact dropped.trans (readSent_carries _)
    · next hr =>
      refine ⟨dropped.shaped.trans (makeRestart_shaped _), fun k =>
        makeRestart_deliveries hp ?_ (dropped.deliveries k)⟩
      obtain ⟨-, -, -, -, -, cf⟩ := k
      refine Bool.eq_false_iff.mpr fun hc => ?_
      exact cf hc e (current_mem he) hr

/-! ### Contents of frames (R78, R187) -/

/-- The sound content of a fixed body: its ranges hold. -/
theorem fixedBody_sound {α : Type} {b : List Byte} {n : Nat} {ok : Bool} {c d : α}
    (h : fixedBody b n ok c = .sound d) :
    ok = true ∧ c = d := by
  unfold fixedBody at h
  split at h
  · cases h
  · split at h
    · next k => exact ⟨k, Content.sound.inj h⟩
    · cases h

theorem drawBody_quantity {b : List Byte} {d : DrawBody} (h : drawBody b = .sound d) : d.quantity ≤ 4294967295 := by
  obtain ⟨hr, rfl⟩ := fixedBody_sound h
  simp only [Bool.and_eq_true, within_eq_true] at hr
  exact hr.2.2

theorem allDistinct_nodup : ∀ {l : List Nat}, allDistinct l = true → l.Nodup
  | [], _ => .nil
  | a :: l, h => by
    unfold allDistinct at h
    simp only [Bool.and_eq_true, Bool.not_eq_true', List.contains_eq_mem, decide_eq_false_iff_not] at h
    exact List.nodup_cons.mpr ⟨h.1, allDistinct_nodup h.2⟩

/-- The codes of the lube products stand for different products (R187). -/
theorem productOfCode_inj : ∀ a b : Fin 7, 2 ≤ a.val → 2 ≤ b.val →
    productOfCode a.val = productOfCode b.val → a = b := by
  decide

theorem rosterSetBody_windows {b : List Byte} {d : RosterSetBody} (h : rosterSetBody b = .sound d) :
    windowsInOrder (d.windows.map windowOfSetting) := by
  unfold rosterSetBody at h
  split at h
  · cases h
  split at h
  · cases h
  next hn =>
  split at h
  · cases h
  dsimp only at h
  split at h
  · next hr =>
    cases h
    simp only [Bool.and_eq_true] at hr
    obtain ⟨⟨-, hin⟩, hd⟩ := hr
    generalize hw : (List.range (field b 15 1)).map (windowSetting b) = ws at hin hd
    refine ⟨?_, ?_⟩
    · rw [List.length_map, ← hw, List.length_map, List.length_range]
      omega
    · rw [List.pairwise_map]
      have distinct := List.pairwise_map.mp (allDistinct_nodup hd)
      refine distinct.imp_of_mem fun {u v} hu hv huv e => huv ?_
      have range {w : WindowSetting} (m : w ∈ ws) : 2 ≤ w.product ∧ w.product ≤ 6 := by
        have := List.all_eq_true.mp hin w m
        simp only [windowInRange, Bool.and_eq_true, within_eq_true] at this
        exact this.1.1.1.1.1
      have := productOfCode_inj ⟨u.product, by have := range hu; omega⟩ ⟨v.product, by have := range hv; omega⟩
        (range hu).1 (range hv).1 e
      exact congrArg Fin.val this
  · cases h

/-! ### One millisecond -/

theorem tick_fault (s : State) : (advance s).inConfigFault = s.inConfigFault := rfl

theorem advance_carries (s : State) : Carries s (advance s) := by
  refine ⟨⟨fun k => (collectionsKept_iff _).mpr fun p => ?_, fun k => (widthsKept_iff _).mpr fun p => ?_⟩,
    SameDeliveries.kept ⟨fun h => ?_, fun h => ?_, rfl, rfl, rfl, ?_, rfl, fun _ k => k⟩⟩
  · have kp := (collectionsKept_iff s).mp k p
    cases p
    case books => exact fun b => by simpa [advance, Book.tick] using kp b
    case probes => exact fun c => by simpa [advance, Probe.tick] using kp c
    case peers =>
      obtain ⟨⟨hl, ho⟩, ht⟩ := kp
      refine ⟨⟨by simpa [advance] using hl, List.pairwise_map.mpr ho⟩, fun p hp => ?_⟩
      obtain ⟨q, hq, rfl⟩ := List.mem_map.mp hp
      exact ht q hq
    all_goals exact kp
  · have kp := (widthsKept_iff s).mp k p
    cases p
    case meters => exact fun h => by simpa [advance, Meter.tick, Meter.fits] using kp h
    case hoses => exact fun h => by simpa [advance, Hose.tick] using kp h
    case books => exact fun b => by simpa [advance, Book.tick] using kp b
    case unit =>
      obtain ⟨hs, hm⟩ := kp
      show s.unit.tick.seconds < _ ∧ s.unit.tick.millis < _
      unfold StartUnit.tick
      split
      · next h => exact ⟨hs, h⟩
      · exact ⟨Nat.mod_lt _ (by omega), Nat.zero_lt_succ _⟩
    all_goals exact kp
  · simp [advance, Hose.tick]
  · simp [advance, Hose.tick]
  · show s.unit.tick.powered = _
    unfold StartUnit.tick
    split <;> rfl

/-! ### Every command -/

theorem takes_carries {c : Instr} {s : State} {f : State → State} (he : exec c s = .next (whenPowered f s))
    (hf : s.unit.powered = true → Carries s (f s)) : Takes c s (Carries s) := by
  refine ⟨_, he, ?_⟩
  unfold whenPowered
  split
  · next hp => exact hf hp
  · exact .refl s

theorem takes_carries_takeHead {c : Instr} {s : State} {b : Block} {ks : List FrameKind} {f : Frame → State → State}
    (he : exec c s = .next (whenPowered (takeHead b ks f) s)) (hf : ∀ a t, Carries t (f a t)) :
    Takes c s (Carries s) :=
  takes_carries he fun _ => takeHead_carries fun _ a t _ _ => hf a t

/-- The link's join state changes between LISTEN, JOINED and ISOLATED, and its timers. -/
theorem setJoin_carries (s : State) (j : JoinState) (a b : Option Nat) (hs : s.link.join ≠ .configFault)
    (hj : j ≠ .configFault) :
    Carries s (s.setLink { s.link with join := j, joinTimer := a, isolationTimer := b }) := by
  refine setLink_carries s _ (by exact fun k => k) (by exact fun k => k) ?_ (by exact fun _ k => k)
  simp [State.inConfigFault, hs, hj]

/-- In CONFIG_FAULT no RESTART is taken (R176). -/
theorem restart_notInFault {src : Nat} {fault : Bool} (h : Block.startUnit ∈ ownersOf .restart src fault) :
    fault = false := by
  cases fault with
  | false => rfl
  | true => simp [ownersOf] at h

theorem lampFlash_carries (h : HoseIx) (s : State) :
    Carries s (match (s.hoses.get h).state, ranOut (s.hoses.get h).flash Config.flashMs with
      | .outOfService _, true =>
        s.setHose h { s.hoses.get h with lamp := !(s.hoses.get h).lamp, flash := some 0 }
      | _, _ => s) := by
  split
  · exact setHose_carries s h _ (by rfl) (by exact fun k => k) (by rfl)
  · exact .refl s

theorem exec_carries (c : Instr) (s : State) : Takes c s (Carries s) := by
  cases c with
  | qualifiedPhaseChange h la ha lb hb => exact takes_carries rfl fun _ => phaseChange_carries h la ha lb hb s
  | creepWindowExpiry _ =>
    exact takes_carries rfl fun _ => .ite (fun _ => restartCreepWindow_carries s) fun _ => .refl s
  | rateWindowExpiry h _ => exact takes_carries rfl fun _ => .ite (fun _ => takeRate_carries h s) fun _ => .refl s
  | meterSettled h _ =>
    exact takes_carries rfl fun _ =>
      .ite (fun _ => (setValve_carries s h _).trans (closeSettled_carries h _)) fun _ => .refl s
  | drivePeriodStart h _ =>
    exact takes_carries rfl fun _ => .ite (fun _ => .of_frame (startPeriod_frame h s) rfl) fun _ => .refl s
  | dutyOnTimeEnd h _ => exact takes_carries rfl fun _ => .ite (fun _ => setValve_carries s h _) fun _ => .refl s
  | valveProofChange h closed _ =>
    exact takes_carries rfl fun _ => .ite (fun _ => .refl s) fun _ => takeValveProof_carries h closed s
  | zeroDutySettle h _ => exact takes_carries rfl fun _ => .ite (fun _ => checkStuck_carries h s) fun _ => .refl s
  | flowPastExpiry h _ =>
    exact takes_carries rfl fun _ => .ite (fun _ => stuckOut_carries (closeRaw_carries h _ _ _ s)) fun _ => .refl s
  | pumpSettleExpiry p _ =>
    exact takes_carries rfl fun _ =>
      .ite (fun _ => .ite (fun _ => runPump_carries p s) fun _ => faultPump_carries p s) fun _ => .refl s
  | pumpProofChange p present _ =>
    have proof := setPump_carries s p { s.pumps.get p with proof := present }
    exact takes_carries rfl fun _ =>
      .ite (fun _ => .refl s) fun _ => .ite (fun _ => proof.trans (faultPump_carries p _)) fun _ => proof
  | minimumOffExpiry p _ =>
    exact takes_carries rfl fun _ =>
      .ite (fun _ => .ite (fun _ => setPump_carries s p _) fun _ => setPump_carries s p _) fun _ => .refl s
  | nozzleHookChange h offHook _ =>
    exact takes_carries rfl fun _ => .ite (fun _ => .refl s) fun _ => takeHook_carries h _ s
  | tagFrame h good machine hours =>
    exact takes_carries rfl fun hp => .ite (fun _ => takeTag_carries h machine hours s hp) fun _ => .refl s
  | claimTimerExpiry h _ =>
    exact takes_carries rfl fun _ =>
      .ite (fun c => moveHose_carries_rest h _ s (by rw [c.1]; rfl) rfl) fun _ => .refl s
  | tagGraceExpiry h _ =>
    exact takes_carries rfl fun _ => .ite (fun _ => .ite (fun _ => endingRequest_carries h _ s) fun _ => .refl s)
      fun _ => .refl s
  | noFlowTimeout h _ =>
    exact takes_carries rfl fun _ => .ite (fun _ => endingRequest_carries h _ s) fun _ => .refl s
  | lampFlashToggle h _ => exact takes_carries rfl fun _ => lampFlash_carries h s
  | permitExpiry machine product _ =>
    refine takes_carries rfl fun _ => ?_
    split
    · exact .refl s
    · exact .ite (fun _ => removePermit_carries machine product s) fun _ => .refl s
  | drawBook =>
    refine takes_carries_takeHead rfl fun a t => ?_
    split
    · next d _ => exact (bookDraw_carries a.src d t).trans (deadLevelWatch_carries d.tank _)
    · exact .refl t
  | drawAccount =>
    refine takes_carries_takeHead rfl fun a t => ?_
    split
    · next d hd => exact takeDrawAccount_carries a.src d t (drawBody_quantity hd)
    · exact .refl t
  | receipt =>
    refine takes_carries_takeHead rfl fun a t => ?_
    split
    · next r _ => exact (bookReceipt_carries a r t).trans (deadLevelWatch_carries r.tank _)
    · exact .refl t
  | level =>
    refine takes_carries_takeHead rfl fun a t => ?_
    split
    · next l _ => exact takeLevel_carries l t
    · exact .refl t
  | gaugeAgeExpiry k _ =>
    refine takes_carries rfl fun _ => .ite (fun _ => ?_) fun _ => .refl s
    obtain ⟨hr, hv⟩ := age_keeps (s.books.get k)
    exact setBook_carries s k _ (by rw [hr]; exact fun h => h) (by rw [hv]; exact fun h => h)
  | conflictTimerExpiry _ => exact takes_carries rfl fun _ => .ite (fun _ => setGauging_carries s _) fun _ => .refl s
  | scanTimerExpiry _ => exact takes_carries rfl fun _ => .ite (fun _ => startScans_carries s) fun _ => .refl s
  | probeGateClose c n => exact takes_carries rfl fun _ => .ite (fun _ => scan_carries c n s) fun _ => .refl s
  | spillInputConfirm i b _ =>
    exact takes_carries rfl fun _ => .ite (fun _ => .refl s) fun _ => confirmInput_carries i b s
  | emergencyStop b _ => exact takes_carries rfl fun _ => .ite (fun _ => .refl s) fun _ => takeButton_carries b s
  | tripResetKey _ => exact takes_carries rfl fun _ => .ite (fun _ => .refl s) fun _ => takeReset_carries s
  | keyRelease _ =>
    exact takes_carries rfl fun _ => .ite (fun _ => .refl s) fun _ => setTripUnit_carries_items s _ (by rfl)
  | overrideHoldExpiry _ =>
    refine takes_carries rfl fun _ => .ite (fun _ => ?_) fun _ => .refl s
    exact (setTripUnit_carries_items s _ (by rfl)).trans (withZone_carries (dropOrigins_carries _ _))
  | trip => exact takes_carries_takeHead rfl takeTrip_carries
  | clear => exact takes_carries_takeHead rfl takeClear_carries
  | beacon => exact takes_carries_takeHead rfl takeBeacon_carries
  | peerTableUpdate => exact takes_carries_takeHead rfl hearPeer_carries
  | peerQuietExpiry address _ => exact takes_carries rfl fun _ => quietPeer_carries address s
  | peerLostExpiry address _ =>
    refine takes_carries rfl fun _ => ?_
    split
    · exact .refl s
    · exact .ite (fun _ => losePeer_carries address _ s) fun _ => .refl s
  | beaconTimerExpiry _ => exact takes_carries rfl fun _ => .ite (fun _ => sendBeacon_carries s) fun _ => .refl s
  | rosterSet =>
    refine takes_carries_takeHead rfl fun a t => ?_
    split
    · next b hb => exact takeRosterSet_carries a b t (rosterSetBody_windows hb)
    · exact .refl t
  | rosterRemove =>
    refine takes_carries_takeHead rfl fun a t => ?_
    split
    · next id _ => exact takeRosterRemove_carries a id t
    · exact .refl t
  | permit =>
    refine takes_carries_takeHead rfl fun a t => ?_
    split
    · next b _ => exact takePermit_carries a b t
    · exact .refl t
  | accountRead =>
    refine takes_carries_takeHead rfl fun a t => ?_
    split
    · next b _ => exact takeAccountRead_carries a b t
    · exact .refl t
  | journalRead => exact takes_carries_takeHead rfl takeJournalRead_carries
  | collect => exact takes_carries_takeHead rfl takeCollect_carries
  | stopHose => exact takes_carries_takeHead rfl takeStopHose_carries
  | statusReq => exact takes_carries_takeHead rfl takeStatusReq_carries
  | identReq => exact takes_carries_takeHead rfl fun a t => reply_carries _ _ _ _ _ t fun _ h => by cases h
  | restart =>
    refine takes_carries rfl fun _ => takeHead_carries fun k a t hk ho => reply_carries _ _ _ _ _ t fun hf _ => ?_
    obtain rfl : k = .restart := by simpa using hk
    rw [restart_notInFault ho] at hf
    cases hf
  | time => exact takes_carries_takeHead rfl takeTime_carries
  | unknownKindFrame => exact takes_carries rfl fun _ => takeUnowned_carries s
  | characterReceived b m g => exact takes_carries rfl fun _ => hearCharacter_carries b m g s
  | characterTimeout n => exact takes_carries rfl fun _ => loseFrame_carries n s
  | accessGapReached n => exact takes_carries rfl fun _ => reachGap_carries n s
  | leadTimeEnd =>
    refine takes_carries rfl fun _ => ?_
    dsimp only
    split
    · exact setLine_carries s _ (by rfl) (by rfl) (by rfl) (by exact fun k => k)
    · exact .refl s
  | echoMismatch =>
    refine takes_carries rfl fun _ => ?_
    split
    · exact failAttempt_carries s
    · exact .refl s
  | frameSent =>
    refine takes_carries rfl fun hp => ?_
    split
    · exact finishFrame_carries hp
    all_goals exact .refl s
  | joinTimerExpiry _ =>
    refine takes_carries rfl fun _ => .ite (fun c => ?_) fun _ => .refl s
    exact setJoin_carries s .joined none s.link.isolationTimer (by rw [c.1]; decide) (by decide)
  | isolationHoldExpiry _ =>
    refine takes_carries rfl fun _ => .ite (fun c => ?_) fun _ => .refl s
    exact setJoin_carries s .listen (some 0) none (by rw [c.1]; decide) (by decide)
  | powerOn strap image held lostAfter =>
    exact ⟨_, rfl, powerOn_shaped strap image held lostAfter s, powerOn_deliveries strap image held lostAfter⟩
  | mainPowerLoss =>
    exact ⟨_, rfl, losePower_shaped s, fun k => losePower_deliveries (fun _ => k) k.placesFit⟩

/-- A property that every command and every millisecond carries on, and that does not speak of the commands waiting, is
kept by a step. -/
theorem step_carries {Inv : State → Prop} (hq : ∀ s cs, Inv s → Inv { s with pending := cs })
    (hc : ∀ {s t}, Carries s t → Inv s → Inv t) {s t : State} (k : Inv s) (h : step s = .next t) : Inv t := by
  refine step_keeps hq (fun s => hc (advance_carries s)) (fun c s ks => ?_) k h
  obtain ⟨u, hu, ku⟩ := exec_carries c s
  exact ⟨u, hu, hc ku ks⟩

/-- Settles O5: every command and every millisecond carries the deliveries' accounting on. -/
theorem everyStepKeepsTheDeliveries : Obligations.EveryStepKeepsTheDeliveries :=
  fun _ _ k h => step_carries (fun _ _ k => k) (fun c => c.deliveries) k h

/-- Settles O6: every command and every millisecond carries the collections on. -/
theorem everyStepKeepsTheCollections : Obligations.EveryStepKeepsTheCollections :=
  fun _ _ k h => step_carries (fun _ _ k => k) (fun c => c.shaped.collections) k h

/-- Settles O7: every command and every millisecond carries the widths on. -/
theorem everyStepKeepsTheWidths : Obligations.EveryStepKeepsTheWidths :=
  fun _ _ k h => step_carries (fun _ _ k => k) (fun c => c.shaped.widths) k h

end Sys2Proof.Machine
end

section
/-! SUPPORT. The statements of tier 1: the step, the idle station, the reset, the drive periods, the minimum-off timer, tag
frames outside WAITING, and the qualification of inputs and keys. -/

namespace Sys2Proof.Machine

/-! ### What a command does on a powered station -/

/-- The next state of a command on a station with power. -/
theorem exec_powered {c : Instr} {s t : State} {f : State → State} (hp : s.unit.powered = true)
    (he : exec c s = .next (whenPowered f s)) (h : f s = t) : exec c s = .next t := by
  rw [he, whenPowered_on hp, h]

/-- The effect of a command on a station with power. -/
theorem takes_powered {c : Instr} {s : State} {f : State → State} {P : State → Prop} (hp : s.unit.powered = true)
    (he : exec c s = .next (whenPowered f s)) (h : P (f s)) : Takes c s P :=
  ⟨f s, exec_powered hp he rfl, h⟩

theorem ranOut_eq_true {t : Timer} {limit : Nat} : ranOut t limit = true ↔ ∃ n, t = some n ∧ limit ≤ n := by
  cases t <;> simp

theorem ranOut_eq_false {t : Timer} {limit : Nat} : ranOut t limit = false ↔ ∀ n, t = some n → n < limit := by
  cases t <;> simp

/-- Settles O1: the step's second case. -/
theorem stepTakesTheFrontCommand : Obligations.StepTakesTheFrontCommand := by
  intro c rest s h
  simp [step, h]

/-- Settles O8: every count of the reset is 0, every collection empty and every output off. -/
theorem resetMeetsTheInvariants : Obligations.ResetMeetsTheInvariants := by
  refine ⟨⟨fun h => ?_, fun p c => ?_, fun h c => ?_⟩, ⟨fun h => ?_, rfl, Nat.zero_le _, Nat.zero_le _, ?_, ?_⟩,
    (collectionsKept_iff _).mpr fun p => ?_, (widthsKept_iff _).mpr fun p => ?_⟩
  · cases h <;> exact ⟨rfl, rfl, fun _ => ⟨rfl, rfl⟩⟩
  · cases p <;> cases c
  · cases c
  · refine ⟨by cases h <;> rfl, fun l hl => ?_⟩
    cases h <;> cases hl
  · exact fun c => by cases c
  · exact fun c => by cases c
  · cases p <;> simp [State.ordered, State.reset, rosterInOrder, permitsInOrder, keysInOrder, originsInOrder,
      peersInOrder]
  · cases p <;> simp [State.fitsAt, State.reset, Counts.fit, Meter.fits, netFits]

/-! ### The drive periods and the minimum-off timer -/

theorem Valve.period_eq_none {v : Valve} : v.period = none ↔ v.periodDuty = 0 := by
  unfold Valve.period
  split <;> simp [*]

theorem Valve.period_ranOut {v : Valve} {limit : Nat} :
    ranOut v.period limit = true ↔ v.periodDuty ≠ 0 ∧ limit ≤ v.periodTime := by
  unfold Valve.period
  split <;> simp [*]

/-- Settles O15, by the branches of the two drive commands. -/
theorem drivePeriodsSwitchTheOutput : Obligations.DrivePeriodsSwitchTheOutput := by
  intro s h hp
  refine ⟨fun hd hend => ?_, fun hk => ?_, fun h0 h1 hend => ?_, fun hk => ?_⟩
  · have ends : (s.valves.get h).period.isNone = true
        ∨ ranOut (s.valves.get h).period (s.hoseCfg h).drivePeriodMs = true := by
      rw [Option.isNone_iff_eq_none, Valve.period_eq_none, Valve.period_ranOut]
      omega
    exact exec_powered hp rfl ((if_pos ends).trans (if_neg hd))
  · by_cases hd : (s.valves.get h).duty = 0
    · refine exec_powered hp rfl ?_
      have : startPeriod h s = s := if_pos hd
      dsimp only
      rw [this, ite_self]
    · have runs : ¬((s.valves.get h).period.isNone = true
          ∨ ranOut (s.valves.get h).period (s.hoseCfg h).drivePeriodMs = true) := by
        rw [Option.isNone_iff_eq_none, Valve.period_eq_none, Valve.period_ranOut]
        omega
      exact exec_powered hp rfl (if_neg runs)
  · refine exec_powered hp rfl (if_pos ⟨h1, Valve.period_ranOut.mpr ⟨by omega, hend⟩⟩)
  · refine exec_powered hp rfl (if_neg fun ⟨h1, h2⟩ => ?_)
    obtain ⟨h2, h3⟩ := Valve.period_ranOut.mp h2
    unfold onTime at h3
    omega

/-- Settles O19, by the branches of MINIMUM_OFF_EXPIRY. -/
theorem minimumOffExpiryStartsOrStopsThePump : Obligations.MinimumOffExpiryStartsOrStopsThePump := by
  refine ⟨fun s p m hp hs ht hm => ?_, fun s p hp hk => ?_⟩
  · have out : (s.pumps.get p).state = .cooldown
        ∧ ranOut (s.pumps.get p).timer (secondsMs s.cfg.pumpMinimumOff) = true :=
      ⟨hs, ranOut_eq_true.mpr ⟨m, ht, hm⟩⟩
    exact ⟨fun hn => ⟨exec_powered hp rfl ((if_pos out).trans (if_pos hn)), rfl⟩,
      fun hn => exec_powered hp rfl ((if_pos out).trans (if_neg hn))⟩
  · refine exec_powered hp rfl (if_neg fun ⟨hs, hr⟩ => ?_)
    obtain ⟨m, ht, hm⟩ := ranOut_eq_true.mp hr
    rcases hk with hk | hk
    · exact hk hs
    · exact Nat.not_lt.mpr hm (hk m ht)

/-! ### Tag frames outside WAITING -/

theorem tagValid_iff {good : Bool} {machine : Nat} {hours : Option Nat} :
    tagValid good machine hours = true
      ↔ good = true ∧ (1 ≤ machine ∧ machine ≤ 16777214) ∧ ∀ v, hours = some v → v ≤ 999999 := by
  cases hours <;> simp [tagValid, within, and_assoc]

theorem takeTag_run {h : HoseIx} {machine : Nat} {hours : Option Nat} {s : State}
    (hr : runState (s.hoses.get h).state = true) : takeTag h machine hours s = refreshTag h machine s := by
  unfold takeTag
  cases hs : (s.hoses.get h).state <;> first | rfl | (rw [hs] at hr; cases hr)

theorem takeTag_rest {h : HoseIx} {machine : Nat} {hours : Option Nat} {s : State}
    (hw : (s.hoses.get h).state ≠ .waiting) (hr : runState (s.hoses.get h).state = false) :
    takeTag h machine hours s = s := by
  unfold takeTag
  cases hs : (s.hoses.get h).state <;> first | rfl | exact absurd hs hw | (rw [hs] at hr; cases hr)

/-- Settles O25: a valid frame of the delivery's machine restarts the tag timer, and no other does anything. -/
theorem tagFramesRestartTheTagTimer : Obligations.TagFramesRestartTheTagTimer := by
  intro s h good machine hours hp
  refine ⟨fun l hr hl hg h1 h2 hh => ?_, fun hw hr => ?_, fun hk => ?_⟩
  · have valid := tagValid_iff.mpr ⟨hg, ⟨h1, h2⟩, hh⟩
    have refreshed : refreshTag h machine s
        = if l.machine = machine then s.setHose h { s.hoses.get h with tagTimer := some 0 } else s := by
      simp [refreshTag, hl]
    exact ⟨fun hm => exec_powered hp rfl ((if_pos valid).trans ((takeTag_run hr).trans (refreshed.trans (if_pos hm)))),
      fun hm => exec_powered hp rfl ((if_pos valid).trans ((takeTag_run hr).trans (refreshed.trans (if_neg hm))))⟩
  · exact exec_powered hp rfl (by rw [takeTag_rest hw hr, ite_self])
  · refine exec_powered hp rfl (if_neg fun hv => ?_)
    obtain ⟨hg, ⟨h1, h2⟩, hh⟩ := tagValid_iff.mp hv
    rcases hk with hk | hk | hk | ⟨v, hv, hk⟩
    · simp [hk] at hg
    · omega
    · omega
    · have := hh v hv
      omega

/-! ### Inputs and keys -/

theorem confirmInput_unused {i : InputIx} {b : Bool} {s : State} (h : (s.cfg.spill.get i).function = .none) :
    confirmInput i b s = s := by
  simp [confirmInput, h, causeOfFunction]

theorem causeOfFunction_some {f : SpillFunction} (h : f ≠ .none) : ∃ c, causeOfFunction f = some c := by
  cases f with
  | none => exact absurd rfl h
  | sump => exact ⟨_, rfl⟩
  | vapour => exact ⟨_, rfl⟩

theorem confirmInput_atRest {i : InputIx} {s : State} (h : (s.cfg.spill.get i).function ≠ .none) :
    confirmInput i (s.cfg.spill.get i).senseOpen s
      = s.setTripUnit { s.tripUnit with inputs := s.tripUnit.inputs.set i .atRest } := by
  obtain ⟨c, hc⟩ := causeOfFunction_some h
  simp [confirmInput, hc, confirmed]

/-- Settles O40, by the branches of the four commands. -/
theorem inputsAndKeysAreQualified : Obligations.InputsAndKeysAreQualified := by
  refine ⟨fun s hp => ⟨fun i b n hn => ?_, fun i b n hf => ?_, fun i n hn hf => ?_, fun b n hn => ?_, fun n hn => ?_⟩,
    fun s n hp => ⟨fun hn => ⟨?_, ?_⟩, fun hn hk => ?_, fun hn hk => ?_, fun hn => ?_⟩⟩
  · exact exec_powered hp rfl (if_pos hn)
  · exact exec_powered hp rfl (by rw [confirmInput_unused hf, ite_self])
  · exact exec_powered hp rfl ((if_neg (Nat.not_lt.mpr hn)).trans (confirmInput_atRest hf))
  · exact exec_powered hp rfl (if_pos hn)
  · exact exec_powered hp rfl ((if_neg (Nat.not_lt.mpr hn)).trans (if_neg fun h => by simp at h))
  · exact exec_powered hp rfl (if_pos hn)
  · exact exec_powered hp rfl (if_pos hn)
  · exact exec_powered hp rfl ((if_neg (Nat.not_lt.mpr hn)).trans (by simp only [takeReset, hk]))
  · exact exec_powered hp rfl ((if_neg (Nat.not_lt.mpr hn)).trans (by simp only [takeReset, hk]))
  · exact exec_powered hp rfl (if_neg (Nat.not_lt.mpr hn))

end Sys2Proof.Machine
end

section
/-! SUPPORT. The idle station (O2): what it queues of itself, the passing of a frame to its owners, one millisecond, and
which expiries are due. -/

namespace Sys2Proof.Machine

/-! ### What the idle station does -/

theorem step_idle {s : State} (h : s.pending = []) : step s = .next (idle s) := by
  unfold step
  rw [h]

theorem enqueue_empty {s : State} (h : s.pending = []) (cs : List Instr) : s.enqueue cs = { s with pending := cs } := by
  unfold State.enqueue
  rw [h, List.nil_append]

theorem attemptAt_iff {s : State} {n : Nat} :
    s.attemptAt n = true ↔ s.link.driver = .released ∧ s.mayDrive = true
      ∧ ∃ e, s.link.first = some e ∧ accessGap s.ownAddress e ≤ n := by
  unfold State.attemptAt
  split
  · next e hd he => simp [hd, he]
  · next hn =>
    simp only [Bool.false_eq_true, false_iff, not_and, not_exists]
    exact fun hd _ e he => absurd he (hn e hd)

theorem attemptDue_some {s : State} {n : Nat} (hs : s.link.silence = some n) (ha : s.attemptAt n = true) :
    s.attemptDue = some n := by
  simp [State.attemptDue, hs, ha]

theorem attemptDue_none {s : State} (h : ∀ n, s.link.silence = some n → s.attemptAt n = false) :
    s.attemptDue = none := by
  unfold State.attemptDue
  cases hs : s.link.silence with
  | none => rfl
  | some n => simp [h n hs]

theorem idle_attempts {s : State} {n : Nat} (hp : s.unit.powered = true) (ha : s.attemptDue = some n) :
    idle s = s.enqueue [.accessGapReached n] := by
  simp [idle, hp, ha]

theorem idle_passes {s : State} {e : RxEntry} {rest : List RxEntry} (hp : s.unit.powered = true)
    (ha : s.attemptDue = none) (hb : s.link.buffer = e :: rest) :
    idle s = s.enqueue (passOn e s.inConfigFault) := by
  simp [idle, hp, ha, hb]

theorem idle_ticks {s : State} (hp : s.unit.powered = true) (ha : s.attemptDue = none) (hb : s.link.buffer = []) :
    idle s = (advance s).enqueue (expiries (advance s)) := by
  simp [idle, hp, ha, hb]

/-! ### Passing a frame on (R157, R175, R176) -/

theorem passOn_sound {e : RxEntry} {fault : Bool} {k : FrameKind} (hk : kindOfCode e.frame.kind = some k)
    (hv : verdict e.frame = .sound) (ht : e.taken = []) (ho : ownersOf k e.frame.src fault ≠ []) :
    passOn e fault = (ownersOf k e.frame.src fault).map (takeCommand k) := by
  have all (l : List Block) : l.filter (fun b => !e.taken.contains b) = l := by simp [ht]
  unfold passOn
  rw [hk]
  dsimp only
  rw [all, if_pos ⟨hv, ho⟩]

theorem passOn_unsound {e : RxEntry} {fault : Bool} {k : FrameKind} (hk : kindOfCode e.frame.kind = some k)
    (hv : verdict e.frame ≠ .sound) : passOn e fault = [takeCommand k (firstOwner k)] := by
  unfold passOn
  rw [hk]
  exact if_neg fun h => hv h.1

/-- The reports that go to the peer table come from stations (R176). -/
theorem sourceOk_of_sound {f : Frame} {k : FrameKind} (hk : kindOfCode f.kind = some k) (hv : verdict f = .sound) :
    sourceOk k f.src = true := by
  unfold verdict at hv
  rw [hk] at hv
  dsimp only at hv
  split at hv
  · cases hv
  · next h => simpa using h

theorem firstOwner_mem {k : FrameKind} (hk : familyOf k ≠ .reply) : firstOwner k ∈ mainOwners k := by
  cases k <;> first | decide | exact absurd rfl hk

theorem takeCommand_firstOwner_reply {k : FrameKind} (hk : familyOf k = .reply) :
    takeCommand k (firstOwner k) = .unknownKindFrame := by
  cases k <;> first | rfl | cases hk

theorem verdict_reply {f : Frame} {k : FrameKind} (hk : kindOfCode f.kind = some k) (hr : familyOf k = .reply) :
    verdict f ≠ .sound := fun hv => by
  have := sourceOk_of_sound hk hv
  simp [sourceOk, hr] at this

theorem passOn_report {e : RxEntry} {k : FrameKind} (hk : kindOfCode e.frame.kind = some k)
    (hv : verdict e.frame = .sound) (ht : e.taken = []) (hf : familyOf k = .report) (hl : k ≠ .level) :
    passOn e false = (mainOwners k ++ [Block.peerTable]).map (takeCommand k) := by
  have station : isStation e.frame.src = true := by simpa [sourceOk, hf, hl] using sourceOk_of_sound hk hv
  have owners : ownersOf k e.frame.src false = mainOwners k ++ [.peerTable] := by simp [ownersOf, station]
  rw [passOn_sound hk hv ht (by simp [owners]), owners]

theorem passOn_office {e : RxEntry} {k : FrameKind} (hk : kindOfCode e.frame.kind = some k)
    (hv : verdict e.frame = .sound) (ht : e.taken = []) (hf : familyOf k = .administrative ∨ familyOf k = .request)
    (ho : mainOwners k ≠ []) : passOn e false = (mainOwners k).map (takeCommand k) := by
  have office : isOffice e.frame.src = true := by
    have := sourceOk_of_sound hk hv
    rcases hf with hf | hf <;> simpa [sourceOk, hf] using this
  have station : isStation e.frame.src = false := by
    simp only [isOffice, within_eq_true] at office
    simp only [isStation, within_eq_false]
    omega
  have owners : ownersOf k e.frame.src false = mainOwners k := by simp [ownersOf, station]
  rw [passOn_sound hk hv ht (by rw [owners]; exact ho), owners]

/-- In CONFIG_FAULT the start unit alone takes STATUS_REQ, IDENT_REQ and TIME (R57, R176). -/
theorem passOn_startUnit {e : RxEntry} {k : FrameKind} (fault : Bool) (hk : kindOfCode e.frame.kind = some k)
    (hv : verdict e.frame = .sound) (ht : e.taken = []) (hs : k = .statusReq ∨ k = .identReq ∨ k = .time) :
    passOn e fault = [takeCommand k .startUnit] := by
  have main : mainOwners k = [.startUnit] := by rcases hs with rfl | rfl | rfl <;> rfl
  cases fault with
  | false =>
    have family : familyOf k = .administrative ∨ familyOf k = .request := by
      rcases hs with rfl | rfl | rfl <;> simp [familyOf]
    rw [passOn_office hk hv ht family (by simp [main]), main]
    rfl
  | true =>
    have owners : ownersOf k e.frame.src true = [.startUnit] := by rcases hs with rfl | rfl | rfl <;> rfl
    rw [passOn_sound hk hv ht (by simp [owners]), owners]
    rfl

theorem passOn_level {e : RxEntry} (hk : kindOfCode e.frame.kind = some .level) (hv : verdict e.frame = .sound)
    (ht : e.taken = []) : passOn e false = if e.frame.src ≤ 47 then [.level, .peerTableUpdate] else [.level] := by
  have source : isStation e.frame.src = true ∨ isOffice e.frame.src = true := by
    simpa [sourceOk, familyOf] using sourceOk_of_sound hk hv
  have station : isStation e.frame.src = decide (e.frame.src ≤ 47) := by
    simp only [isStation, isOffice, within_eq_true] at source ⊢
    rw [Bool.eq_iff_iff, within_eq_true, decide_eq_true_iff]
    omega
  rw [passOn_sound hk hv ht (by simp [ownersOf, mainOwners])]
  by_cases h : e.frame.src ≤ 47 <;> simp [ownersOf, mainOwners, station, h, takeCommand]

theorem passOn_beacon_fault {e : RxEntry} (hk : kindOfCode e.frame.kind = some .beacon) (hv : verdict e.frame = .sound)
    (ht : e.taken = []) : passOn e true = [.peerTableUpdate] := by
  rw [passOn_sound hk hv ht (by simp [ownersOf])]
  rfl

/-! ### One millisecond (R206) -/

theorem tick_clock {u : StartUnit} (hm : u.millis < 1000) (hs : u.seconds < 4294967296) :
    u.tick.seconds * 1000 + u.tick.millis = (u.seconds * 1000 + u.millis + 1) % 4294967296000 := by
  unfold StartUnit.tick
  split <;> dsimp only <;> omega

theorem advance_clock {s : State} (cs : List Instr) (hm : s.unit.millis < 1000) (hs : s.unit.seconds < 4294967296) :
    State.clock { advance s with pending := cs } = (s.clock + 1) % 4294967296000 := by
  unfold State.clock
  exact tick_clock hm hs

theorem advance_frame (s : State) (cs : List Instr) :
    sameOutside [.unit, .creepTimer, .meters, .valves, .pumps, .hoses, .books, .probes, .gauging, .tripUnit, .link,
      .peers, .beaconTimer, .pending] s { advance s with pending := cs } := by
  intro p hp
  cases p <;> first | rfl | exact ⟨rfl, rfl⟩ | exact absurd (by decide) hp

/-! ### Which expiries are due -/

theorem mem_due {c d : Instr} {t : Timer} {limit : Nat} : c ∈ due t limit d ↔ t = some limit ∧ c = d := by
  unfold due
  split <;> simp [*]

theorem period_eq_some {v : Valve} {n : Nat} : v.period = some n ↔ v.periodDuty ≠ 0 ∧ v.periodTime = n := by
  unfold Valve.period
  split <;> simp [*]

theorem mem_driveDue {c : Instr} {s : State} {h : HoseIx} : c ∈ driveDue s h ↔
    (s.meters.get h).rateTimer = 1000 ∧ c = .rateWindowExpiry h
    ∨ (s.meters.get h).quiet = s.cfg.endSettle * 1000 ∧ c = .meterSettled h
    ∨ ((s.valves.get h).periodDuty ≠ 0 ∧ (s.valves.get h).periodTime
        = ((s.valves.get h).periodDuty * (s.hoseCfg h).drivePeriodMs + 99) / 100) ∧ c = .dutyOnTimeEnd h
    ∨ ((s.valves.get h).periodDuty ≠ 0 ∧ (s.valves.get h).periodTime = (s.hoseCfg h).drivePeriodMs)
      ∧ c = .drivePeriodStart h
    ∨ ((s.valves.get h).duty = 0 ∧ (s.valves.get h).zeroTime = s.cfg.endSettle * 1000) ∧ c = .zeroDutySettle h
    ∨ (s.valves.get h).flowPast = some (s.cfg.endingLimit * 1000) ∧ c = .flowPastExpiry h := by
  simp [driveDue, mem_due, period_eq_some, onTime, secondsMs, Config.rateWindowMs]

theorem mem_pumpDue {c : Instr} {s : State} {p : PumpIx} : c ∈ pumpDue s p ↔
    ((s.pumps.get p).state = .starting ∧ (s.pumps.get p).timer = some (s.cfg.pumpSettle * 1000))
      ∧ c = .pumpSettleExpiry p
    ∨ ((s.pumps.get p).state = .cooldown ∧ (s.pumps.get p).timer = some (s.cfg.pumpMinimumOff * 1000))
      ∧ c = .minimumOffExpiry p := by
  unfold pumpDue
  dsimp only
  cases hs : (s.pumps.get p).state <;> simp [mem_due, secondsMs]

theorem mem_hoseDue {c : Instr} {s : State} {h : HoseIx} : c ∈ hoseDue s h ↔
    (s.hoses.get h).claimTimer = some (s.cfg.claimTime * 1000) ∧ c = .claimTimerExpiry h
    ∨ (s.hoses.get h).tagTimer = some (s.cfg.tagGrace * 1000) ∧ c = .tagGraceExpiry h
    ∨ (s.hoses.get h).noFlow = some (s.cfg.noFlowTime * 1000) ∧ c = .noFlowTimeout h
    ∨ (s.hoses.get h).flash = some 500 ∧ c = .lampFlashToggle h := by
  simp [hoseDue, mem_due, secondsMs, Config.flashMs]

theorem mem_permitsDue {c : Instr} {s : State} : c ∈ permitsDue s ↔
    s.unit.millis = 0 ∧ ∃ q ∈ s.accounts.permits, .permitExpiry q.machine q.product = c ∧ q.expiry = s.unit.seconds := by
  unfold permitsDue
  by_cases h : s.unit.millis = 0
  · rw [if_pos h]
    simp only [List.mem_map, List.mem_filter, beq_iff_eq, h, true_and, and_assoc]
    exact exists_congr fun q => and_congr_right fun _ => and_comm
  · simp [h]

theorem mem_peersDue {c : Instr} {s : State} : c ∈ peersDue s ↔
    (∃ p ∈ s.peers, .peerLostExpiry p.address = c ∧ p.lostTimer = some (s.cfg.lostTimeout * 1000))
    ∨ ∃ p ∈ s.peers, .peerQuietExpiry p.address = c ∧ p.state = .heard
      ∧ p.quietTimer = some (2 * p.interval * 1000) := by
  unfold peersDue
  simp only [List.mem_append, List.mem_flatMap, mem_due, secondsMs]
  refine or_congr (exists_congr fun p => and_congr_right fun _ => ?_) (exists_congr fun p => and_congr_right fun _ => ?_)
  · rw [and_comm, eq_comm (a := c)]
  · by_cases h : p.state = .heard
    · rw [if_pos h, mem_due, and_comm, eq_comm (a := c)]
      simp [h]
    · simp [h]

theorem mem_stationDue {c : Instr} {s : State} : c ∈ stationDue s ↔
    s.creepTimer = s.cfg.creepWindow * 1000 ∧ c = .creepWindowExpiry
    ∨ s.gauging.conflictTimer = some (s.cfg.gaugeAgeLimit * 1000) ∧ c = .conflictTimerExpiry
    ∨ s.gauging.scanTimer = s.cfg.scanInterval * 1000 ∧ c = .scanTimerExpiry
    ∨ s.tripUnit.overrideTimer = some 5000 ∧ c = .overrideHoldExpiry
    ∨ s.link.joinTimer = some (s.cfg.joinTime * 1000) ∧ c = .joinTimerExpiry
    ∨ s.link.isolationTimer = some (s.cfg.isolationHold * 1000) ∧ c = .isolationHoldExpiry
    ∨ s.beaconTimer = s.cfg.beaconInterval * 1000 ∧ c = .beaconTimerExpiry := by
  simp [stationDue, mem_due, secondsMs, Config.overrideHoldMs]

theorem mem_expiries {c : Instr} {s : State} : c ∈ expiries s ↔
    (∃ h, c ∈ driveDue s h) ∨ (∃ p, c ∈ pumpDue s p) ∨ (∃ h, c ∈ hoseDue s h) ∨ c ∈ permitsDue s
    ∨ (∃ k, (s.books.get k).ageTimer = some (s.cfg.gaugeAgeLimit * 1000) ∧ c = .gaugeAgeExpiry k)
    ∨ c ∈ stationDue s ∨ c ∈ peersDue s := by
  simp [expiries, mem_due, secondsMs, HoseIx.mem_all, PumpIx.mem_all, BookIx.mem_all]

theorem expiries_pending (s : State) (cs : List Instr) : expiries { s with pending := cs } = expiries s := rfl

/-- Settles O2: what the idle station queues, the frames it passes on, one millisecond, and the expiries due. -/
theorem idleStationPassesFramesAndTime : Obligations.IdleStationPassesFramesAndTime := by
  refine ⟨fun s hq => ⟨fun hp => ?_, fun n e hp hd hm hs hf hg => ?_, fun hp hk => ?_⟩, fun e fault => ⟨fun hk => ?_,
    fun k hk => ⟨fun hr => ?_, fun hv hr => ?_, fun hv ht => ?_⟩⟩, fun t => ?_⟩
  · rw [step_idle hq, idle, if_neg (by simp [hp])]
  · have due := attemptDue_some hs (attemptAt_iff.mpr ⟨hd, hm, e, hf, hg⟩)
    rw [step_idle hq, idle_attempts hp due, enqueue_empty hq]
  · have due : s.attemptDue = none := attemptDue_none fun n hn => by
      rw [Bool.eq_false_iff, ne_eq, attemptAt_iff]
      rintro ⟨hd, hm, e, he, hg⟩
      rcases hk with hk | hk | hk | hk | ⟨n', e', hn', he', hg'⟩
      · exact hk hd
      · rw [hk] at hm; cases hm
      · rw [hk] at hn; cases hn
      · rw [hk] at he; cases he
      · rw [hn] at hn'; rw [he] at he'
        cases hn'; cases he'
        omega
    refine ⟨fun e rest hb => ?_, fun hb hm hs => ?_⟩
    · rw [step_idle hq, idle_passes hp due hb, enqueue_empty hq]
    · have pending : (advance s).pending = [] := hq
      refine ⟨{ advance s with pending := expiries (advance s) }, ?_, advance_clock _ hm hs,
        (expiries_pending (advance s) _).symm, fun h => ?_, fun h => ?_,
        fun p => ?_, fun h => ?_, fun k => ?_, fun c => ?_, rfl, rfl, rfl, rfl, rfl, rfl, advance_frame s _⟩
      · rw [step_idle hq, idle_ticks hp due hb, enqueue_empty pending]
      · simp [advance, Meter.tick]
      · refine ⟨by simp [advance, Valve.tick, Timer.tick], fun h0 => ?_, fun h0 => ?_⟩ <;>
          simp [advance, Valve.tick, h0]
      · simp [advance, Pump.tick, Timer.tick]
      · simp [advance, Hose.tick, Timer.tick]
      · simp [advance, Book.tick, Timer.tick]
      · simp [advance, Probe.tick, Timer.tick]
  · simp [passOn, hk]
  · rw [passOn_unsound hk (verdict_reply hk hr), takeCommand_firstOwner_reply hr]
  · exact ⟨firstOwner k, firstOwner_mem hr, passOn_unsound hk hv⟩
  · refine ⟨fun h => ⟨?_, ?_⟩, fun h => ?_, fun h => ?_, fun h => ?_, fun h => ?_, fun h => ?_, fun h => ?_, fun h => ?_,
      fun h => ?_, fun h => ?_, fun h => ?_, fun h => ?_, fun h => ?_, fun h => ?_, fun h => ?_, fun h => ?_,
      fun h => ?_⟩ <;> subst h
    · exact passOn_report hk hv ht rfl (by decide)
    · exact passOn_beacon_fault hk hv ht
    · exact passOn_report hk hv ht rfl (by decide)
    · exact passOn_report hk hv ht rfl (by decide)
    · exact passOn_report hk hv ht rfl (by decide)
    · exact passOn_level hk hv ht
    · exact passOn_office hk hv ht (.inl rfl) (by decide)
    · exact passOn_office hk hv ht (.inl rfl) (by decide)
    · exact passOn_office hk hv ht (.inl rfl) (by decide)
    · exact passOn_office hk hv ht (.inr rfl) (by decide)
    · exact passOn_office hk hv ht (.inr rfl) (by decide)
    · exact passOn_office hk hv ht (.inr rfl) (by decide)
    · exact passOn_office hk hv ht (.inr rfl) (by decide)
    · exact passOn_office hk hv ht (.inr rfl) (by decide)
    · exact passOn_office hk hv ht (.inr rfl) (by decide)
    · exact passOn_startUnit fault hk hv ht (.inl rfl)
    · exact passOn_startUnit fault hk hv ht (.inr (.inl rfl))
    · exact passOn_startUnit fault hk hv ht (.inr (.inr rfl))
  · simp only [mem_expiries, mem_driveDue, mem_pumpDue, mem_hoseDue, mem_permitsDue, mem_stationDue, mem_peersDue]
    simp [and_assoc]

end Sys2Proof.Machine
end

section
/-! SUPPORT. Metering (O9 to O13): raised causes and meters, steps outside a delivery and in one, invalid transitions,
windows, and the conversions. -/

namespace Sys2Proof.Machine

/-! ### What raising a cause leaves behind (R114, R121) -/

theorem latch_causes (t : TripUnit) (c : Cause) : (t.latch c).causes = t.causes.put c true := by
  unfold TripUnit.latch
  dsimp only
  split <;> rfl

theorem CauseSet.has_put (x : CauseSet) (c : Cause) : (x.put c true).has c = true := by cases c <;> rfl

theorem CauseSet.any_of_has {x : CauseSet} {c : Cause} (h : x.has c = true) : x.any = true := by
  cases c <;> simp_all [CauseSet.any, CauseSet.has]

theorem tripped_of_has {s : State} {c : Cause} (h : s.tripUnit.causes.has c = true) : s.tripped = true := by
  simp [State.tripped, CauseSet.any_of_has h]

/-- The trip record once a new cause is latched, and announced where it is zone-wide. -/
def latched (c : Cause) (s : State) : State :=
  if zoneWideCause c then announce (s.setTripUnit (s.tripUnit.latch c)) else s.setTripUnit (s.tripUnit.latch c)

theorem raise_held {s : State} {c : Cause} (h : s.tripUnit.causes.has c = true) : raise c s = s := if_pos h

theorem raise_new {s : State} {c : Cause} (h : s.tripUnit.causes.has c = false) :
    raise c s = zoneFollows s (latched c s) := if_neg (by simp [h])

theorem latched_frame (c : Cause) (s : State) : sameOutside (.tripUnit :: handing) s (latched c s) :=
  .ite ((setTripUnit_frame _ _).then (announce_frame _) rfl rfl) ((setTripUnit_frame _ _).mono rfl)

theorem announce_causes (s : State) : (announce s).tripUnit.causes = s.tripUnit.causes := by
  unfold announce
  split
  · rfl
  · rw [show (handOver _ _).tripUnit = _ from handOver_frame _ _ .tripUnit (by decide)]
    rfl

theorem latched_causes (c : Cause) (s : State) : (latched c s).tripUnit.causes = s.tripUnit.causes.put c true := by
  unfold latched
  split
  · rw [announce_causes]; exact latch_causes _ c
  · exact latch_causes _ c

theorem latched_tripped (c : Cause) (s : State) : (latched c s).tripped = true :=
  tripped_of_has (c := c) (by rw [latched_causes, CauseSet.has_put])

theorem zoneFollows_trips {s0 s : State} (h : s.tripped = true) :
    zoneFollows s0 s = if s0.tripped then s else enterTripped s := by
  cases h0 : s0.tripped <;> simp [zoneFollows, h, h0]

/-- What the entry to TRIPPED keeps, a raised cause keeps from the state with the cause latched. -/
theorem raise_keeps {α : Type} {f : State → α} {s : State} {c : Cause} (hc : s.tripUnit.causes.has c = false)
    (hf : ∀ t, f (enterTripped t) = f t) : f (raise c s) = f (latched c s) := by
  rw [raise_new hc, zoneFollows_trips (latched_tripped c s)]
  split
  · rfl
  · exact hf _

theorem raise_causes {s : State} {c : Cause} (hc : s.tripUnit.causes.has c = false) :
    (raise c s).tripUnit.causes = s.tripUnit.causes.put c true := by
  rw [← latched_causes]
  exact raise_keeps (f := fun s => s.tripUnit.causes) hc fun t => by rw [(enterTripped_kept t).1]

theorem raise_has (c : Cause) (s : State) : (raise c s).tripUnit.causes.has c = true := by
  cases hc : s.tripUnit.causes.has c with
  | true => rw [raise_held hc, hc]
  | false => rw [raise_causes hc, CauseSet.has_put]

theorem raise_tripped (c : Cause) (s : State) : (raise c s).tripped = true := tripped_of_has (raise_has c s)

/-! ### Meters but for their quiet time -/

/-- A hose's meter channel but for its quiet time, which restarts as its valve closes (R5). -/
def State.steady (s : State) (h : HoseIx) : Meter := { s.meters.get h with quiet := 0 }

theorem steady_of_meters {s t : State} (h : t.meters = s.meters) : t.steady = s.steady := by
  funext g
  simp [State.steady, h]

/-- Meters that are steady differ in their quiet times alone. -/
theorem meter_of_steady {s t : State} (e : t.steady = s.steady) (h : HoseIx) :
    t.meters.get h = { s.meters.get h with quiet := (t.meters.get h).quiet } :=
  congrArg (fun m : Meter => { m with quiet := (t.meters.get h).quiet }) (congrFun e h)

theorem net_of_steady {s t : State} (e : t.steady = s.steady) (h : HoseIx) :
    (t.meters.get h).net = (s.meters.get h).net := by
  rw [meter_of_steady e h]

theorem steady_of_quiet {s t : State}
    (h : ∀ g, t.meters.get g = s.meters.get g ∨ t.meters.get g = { s.meters.get g with quiet := 0 }) :
    t.steady = s.steady := by
  funext g
  unfold State.steady
  rcases h g with e | e <;> rw [e]

theorem steady_foldl {α : Type} {f : State → α → State} (hf : ∀ s a, (f s a).steady = s.steady) (l : List α) (s : State) :
    (l.foldl f s).steady = s.steady := by
  induction l generalizing s with
  | nil => rfl
  | cons a l ih => rw [List.foldl_cons, ih, hf]

theorem refreshValve_steady (h : HoseIx) (s : State) : (refreshValve h s).steady = s.steady :=
  steady_of_quiet (refreshValve_meter h s)

theorem moveHose_steady (h : HoseIx) (st : HoseState) (s : State) : (moveHose h st s).steady = s.steady :=
  steady_of_quiet (moveHose_meter h st s)

theorem endRaw_steady (h : HoseIx) (r : EndReason) (s : State) : (endRaw h r s).steady = s.steady := by
  unfold endRaw
  split <;> first | rfl | exact moveHose_steady h .ending _

theorem tripHose_steady (h : HoseIx) (s : State) : (tripHose h s).steady = s.steady := by
  unfold tripHose
  split
  · exact moveHose_steady h _ s
  · exact endRaw_steady h _ s

theorem watchRaw_steady (tank : Nat) (s : State) : (watchRaw tank s).steady = s.steady := by
  unfold watchRaw
  split
  · exact steady_foldl (fun s h => endRaw_steady h _ s) _ s
  · rfl

theorem closeRaw_steady (h : HoseIx) (b : Bool) (f : Option HoseFault) (r : EndReason) (s : State) :
    (closeRaw h b f r s).steady = s.steady := by
  have handed (c : Closed) (t : State) : (handOff c t).steady = t.steady :=
    steady_of_meters (handOff_frame c t .meters (by decide))
  have moved (st : HoseState) (x : Hose) : (moveHose h st (s.setHose h x)).steady = s.steady :=
    (moveHose_steady h st _).trans rfl
  unfold closeRaw
  dsimp only
  split
  · rfl
  · split
    · rw [handed, moved]
    · rw [watchRaw_steady, handed, moved]

theorem settleNew_steady (s0 : State) : ∀ (n : Nat) (s : State), (settleNew s0 n s).steady = s.steady
  | 0, _ => rfl
  | n + 1, s => by
    unfold settleNew
    split
    · rfl
    · rw [settleNew_steady s0 n, closeRaw_steady]

theorem settling_steady {f : State → State} {s : State} (hf : (f s).steady = s.steady) :
    (settling f s).steady = s.steady := (settleNew_steady s 6 _).trans hf

theorem endingRequest_steady (h : HoseIx) (r : EndReason) (s : State) : (endingRequest h r s).steady = s.steady :=
  settling_steady (endRaw_steady h r s)

theorem deadLevelWatch_steady (tank : Nat) (s : State) : (deadLevelWatch tank s).steady = s.steady :=
  settling_steady (watchRaw_steady tank s)

theorem enterTripped_steady (s : State) : (enterTripped s).steady = s.steady := by
  unfold enterTripped
  have pumps (t : State) : (PumpIx.all.foldl (fun s p => tripPump p s) t).steady = t.steady :=
    steady_foldl (fun s p => steady_of_meters (tripPump_frame p s .meters (by decide))) _ t
  rw [settling_steady (steady_foldl (fun s h => tripHose_steady h s) _ _), pumps]
  exact steady_foldl (fun s h => refreshValve_steady h s) _ s

theorem raise_steady (c : Cause) (s : State) : (raise c s).steady = s.steady := by
  cases hc : s.tripUnit.causes.has c with
  | true => rw [raise_held hc]
  | false =>
    rw [raise_keeps (f := State.steady) hc enterTripped_steady]
    exact steady_of_meters (latched_frame c s .meters (by decide))

/-! ### Steps outside a delivery (O9) -/

/-- A step of a hose without a live delivery: the channel and the hose move on, and a forward step that brings V of the
creep accumulator to the limit raises CREEP (R3, R6). -/
theorem exec_restStep {s : State} {h : HoseIx} {la : Bool} {ha : Nat} {lb : Bool} {hb : Nat} {a b forward : Bool}
    (hm : s.phaseMoves h la ha lb hb a b (stepMove forward)) (hl : liveState (s.hoses.get h).state = false) {m : Meter}
    (he : m = { (s.meters.get h).moved a b with
      window := (s.meters.get h).window + stepCount forward
      creep := if forward then min ((s.meters.get h).creep + 1) 4294967295 else (s.meters.get h).creep - 1 }) :
    exec (.qualifiedPhaseChange h la ha lb hb) s = .next
      (if forward && s.cfg.creepUsable && decide (s.cfg.creepLimit ≤ volume (s.hoseCfg h).meterK m.creep)
        then raise .creep ((s.setMeter h m).setHose h (s.hoses.get h).moved)
        else (s.setMeter h m).setHose h (s.hoses.get h).moved) := by
  rw [exec_phaseMoves hm]
  have step (x : State) : takeMove h (stepMove forward) x = takeStep h forward (seeMotion h x) := by
    cases forward <;> rfl
  subst he
  rw [step]
  unfold takeStep seeMotion
  dsimp only
  rw [if_neg (by simpa using hl)]
  cases h <;> rfl

/-- Settles O9: below the creep limit the step alone, at or above it CREEP raised. -/
theorem stepOutsideADeliveryMovesTheCreepAccumulator : Obligations.StepOutsideADeliveryMovesTheCreepAccumulator := by
  refine ⟨fun s h la ha lb hb a b forward hm hl hb => ?_, fun s h la ha lb hb a b hm hl hu hv => ?_⟩
  · rw [exec_restStep hm hl rfl, if_neg]
    simp only [Bool.and_eq_true, decide_eq_true_eq, not_and, and_imp]
    intro hf hu
    have := hb hf hu
    simp only [hf, if_true]
    omega
  · obtain ⟨m, he⟩ : ∃ m : Meter, m = { (s.meters.get h).moved a b with
      window := (s.meters.get h).window + stepCount true
      creep := min ((s.meters.get h).creep + 1) 4294967295 } := ⟨_, rfl⟩
    have stepped := exec_restStep (forward := true) hm hl he
    rw [if_pos (by simpa [hu, he] using hv)] at stepped
    have meter := meter_of_steady (raise_steady .creep ((s.setMeter h m).setHose h (s.hoses.get h).moved)) h
    rw [State.setHose_meters, State.setMeter_meters, PerHose.get_set_self] at meter
    exact ⟨_, stepped, raise_has .creep _, raise_tripped .creep _, (congrArg Meter.creep meter).trans (by rw [he]),
      (congrArg Meter.window meter).trans (by rw [he])⟩

/-! ### Steps of a live delivery (O10) -/

/-- The state in which one of two endings is chosen (log 13). -/
def State.chosen (s : State) : State := { s with choices := s.choices + 1 }

theorem chosen_frame (s : State) : sameOutside [.choices] s s.chosen := by
  intro p hp
  cases p <;> first | rfl | exact ⟨rfl, rfl⟩ | exact absurd (by decide) hp

theorem afterLiveStep_below {s : State} {h : HoseIx} {l : Live} (hl : (s.hoses.get h).live = some l)
    (hs : ¬(((s.hoses.get h).state = .flowing ∨ (s.hoses.get h).state = .trimming)
      ∧ (l.stopCount : Int) ≤ (s.meters.get h).net))
    (ht : ¬((s.hoses.get h).state = .flowing ∧ (l.trimCount : Int) ≤ (s.meters.get h).net)) :
    afterLiveStep h s = deadLevelWatch l.tank s := by
  unfold afterLiveStep
  simp only [hl]
  rw [if_neg (by simpa using hs), if_neg ht]

theorem afterLiveStep_stop {s : State} {h : HoseIx} {l : Live} (hl : (s.hoses.get h).live = some l)
    (hs : (s.hoses.get h).state = .flowing ∨ (s.hoses.get h).state = .trimming)
    (hn : (l.stopCount : Int) ≤ (s.meters.get h).net) :
    afterLiveStep h s = if s.stockGone l.tank then
        deadLevelWatch l.tank (endingRequest h (if Config.stockWatchFirst s.choices then .stock else .preset) s.chosen)
      else deadLevelWatch l.tank (endingRequest h .preset s) := by
  unfold afterLiveStep
  simp only [hl]
  rw [if_pos (by simpa [hn] using hs)]
  rfl

theorem afterLiveStep_trim {s : State} {h : HoseIx} {l : Live} (hl : (s.hoses.get h).live = some l)
    (hs : (s.hoses.get h).state = .flowing) (ht : (l.trimCount : Int) ≤ (s.meters.get h).net)
    (hn : (s.meters.get h).net < l.stopCount) :
    afterLiveStep h s = deadLevelWatch l.tank (moveHose h .trimming s) := by
  unfold afterLiveStep
  simp only [hl]
  rw [if_neg (by simp; omega), if_pos ⟨hs, ht⟩]

/-- The state once a hose's meter channel has moved (R2 to R5, R41). -/
def State.moves (s : State) (h : HoseIx) (m : Meter) : State := (s.setMeter h m).setHose h (s.hoses.get h).moved

section
variable (s : State) (h : HoseIx) (m : Meter)

theorem moves_frame : sameOutside [.meters, .hoses] s (s.moves h m) :=
  (setMeter_frame s h m).then (setHose_frame _ _ _) rfl rfl

theorem moves_hose : (s.moves h m).hoses.get h = (s.hoses.get h).moved := PerHose.get_set_self _ _ _

theorem moves_meter : (s.moves h m).meters.get h = m := PerHose.get_set_self _ _ _

theorem moves_others : otherHosesSame h s (s.moves h m) := fun _ hg => PerHose.get_set_ne _ _ hg

theorem moves_state (g : HoseIx) : ((s.moves h m).hoses.get g).state = (s.hoses.get g).state := by
  by_cases e : g = h
  · subst e; rw [moves_hose]; rfl
  · rw [moves_others s h m g e]

theorem moves_live (g : HoseIx) : ((s.moves h m).hoses.get g).live = (s.hoses.get g).live := by
  by_cases e : g = h
  · subst e; rw [moves_hose]; rfl
  · rw [moves_others s h m g e]

theorem moves_liveTank (g : HoseIx) : (s.moves h m).liveTank g = s.liveTank g :=
  liveTank_congr (by rw [moves_state]) (by rw [moves_live])

theorem moves_stockGone (n : Nat) : (s.moves h m).stockGone n = (s.setMeter h m).stockGone n :=
  stockGone_congr (s := s.setMeter h m) (t := s.moves h m) rfl rfl (fun g => congrArg liveState (moves_state s h m g))
    (fun g => congrArg _ (moves_live s h m g)) (fun _ => rfl) n
end

/-- A meter that has just moved has the end settle before it, where there is one (R5, R45). -/
theorem settlesLater_iff_of_quiet {s : State} {h : HoseIx} (hq : (s.meters.get h).quiet = 0) :
    s.settlesLater h ↔ 0 < s.cfg.endSettle := by
  refine ⟨fun k => k.1, fun k => ⟨k, .inr ?_⟩⟩
  simp [State.quietForSettle, secondsMs, hq]
  omega

theorem stepped_quiet (m : Meter) (a b forward : Bool) : (m.stepped a b forward).quiet = 0 := rfl

/-- An ending changes nothing that the dead-level watch weighs (R90, R92). -/
theorem stockGone_endingRequest {s : State} {h : HoseIx} {l : Live} {r : EndReason}
    (hr : runState (s.hoses.get h).state = true) (hl : (s.hoses.get h).live = some l) (hs : s.settlesLater h)
    (n : Nat) : (endingRequest h r s).stockGone n = s.stockGone n := by
  obtain ⟨est, elive, -, -, -, -, eo, ef⟩ := endingRequest_entersEnding r hr hl hs
  refine stockGone_congr (ef .unit (by decide)) (ef .books (by decide)) (fun g => ?_) (fun g => ?_) (fun g => ?_) n
  · by_cases e : g = h
    · subst e; rw [est, liveState_run hr]; rfl
    · rw [eo g e]
  · by_cases e : g = h
    · subst e; rw [elive, hl]; rfl
    · rw [eo g e]
  · exact net_of_steady (endingRequest_steady h r s) g

/-- Leaving FLOWING for TRIMMING changes nothing that the dead-level watch weighs. -/
theorem stockGone_trims {s : State} {h : HoseIx} (hs : (s.hoses.get h).state = .flowing) (n : Nat) :
    (moveHose h .trimming s).stockGone n = s.stockGone n := by
  have f := moveHose_frame h .trimming s
  refine stockGone_congr (f .unit (by decide)) (f .books (by decide)) (fun g => ?_) (fun g => ?_)
    (fun g => moveHose_net h _ s g) n
  · by_cases e : g = h
    · subst e; simp [hs, enter_state, liveState]
    · rw [moveHose_hose, if_neg e]
  · by_cases e : g = h
    · subst e; simp [Hose.enter]
    · rw [moveHose_hose, if_neg e]

/-- The dead-level watch read from a state before a move of one drawing hose of the tank. -/
theorem StockEnds.of_moved {s s' t : State} {h : HoseIx} {l : Live} (f : sameOutside moving s s')
    (hg : ∀ g, g ≠ h → SameHose g s s') (hr : runState (s.hoses.get h).state = true)
    (hr' : runState (s'.hoses.get h).state = true) (hl : (s.hoses.get h).live = some l)
    (hl' : (s'.hoses.get h).live = some l) (hs : s'.settlesLater h ↔ s.settlesLater h)
    (hn : (s'.meters.get h).net = (s.meters.get h).net) (hm : (s'.hoses.get h).meterMark = (s.hoses.get h).meterMark)
    (hh : (s'.hoses.get h).hook = (s.hoses.get h).hook) (ho : (s'.hoses.get h).overrun = (s.hoses.get h).overrun)
    (k : StockEnds l.tank s' t) : StockEnds l.tank s t := by
  obtain ⟨ends, rest, fr⟩ := k
  have hu : s'.unit = s.unit := f .unit (by decide)
  have tank (g : HoseIx) : s'.liveTank g = s.liveTank g := by
    by_cases e : g = h
    · subst e; exact liveTank_congr (by rw [liveState_run hr, liveState_run hr']) (by rw [hl, hl'])
    · exact liveTank_congr (by rw [(hg g e).1]) (by rw [(hg g e).1])
  have drawing : s.liveTank h = some l.tank := by simp [State.liveTank, liveState_run hr, hl]
  refine ⟨fun g lg gr gl gt => ?_, fun g gk => ?_, f.then fr rfl rfl⟩
  · by_cases e : g = h
    · subst e
      obtain rfl : lg = l := Option.some.inj (gl.symm.trans hl)
      obtain ⟨k1, k2⟩ := ends g lg hr' hl' rfl
      exact ⟨k1.of_same hu hs hn hm hh ho, fun others => (k2 fun a ha => by rw [tank]; exact others a ha).of_same f hs hn
        hm hh ho fun a ha => (hg a ha).1⟩
    · obtain ⟨gh, gm, gv⟩ := hg g e
      obtain ⟨k1, -⟩ := ends g lg (by rw [gh]; exact gr) (by rw [gh]; exact gl) gt
      have gs : s'.settlesLater g ↔ s.settlesLater g := by
        simp only [State.settlesLater, State.quietForSettle, State.cfg, hu, gm, gv]
      exact ⟨k1.of_same hu gs (by rw [gm]) (by rw [gh]) (by rw [gh]) (by rw [gh]),
        fun others => absurd drawing (others h fun c => e c.symm)⟩
  · have e : g ≠ h := by
      rintro rfl
      rcases gk with c | c
      · rw [c] at hr; cases hr
      · exact c drawing
    rw [rest g (by rw [(hg g e).1, tank]; exact gk), (hg g e).1]

theorem runState_of_moving {st : HoseState} (h : st = .flowing ∨ st = .trimming) : runState st = true := by
  rcases h with rfl | rfl <;> rfl

/-- A step that reaches Pstop with the tank's stock above the dead level ends the delivery with PRESET (R40, R44). -/
theorem stopStep_ends {s : State} {h : HoseIx} {l : Live} (hl : (s.hoses.get h).live = some l)
    (hs : (s.hoses.get h).state = .flowing ∨ (s.hoses.get h).state = .trimming)
    (hn : (l.stopCount : Int) ≤ (s.meters.get h).net) (hg : s.stockGone l.tank = false) (hq : s.settlesLater h) :
    EntersEnding h l .preset s (afterLiveStep h s) := by
  have run := runState_of_moving hs
  rw [afterLiveStep_stop hl hs hn, if_neg (by simp [hg]),
    deadLevelWatch_stock (by rw [stockGone_endingRequest run hl hq, hg])]
  exact endingRequest_entersEnding .preset run hl hq

/-- A step that reaches Ptrim alone in FLOWING takes the hose to TRIMMING (R40). -/
theorem trimStep_moves {s : State} {h : HoseIx} {l : Live} (hl : (s.hoses.get h).live = some l)
    (hs : (s.hoses.get h).state = .flowing) (ht : (l.trimCount : Int) ≤ (s.meters.get h).net)
    (hn : (s.meters.get h).net < l.stopCount) (hg : s.stockGone l.tank = false) :
    afterLiveStep h s = moveHose h .trimming s := by
  rw [afterLiveStep_trim hl hs ht hn, deadLevelWatch_stock (by rw [stockGone_trims hs, hg])]

/-- The dead-level watch after a step that leaves the hose drawing. -/
theorem drawStep_stockEnds {s : State} {h : HoseIx} {l : Live} (hl : (s.hoses.get h).live = some l)
    (hg : s.stockGone l.tank = true) (hq : (s.meters.get h).quiet = 0)
    (hs : ¬(((s.hoses.get h).state = .flowing ∨ (s.hoses.get h).state = .trimming)
      ∧ (l.stopCount : Int) ≤ (s.meters.get h).net)) :
    StockEnds l.tank s (afterLiveStep h s) := by
  by_cases ht : (s.hoses.get h).state = .flowing ∧ (l.trimCount : Int) ≤ (s.meters.get h).net
  · obtain ⟨hf, ht⟩ := ht
    have hn : (s.meters.get h).net < l.stopCount := by
      by_contra c
      exact hs ⟨.inl hf, by omega⟩
    have quiet : ((moveHose h .trimming s).meters.get h).quiet = 0 := by
      rcases moveHose_meter h .trimming s h with e | e <;> rw [e]
      exact hq
    have unit : (moveHose h .trimming s).unit = s.unit := moveHose_frame h _ s .unit (by decide)
    rw [afterLiveStep_trim hl hf ht hn]
    refine StockEnds.of_moved (moveHose_frame h .trimming s) (fun g e => moveHose_others _ s e) (by rw [hf]; rfl) ?_ hl
      ?_ ?_ (moveHose_net h _ s h) ?_ ?_ ?_ (deadLevelWatch_stockEnds (by rw [stockGone_trims hf, hg]))
    · simp [enter_state, runState]
    · simp [Hose.enter, hl]
    · rw [settlesLater_iff_of_quiet quiet, settlesLater_iff_of_quiet hq, State.cfg, unit, State.cfg]
    · simp [Hose.enter]
    · simp [Hose.enter]
    · simp [Hose.enter]
  · rw [afterLiveStep_below hl hs ht]
    exact deadLevelWatch_stockEnds hg

/-- The dead-level watch leaves a hose in ENDING, with its valve and meter (R92). -/
theorem deadLevelWatch_sameEnding {s : State} {h : HoseIx} (tank : Nat) (hs : (s.hoses.get h).state = .ending) :
    SameHose h s (deadLevelWatch tank s) := by
  have hr : runState (s.hoses.get h).state = false := by rw [hs]; rfl
  have k : SameHose h s (watchRaw tank s) := watchRaw_others (.inl hr)
  exact k.trans (settleNew_others 6 _ (by rw [k.1]; exact hr) (.inr (.inl hs)))

/-- A step that reaches Pstop with the tank's stock gone ends the delivery with one of the two reasons, and the watch ends
the tank's others with STOCK (R40, R92, log 13). -/
theorem stopStep_stockGone {s : State} {h : HoseIx} {l : Live} (hl : (s.hoses.get h).live = some l)
    (hs : (s.hoses.get h).state = .flowing ∨ (s.hoses.get h).state = .trimming)
    (hn : (l.stopCount : Int) ≤ (s.meters.get h).net) (hg : s.stockGone l.tank = true) (hq : s.settlesLater h) :
    (((afterLiveStep h s).hoses.get h).state = .ending
      ∧ ((afterLiveStep h s).hoses.get h).live = some { l with
          endReason := some (if Config.stockWatchFirst s.choices then .stock else .preset)
          closeCount := some (l.closeCount.getD (s.meters.get h).net) }
      ∧ ((afterLiveStep h s).valves.get h).duty = 0 ∧ (afterLiveStep h s).choices = s.choices + 1)
    ∧ (∀ g m, g ≠ h → runState (s.hoses.get g).state = true → (s.hoses.get g).live = some m → m.tank = l.tank →
        HoseEnded g m .stock s (afterLiveStep h s))
    ∧ (∀ g, g ≠ h → runState (s.hoses.get g).state = false ∨ s.liveTank g ≠ some l.tank →
        (afterLiveStep h s).hoses.get g = s.hoses.get g)
    ∧ ((∀ g, g ≠ h → s.liveTank g ≠ some l.tank) → sameOutside (.choices :: moving) s (afterLiveStep h s)) := by
  have run := runState_of_moving hs
  rw [afterLiveStep_stop hl hs hn, if_pos hg]
  generalize (if Config.stockWatchFirst s.choices then EndReason.stock else .preset) = r
  have kept : sameOutside (.choices :: moving) s (endingRequest h r s.chosen) := by
    rw [endingRequest_eq (s := s.chosen) r run hl hq]
    exact (chosen_frame s).then (enterEnding_frame h r _) rfl rfl
  have others (g : HoseIx) (e : g ≠ h) : SameHose g s (endingRequest h r s.chosen) := by
    rw [endingRequest_eq (s := s.chosen) r run hl hq]
    exact enterEnding_others (s := s.chosen) r e
  have count : (endingRequest h r s.chosen).choices = s.choices + 1 := by
    rw [endingRequest_eq (s := s.chosen) r run hl hq]
    exact enterEnding_frame h r s.chosen .choices (by decide)
  obtain ⟨est, elive, -, eduty, -, -, -, -⟩ := endingRequest_entersEnding (s := s.chosen) r run hl hq
  have gone := stockGone_endingRequest (s := s.chosen) (r := r) run hl hq l.tank
  generalize endingRequest h r s.chosen = m at *
  have unit : m.unit = s.unit := kept .unit (by decide)
  obtain ⟨ends, rest, fr⟩ := deadLevelWatch_stockEnds (s := m) (tank := l.tank) (gone.trans hg)
  obtain ⟨kh, -, kv⟩ := deadLevelWatch_sameEnding (s := m) l.tank est
  have tank (g : HoseIx) (e : g ≠ h) : m.liveTank g = s.liveTank g :=
    liveTank_congr (by rw [(others g e).1]) (by rw [(others g e).1])
  refine ⟨⟨by rw [kh]; exact est, by rw [kh]; exact elive, by rw [kv]; exact eduty, ?_⟩, fun g n e gr gl gt => ?_,
    fun g e gk => ?_, fun alone => ?_⟩
  · rw [show (deadLevelWatch l.tank m).choices = m.choices from fr .choices (by decide), count]
  · obtain ⟨gh, gm, gv⟩ := others g e
    refine (ends g n (by rw [gh]; exact gr) (by rw [gh]; exact gl) gt).1.of_same unit ?_ (by rw [gm]) (by rw [gh])
      (by rw [gh]) (by rw [gh])
    simp only [State.settlesLater, State.quietForSettle, State.cfg, unit, gm, gv]
  · rw [rest g (by rw [(others g e).1, tank g e]; exact gk), (others g e).1]
  · rw [deadLevelWatch_ending est elive fun g e => by rw [tank g e]; exact alone g e]
    exact kept

/-- A live delivery's step as its step's state with what follows (R3, R7, R40, R92). -/
theorem exec_step {s : State} {h : HoseIx} {la : Bool} {ha : Nat} {lb : Bool} {hb : Nat} {a b forward : Bool}
    (hm : s.phaseMoves h la ha lb hb a b (stepMove forward)) (hl : liveState (s.hoses.get h).state = true) :
    exec (.qualifiedPhaseChange h la ha lb hb) s
      = .next (afterLiveStep h (s.moves h ((s.meters.get h).stepped a b forward))) := exec_liveStep hm hl

theorem moves_settlesLater {s : State} {h : HoseIx} {m : Meter} (hq : m.quiet = 0) (he : 0 < s.cfg.endSettle) :
    (s.moves h m).settlesLater h := (settlesLater_iff_of_quiet (by rw [moves_meter, hq])).mpr he

/-- A step that leaves the thresholds of its state and the dead level unreached (R40, R92). -/
theorem quietStep_stays {s : State} {h : HoseIx} {l : Live} (hl : (s.hoses.get h).live = some l)
    (hs : ¬(((s.hoses.get h).state = .flowing ∨ (s.hoses.get h).state = .trimming)
      ∧ (l.stopCount : Int) ≤ (s.meters.get h).net))
    (ht : ¬((s.hoses.get h).state = .flowing ∧ (l.trimCount : Int) ≤ (s.meters.get h).net))
    (hg : s.stockGone l.tank = false
      ∨ (s.hoses.get h).state = .ending ∧ ∀ g, g ≠ h → s.liveTank g ≠ some l.tank) : afterLiveStep h s = s := by
  rw [afterLiveStep_below hl hs ht]
  rcases hg with hg | ⟨he, ho⟩
  · exact deadLevelWatch_stock hg
  · exact deadLevelWatch_ending he hl ho

/-- The trimming hose after the step that reached Ptrim: its meter as the step left it (R40). -/
theorem trims {s : State} {h : HoseIx} {l : Live} (hl : (s.hoses.get h).live = some l)
    (hq : (s.meters.get h).quiet = 0) :
    ((moveHose h .trimming s).hoses.get h).state = .trimming ∧ ((moveHose h .trimming s).hoses.get h).live = some l
      ∧ ((moveHose h .trimming s).valves.get h).commanded = .trim
      ∧ (s.tripped = false → s.inConfigFault = false →
        ((moveHose h .trimming s).valves.get h).duty = (s.hoseCfg h).trimDuty)
      ∧ (moveHose h .trimming s).meters.get h = s.meters.get h ∧ otherHosesSame h s (moveHose h .trimming s)
      ∧ sameOutside moving s (moveHose h .trimming s) := by
  refine ⟨by simp [enter_state], by simp [Hose.enter, hl], ?_, fun ht hf => ?_, ?_, fun g e => ?_, moveHose_frame h _ s⟩
  · rw [moveHose_valves]; simp [stageOf]
  · rw [moveHose_valves]; simp [stageOf, stageDuty, ht, hf]
  · rcases moveHose_meter h .trimming s h with e | e
    · exact e
    · rw [e, ← hq]
  · rw [moveHose_hose, if_neg e]

/-- Settles O10: a step below the thresholds, at Pstop, at Ptrim, and with the tank's stock gone. -/
theorem stepsOfALiveDeliveryMeetItsThresholds : Obligations.StepsOfALiveDeliveryMeetItsThresholds := by
  refine ⟨fun s h la ha lb hb a b forward l hm hl hs hg => ?_, fun s h la ha lb hb a b forward l hm hl hg => ⟨?_, ?_⟩,
    fun s s1 h la ha lb hb a b forward l k v hm hl he hk hc hv hd => ?_⟩
  · have live : liveState (s.hoses.get h).state = true := by
      rcases hs with hs | hs | ⟨hs, -⟩ | ⟨hs, -⟩ <;> rw [hs] <;> rfl
    rw [exec_step hm live]
    congr 1
    refine quietStep_stays (by rw [moves_live, hl]) ?_ ?_ ?_
    · rw [moves_state, moves_meter]
      rcases hs with hs | hs | ⟨hs, -, hn⟩ | ⟨hs, hn⟩ <;> simp [hs] <;> omega
    · rw [moves_state, moves_meter]
      rcases hs with hs | hs | ⟨hs, hn, -⟩ | ⟨hs, hn⟩ <;> simp [hs] <;> omega
    · rw [moves_stockGone, moves_state]
      exact hg.imp id fun ⟨e, ho⟩ => ⟨e, fun g hgh => by rw [moves_liveTank]; exact ho g hgh⟩
  · intro hs he hn
    obtain ⟨e1, e2, e3, e4, e5, -, e7, e8⟩ := stopStep_ends (s := s.moves h ((s.meters.get h).stepped a b forward))
      (by rw [moves_live, hl]) (by rw [moves_state]; exact hs) (by rw [moves_meter]; exact hn)
      (by rw [moves_stockGone]; exact hg) (moves_settlesLater rfl he)
    rw [moves_meter] at e2
    exact ⟨_, exec_step hm (liveState_run (runState_of_moving hs)), e1, e2, e3, e4, e5,
      fun g gh => (e7 g gh).trans (moves_others s h _ g gh), (moves_frame s h _).then e8 rfl rfl⟩
  · intro hs ht hn
    have moved := trimStep_moves (s := s.moves h ((s.meters.get h).stepped a b forward)) (by rw [moves_live, hl])
      (by rw [moves_state]; exact hs) (by rw [moves_meter]; exact ht) (by rw [moves_meter]; exact hn)
      (by rw [moves_stockGone]; exact hg)
    obtain ⟨e1, e2, e3, e4, e5, e6, e7⟩ := trims (s := s.moves h ((s.meters.get h).stepped a b forward)) (l := l)
      (by rw [moves_live, hl]) (by rw [moves_meter]; rfl)
    rw [moves_meter] at e5
    rw [← moved] at e1 e2 e3 e4 e5 e6 e7
    exact ⟨_, exec_step hm (by rw [hs]; rfl), e1, e2, e3, e4, e5,
      fun g gh => (e6 g gh).trans (moves_others s h _ g gh), (moves_frame s h _).then e7 rfl rfl⟩
  · obtain rfl : s1 = s.moves h ((s.meters.get h).stepped a b forward) := he
    have unit : (s.moves h ((s.meters.get h).stepped a b forward)).unit = s.unit := rfl
    have gone : (s.moves h ((s.meters.get h).stepped a b forward)).stockGone l.tank = true := by
      rw [stockGone_eq (s := s.moves h _) (k := k) (v := v) hk hc hv]
      exact decide_eq_true hd
    refine ⟨fun hs => ?_, fun hs hes hn => ?_⟩
    · have live : liveState (s.hoses.get h).state = true := by
        rcases hs with hs | hs | ⟨hs | hs, -⟩ <;> rw [hs] <;> rfl
      refine ⟨_, exec_step hm live, drawStep_stockEnds (by rw [moves_live, hl]) gone (by rw [moves_meter]; rfl) ?_⟩
      rw [moves_state]
      rcases hs with hs | hs | ⟨hs | hs, hn⟩ <;> simp [hs] <;> omega
    · obtain ⟨⟨e1, e2, e3, e4⟩, e5, e6, e7⟩ := stopStep_stockGone
        (s := s.moves h ((s.meters.get h).stepped a b forward)) (by rw [moves_live, hl])
        (by rw [moves_state]; exact hs) hn gone (moves_settlesLater rfl hes)
      refine ⟨_, exec_step hm (liveState_run (runState_of_moving hs)), e1, e2, e3, e4, fun g n gh gr gl gt => ?_,
        fun g gh gk => ?_, fun alone => ?_⟩
      · exact e5 g n gh (by rw [moves_state]; exact gr) (by rw [moves_live]; exact gl) gt
      · rw [e6 g gh (by rw [moves_state, moves_liveTank]; exact gk), moves_others s h _ g gh]
      · exact (moves_frame s h _).then (e7 fun g gh => by rw [moves_liveTank]; exact alone g gh) rfl rfl

/-! ### Invalid transitions (O11) -/

/-- A hose out of service, its other items as they were (R26, log 16). -/
theorem moveHose_faulted {s : State} {h : HoseIx} (f : HoseFault) :
    let t := moveHose h (.outOfService f) s
    (t.hoses.get h).state = .outOfService f ∧ (t.hoses.get h).lamp = true ∧ (t.hoses.get h).flash = some 0
      ∧ (t.hoses.get h).claimTimer = none ∧ otherHosesSame h s t ∧ sameOutside moving s t := by
  refine ⟨?_, ?_, ?_, ?_, fun g e => ?_, moveHose_frame h _ s⟩
  · simp [Hose.enter]
  · simp [Hose.enter]
  · simp [Hose.enter]
  · simp [Hose.enter]
  · rw [moveHose_hose, if_neg e]

theorem meterFault_run {s : State} {h : HoseIx} (hr : runState (s.hoses.get h).state = true) :
    meterFault h s = endingRequest h .meter (markMeter h s) := by
  unfold meterFault
  cases hs : (s.hoses.get h).state <;> first | rfl | (rw [hs] at hr; cases hr)

theorem meterFault_rest {s : State} {h : HoseIx} (hs : (s.hoses.get h).state = .idle ∨ (s.hoses.get h).state = .waiting
    ∨ (∃ r, (s.hoses.get h).state = .done r) ∨ ∃ r, (s.hoses.get h).state = .refused r) :
    meterFault h s = moveHose h (.outOfService .meter) s := by
  unfold meterFault
  rcases hs with hs | hs | ⟨r, hs⟩ | ⟨r, hs⟩ <;> rw [hs]

theorem meterFault_ending {s : State} {h : HoseIx} (hs : (s.hoses.get h).state = .ending) :
    meterFault h s = markMeter h s := by
  unfold meterFault
  rw [hs]

theorem meterFault_out {s : State} {h : HoseIx} {f : HoseFault} (hs : (s.hoses.get h).state = .outOfService f) :
    meterFault h s = s := by
  unfold meterFault
  rw [hs]

theorem enterEnding_hose (h : HoseIx) (r : EndReason) (s : State) : (enterEnding h r s).hoses.get h
    = ({ s.hoses.get h with live := (s.hoses.get h).live.map fun l => l.ending r (s.meters.get h).net } : Hose).enter
      .ending := by
  unfold enterEnding
  simp

/-- A meter fault of a run delivery whose meter settles later ends it with METER and marks its hose (R46). -/
theorem meterFault_ends {s : State} {h : HoseIx} {l : Live} (hr : runState (s.hoses.get h).state = true)
    (hl : (s.hoses.get h).live = some l) (hs : s.settlesLater h) :
    let t := meterFault h s
    (t.hoses.get h).state = .ending ∧ (t.hoses.get h).meterMark = true
      ∧ (t.hoses.get h).live
        = some { l with endReason := some .meter, closeCount := some (l.closeCount.getD (s.meters.get h).net) }
      ∧ t.steady = s.steady ∧ otherHosesSame h s t ∧ sameOutside moving s t := by
  intro t
  have mark : (markMeter h s).hoses.get h = { s.hoses.get h with meterMark := true } := PerHose.get_set_self _ _ _
  have run : runState ((markMeter h s).hoses.get h).state = true := by rw [mark]; exact hr
  have live : ((markMeter h s).hoses.get h).live = some l := by rw [mark]; exact hl
  have ht : t = endingRequest h .meter (markMeter h s) := meterFault_run hr
  obtain ⟨e1, e2, -, -, -, -, e7, e8⟩ := endingRequest_entersEnding .meter run live hs
  have marked : (t.hoses.get h).meterMark = true := by
    rw [ht, endingRequest_eq .meter run live hs, enterEnding_hose, mark]
    rfl
  rw [← ht] at e1 e2 e7 e8
  exact ⟨e1, marked, e2, ht ▸ endingRequest_steady h .meter (markMeter h s),
    fun g gh => (e7 g gh).trans (PerHose.get_set_ne _ _ gh), ((markMeter_frame h s).mono rfl).trans e8⟩

/-- Settles O11: below the limit the count alone, at its crossing a meter fault by the state of the hose. -/
theorem invalidTransitionsRaiseThePhaseErrorCount : Obligations.InvalidTransitionsRaiseThePhaseErrorCount := by
  intro s h la ha lb hb a b m hm he
  have taken : exec (.qualifiedPhaseChange h la ha lb hb) s = .next
      (if (s.meters.get h).phaseErrors ≤ (s.hoseCfg h).phaseErrorLimit ∧ (s.hoseCfg h).phaseErrorLimit < m.phaseErrors
        then meterFault h (s.moves h m) else s.moves h m) := exec_invalidStep hm he
  refine ⟨fun hn => taken.trans (congrArg _ (if_neg hn)), fun h1 h2 => ?_⟩
  rw [if_pos ⟨h1, h2⟩] at taken
  have net : m.net = (s.meters.get h).net := by rw [he]; rfl
  have quiet : m.quiet = 0 := by rw [he]; rfl
  have meter {t : State} (k : t.steady = (s.moves h m).steady) :
      (t.meters.get h).phaseErrors = m.phaseErrors ∧ (t.meters.get h).net = (s.meters.get h).net := by
    rw [meter_of_steady k h, moves_meter]
    exact ⟨rfl, net⟩
  refine ⟨fun hs => ?_, fun hr hes l hl => ?_, fun hs => ?_, fun ⟨f, hs⟩ => ?_⟩
  · rw [meterFault_rest (by rw [moves_state]; exact hs)] at taken
    obtain ⟨e1, e2, e3, e4, e5, e6⟩ := moveHose_faulted (s := s.moves h m) (h := h) .meter
    obtain ⟨p, n⟩ := meter (moveHose_steady h (.outOfService .meter) (s.moves h m))
    exact ⟨_, taken, e1, e2, e3, e4, p, n, fun g gh => (e5 g gh).trans (moves_others s h m g gh),
      (moves_frame s h m).then e6 rfl rfl⟩
  · obtain ⟨e1, e2, e3, e4, e5, e6⟩ := meterFault_ends (s := s.moves h m) (h := h) (l := l)
      (by rw [moves_state]; exact hr) (by rw [moves_live]; exact hl) (moves_settlesLater quiet hes)
    rw [moves_meter, net] at e3
    exact ⟨_, taken, e1, e2, e3, (meter e4).1, fun g gh => (e5 g gh).trans (moves_others s h m g gh),
      (moves_frame s h m).then e6 rfl rfl⟩
  · rw [taken, meterFault_ending (by rw [moves_state]; exact hs), markMeter, moves_hose, State.moves, setHose_setHose]
  · rw [taken, meterFault_out (by rw [moves_state]; exact hs), State.moves]

/-! ### Windows and conversions (O12, O13) -/

theorem takeRate_burst {s : State} {h : HoseIx} {m : Meter}
    (he : m = { s.meters.get h with
      rate := if 0 < (s.meters.get h).window
        then ((s.meters.get h).window.toNat * 10000 + (s.hoseCfg h).meterK / 2) / (s.hoseCfg h).meterK else 0
      window := 0, rateTimer := 0 }) :
    takeRate h s = if (s.hoses.get h).state = .flowing ∧ 125 * (s.hoseCfg h).maxFlow < 100 * m.rate
      then raise .hoseBreak (s.setMeter h m) else s.setMeter h m := by
  have closed : closeRateWindow h s = s.setMeter h m := by
    rw [he]
    unfold closeRateWindow
    dsimp only
    congr 2
    split
    · next hw => rw [volume, if_neg (by omega)]
    · rfl
  unfold takeRate
  rw [closed]
  have rate : ((s.setMeter h m).meters.get h).rate = m.rate := by simp
  dsimp only
  rw [rate]
  simp only [overspeed, decide_eq_true_eq]
  rfl

/-- Settles O12: the branches of the two window commands. -/
theorem meterWindowsExpire : Obligations.MeterWindowsExpire := by
  refine ⟨fun s hp => ⟨fun ht => ?_, fun ht => ?_⟩, fun s h m hp he => ⟨fun ht => ?_, fun ht => ⟨fun hn => ?_,
    fun hf hr => ?_⟩⟩⟩
  · exact exec_powered hp rfl (if_pos (by simpa [secondsMs] using ht))
  · exact exec_powered hp rfl (if_neg (by simpa [secondsMs] using ht))
  · exact exec_powered hp rfl (if_neg (by simpa [Config.rateWindowMs] using ht))
  · exact exec_powered hp rfl ((if_pos (by simpa [Config.rateWindowMs] using ht)).trans
      ((takeRate_burst he).trans (if_neg hn)))
  · have meter := meter_of_steady (raise_steady .hoseBreak (s.setMeter h m)) h
    rw [State.setMeter_meters, PerHose.get_set_self] at meter
    refine ⟨_, exec_powered hp rfl ((if_pos (by simpa [Config.rateWindowMs] using ht)).trans
      ((takeRate_burst he).trans (if_pos ⟨hf, hr⟩))), raise_has .hoseBreak _, raise_tripped .hoseBreak _, ?_, ?_⟩
    · rw [meter]
    · rw [meter, he]

/-- The volume of a count is its exact volume rounded to the nearest millilitre (R9). -/
theorem volume_bounds {k : Nat} {p : Int} (hk : 0 < k) (hp : 0 ≤ p) :
    2 * (volume k p * k) ≤ 2 * (p.toNat * 10000) + k ∧ 2 * (p.toNat * 10000) + k < 2 * ((volume k p + 1) * k) := by
  have vol : volume k p = (p.toNat * 10000 + k / 2) / k := if_neg (by omega)
  have split : (p.toNat * 10000 + k / 2) / k * k + (p.toNat * 10000 + k / 2) % k = p.toNat * 10000 + k / 2 :=
    Nat.div_add_mod' _ _
  have below := Nat.mod_lt (p.toNat * 10000 + k / 2) hk
  rw [← vol] at split
  rw [Nat.add_mul, Nat.one_mul]
  generalize volume k p * k = q at *
  omega

/-- A step threshold is the least count whose exact volume reaches the volume (R38). -/
theorem stepsFor_least (k v : Nat) : v * k ≤ stepsFor k v * 10000 ∧ ∀ p, v * k ≤ p * 10000 → stepsFor k v ≤ p := by
  unfold stepsFor
  generalize v * k = q
  exact ⟨by omega, fun p hp => by omega⟩

theorem learned_up {o obs : Nat} (ho : o ≤ 5000) (h : o ≤ obs) : learned o obs = min 5000 (o + (obs - o) / 4) := by
  unfold learned
  rw [Int.tdiv_eq_ediv_of_nonneg (by omega)]
  omega

theorem learned_down {o obs : Nat} (ho : o ≤ 5000) (h : obs ≤ o) : learned o obs = o - (o - obs) / 4 := by
  unfold learned
  rw [← neg_sub, Int.neg_tdiv, Int.tdiv_eq_ediv_of_nonneg (by omega)]
  omega

/-- Settles O13, by the division's remainder. -/
theorem volumesThresholdsAndLearning : Obligations.VolumesThresholdsAndLearning :=
  ⟨fun _ _ hk => ⟨fun hp => if_pos hp, volume_bounds hk⟩, stepsFor_least, fun _ _ ho => ⟨learned_up ho, learned_down ho⟩⟩

end Sys2Proof.Machine
end

section
/-! SUPPORT. The close of a settled meter (O14). -/

namespace Sys2Proof.Machine

/-! ### The settled meter (O14) -/

/-- A change after which no hose is new in ENDING is followed by no close (R45). -/
theorem settling_notEnding {f : State → State} {s : State}
    (h : ∀ g, ((f s).hoses.get g).state = .ending → (s.hoses.get g).state = .ending) : settling f s = f s :=
  settleNew_none (fun g h1 h2 => absurd (h g h1) h2) 6

theorem closeSettled_eq {s : State} {h : HoseIx} {l : Live} {r : EndReason} (hs : (s.hoses.get h).state = .ending)
    (hl : (s.hoses.get h).live = some l) (hr : l.endReason = some r)
    (ho : ∀ g, g ≠ h → s.liveTank g ≠ some l.tank) : closeSettled h s = closeRaw h true none r s := by
  have reason : reasonOr (s.hoses.get h) .preset = r := by simp [reasonOr, hl, hr]
  obtain ⟨-, -, -, -, -, -, -, -, -, others, -⟩ := closeRaw_closes (r := r) hl ho
  unfold closeSettled
  rw [if_pos hs, reason]
  refine settling_notEnding fun g hg => ?_
  by_cases e : g = h
  · subst e; exact hs
  · rwa [others g e] at hg

theorem ClosedAs.of_valve {h : HoseIx} {l : Live} {r : EndReason} {s t : State} {v : Valve}
    (k : ClosedAs h l r (s.setValve h v) t) : ClosedAs h l r s t :=
  k.of_moved ((setValve_frame s h v).mono rfl) rfl

/-- Settles O14: the settled meter closes a delivery in ENDING, and elsewhere stops the flow-past timer. -/
theorem meterSettledClosesTheDelivery : Obligations.MeterSettledClosesTheDelivery := by
  refine ⟨fun s h l r hp hq hs hl hr ho => ?_, fun s h hp => ⟨fun hs hq => ?_, fun hq => ?_⟩⟩
  · have closed := closeSettled_eq (s := stopFlowPast h s) hs hl hr ho
    obtain ⟨e1, e2, e3, e4, e5, -, -, e8, e9, e10, -⟩ := closeRaw_closes (s := stopFlowPast h s) (r := r) hl ho
    have taken : exec (.meterSettled h) s = .next (closeRaw h true none r (stopFlowPast h s)) :=
      exec_powered hp rfl ((if_pos (by simpa [secondsMs] using hq)).trans closed)
    exact ⟨_, taken, e1, e2, e3, e4, e5 h, e8, e9.of_valve, e10,
      ((setValve_frame s h _).mono rfl).trans (closeRaw_frame h _ _ _ _)⟩
  · exact exec_powered hp rfl ((if_pos (by simpa [secondsMs] using hq)).trans (if_neg hs))
  · exact exec_powered hp rfl (if_neg (by simpa [secondsMs] using hq))

end Sys2Proof.Machine
end

section
/-! SUPPORT. Pumps that settle and fail, and hoses that are lifted, hung, timed out and stopped (O17, O18, O20, O21, O26,
O27): what endures through endings and closes, and the move of a hose that is not drawing. -/

namespace Sys2Proof.Machine

/-! ### What endures through endings and closes -/

/-- A property that moves of hoses out of PRIMING, changes of their items and hand-offs leave. -/
structure Endures (P : State → Prop) : Prop where
  moved : ∀ h st s, st ≠ .priming → P s → P (moveHose h st s)
  items : ∀ h x s, x.state = (s.hoses.get h).state → x.hook = (s.hoses.get h).hook → P s → P (s.setHose h x)
  handed : ∀ c s, P s → P (handOff c s)

namespace Endures

variable {P : State → Prop} (e : Endures P)

include e

theorem endRaw (h : HoseIx) (r : EndReason) {s : State} (k : P s) : P (endRaw h r s) := by
  have enters : P (enterEnding h r s) := e.moved _ _ _ (by simp) (e.items _ _ _ rfl rfl k)
  unfold Machine.endRaw
  split
  · exact enters
  · exact enters
  · exact enters
  · exact k

theorem endAll (r : EndReason) : ∀ (hs : List HoseIx) {s : State}, P s → P (endAll hs r s)
  | [], _, k => k
  | h :: hs, _, k => endAll r hs (e.endRaw h r k)

theorem watchRaw (tank : Nat) {s : State} (k : P s) : P (watchRaw tank s) := by
  unfold Machine.watchRaw
  split
  · exact e.endAll _ _ k
  · exact k

theorem closeRaw (h : HoseIx) (b : Bool) (f : Option HoseFault) (r : EndReason) {s : State} (k : P s) :
    P (closeRaw h b f r s) := by
  have rest : afterClose (s.hoses.get h) f r ≠ .priming := fun c => by
    have := afterClose_notLive (s.hoses.get h) f r
    rw [c] at this; cases this
  unfold Machine.closeRaw
  dsimp only
  split
  · exact k
  · next l _ =>
    have handed (x : Hose) (hx : x.state = (s.hoses.get h).state) (hh : x.hook = (s.hoses.get h).hook) :=
      e.handed (closedOf h l (s.meters.get h).net r s) _ (e.moved h _ _ rest (e.items h x s hx hh k))
    split
    · exact handed _ (by rfl) (by rfl)
    · exact e.watchRaw _ (handed _ (by rfl) (by rfl))

theorem settleNew (s0 : State) : ∀ (n : Nat) {s : State}, P s → P (settleNew s0 n s)
  | 0, _, k => k
  | n + 1, s, k => by
    unfold Machine.settleNew
    split
    · exact k
    · exact settleNew s0 n (e.closeRaw _ _ _ _ k)

theorem settling {f : State → State} {s : State} (k : P (f s)) : P (settling f s) := e.settleNew s 6 k

theorem endingRequest (h : HoseIx) (r : EndReason) {s : State} (k : P s) : P (endingRequest h r s) :=
  e.settling (e.endRaw h r k)

end Endures

/-- No ending and no close brings a hose into PRIMING. -/
theorem endures_notPriming (g : HoseIx) : Endures fun s => (s.hoses.get g).state ≠ .priming where
  moved h st s hst k := by
    rw [moveHose_hose]
    split
    · rwa [enter_state]
    · exact k
  items h x s hx _ k := by
    by_cases hg : g = h
    · subst hg; simpa [hx] using k
    · simpa [hg] using k
  handed c s k := by rwa [handOff_frame c s .hoses (by decide)]

theorem pumpFollows_faulted {h : HoseIx} {n : Nat} {s : State} {p : PumpIx} (hp : (s.pumps.get p).state = .faulted) :
    (pumpFollows h n s).pumps.get p = s.pumps.get p := by
  have kept (q : PumpIx) (x : Pump) (hq : (s.pumps.get q).state ≠ .faulted) :
      (s.setPump q x).pumps.get p = s.pumps.get p :=
    PerPump.get_set_ne _ _ fun e => hq (e ▸ hp)
  unfold pumpFollows
  split
  · rfl
  · next q _ =>
    split
    · unfold pumpRise startPump
      split
      · next c => exact kept q _ (by rw [c.1]; simp)
      · rfl
    · split
      · unfold pumpFall coolPump
        split
        · next c => exact kept q _ fun e => by rw [e] at c; cases c
        · rfl
      · rfl

theorem moveHose_faultedPump {s : State} {p : PumpIx} (h : HoseIx) (st : HoseState)
    (hp : (s.pumps.get p).state = .faulted) : (moveHose h st s).pumps.get p = s.pumps.get p := by
  have f : sameOutside [.hoses, .valves, .meters] s (commandStage h st (s.setHose h ((s.hoses.get h).enter st))) :=
    (setHose_frame s h _).then (commandStage_frame _ _ _) rfl rfl
  have pumps : (commandStage h st (s.setHose h ((s.hoses.get h).enter st))).pumps = s.pumps := f .pumps (by decide)
  exact (pumpFollows_faulted (by rw [pumps]; exact hp)).trans (by rw [pumps])

/-- No ending and no close touches a FAULTED pump (R21). -/
theorem endures_faulted (p : PumpIx) {x : Pump} (hx : x.state = .faulted) : Endures fun s => s.pumps.get p = x where
  moved h st s _ k := (moveHose_faultedPump h st (by rw [k, hx])).trans k
  items h x s _ _ k := k
  handed c s k := by rwa [handOff_frame c s .pumps (by decide)]

/-- No ending and no close touches the hook state of a hose (R28). -/
theorem endures_hook (g : HoseIx) (o : Option Hook) : Endures fun s => (s.hoses.get g).hook = o where
  moved h st s _ k := by
    rw [moveHose_hose]
    split
    · next e => subst e; exact k
    · exact k
  items h x s _ hx k := by
    by_cases hg : g = h
    · subst hg; simpa [hx] using k
    · simpa [hg] using k
  handed c s k := by rwa [handOff_frame c s .hoses (by decide)]

/-! ### Pumps (O17, O18) -/

theorem mem_hosesOf {s : State} {p : PumpIx} {h : HoseIx} :
    h ∈ s.hosesOf p ↔ (s.hoseCfg h).tank = s.cfg.pumpTanks.get p ∧ s.cfg.pumpTanks.get p ≠ 0 := by
  simp [State.hosesOf, HoseIx.mem_all]

theorem nodup_hosesOf (s : State) (p : PumpIx) : (s.hosesOf p).Nodup := HoseIx.nodup_all.filter _

theorem exitPriming_notPriming {h g : HoseIx} {s : State} (hg : (s.hoses.get g).state ≠ .priming) :
    ((exitPriming h s).hoses.get g).state ≠ .priming := by
  have e := endures_notPriming g
  unfold exitPriming
  dsimp only
  split
  · split
    · exact e.endingRequest h .preset hg
    · split
      · exact e.endingRequest h .tagLost hg
      · split
        · exact e.moved h .trimming s (by simp) hg
        · exact e.moved h .flowing s (by simp) hg
  · exact hg

/-- The one hose in PRIMING among those told leaves it, and the others stay (R39). -/
theorem exitAll_one {s : State} {h : HoseIx} {hs : List HoseIx} (hm : h ∈ hs) (hd : hs.Nodup)
    (ho : ∀ g ∈ hs, g ≠ h → (s.hoses.get g).state ≠ .priming) :
    hs.foldl (fun s g => exitPriming g s) s = exitPriming h s := by
  obtain ⟨a, b, rfl⟩ := List.append_of_mem hm
  have hab : h ∉ a ∧ h ∉ b := by
    rw [List.nodup_append] at hd
    obtain ⟨-, hb, hne⟩ := hd
    exact ⟨fun k => hne h k h (by simp) rfl, (List.nodup_cons.mp hb).1⟩
  have other (g : HoseIx) (hg : g ∈ a ∨ g ∈ b) : (s.hoses.get g).state ≠ .priming :=
    ho g (by simp only [List.mem_append, List.mem_cons]; tauto) fun e => by subst e; tauto
  rw [List.foldl_append, exitAll_rest a fun g hg => other g (.inl hg), List.foldl_cons,
    exitAll_rest b fun g hg => exitPriming_notPriming (other g (.inr hg))]

/-- Settles O17: the hoses of the tank are told that the pump runs, and the one in PRIMING leaves it. -/
theorem pumpSettleWithProofStartsTheFlow : Obligations.PumpSettleWithProofStartsTheFlow := by
  refine ⟨fun s p m hp hs ht hm hpr => ?_, fun s p hp hn => exec_powered hp rfl (if_neg fun c => ?_)⟩
  · have runs : exec (.pumpSettleExpiry p) s = .next (runPump p s) :=
      exec_powered hp rfl ((if_pos ⟨hs, ranOut_eq_true.mpr ⟨m, ht, hm⟩⟩).trans (if_pos hpr))
    refine ⟨fun ho => runs.trans ?_, fun h l htank hne hst hl ho => ⟨_, runs, ?_⟩⟩
    · exact congrArg _ (exitAll_rest _ fun g hg => ho g (mem_hosesOf.mp hg).1)
    · have one : runPump p s = exitPriming h (s.setPump p { s.pumps.get p with state := .running, timer := none }) :=
        exitAll_one (mem_hosesOf.mpr ⟨htank, hne⟩) (nodup_hosesOf _ p) fun g hg hgh => ho g hgh (mem_hosesOf.mp hg).1
      rw [one]
      exact exitPriming_left hst hl
  · obtain ⟨m, ht, hm⟩ := ranOut_eq_true.mp c.2
    rcases hn with hn | hn
    · exact hn c.1
    · exact absurd (hn m ht) (not_lt.mpr hm)

/-- A pump fault ends the deliveries of its tank, and the pump stays FAULTED (R21). -/
theorem faultPump_ends {s : State} {p : PumpIx} :
    (faultPump p s).pumps.get p = { s.pumps.get p with state := .faulted, timer := none }
      ∧ ∀ (h : HoseIx) (l : Live), (s.hoseCfg h).tank = s.cfg.pumpTanks.get p → s.cfg.pumpTanks.get p ≠ 0 →
        runState (s.hoses.get h).state = true → (s.hoses.get h).live = some l →
        HoseEnded h l .pump s (faultPump p s) := by
  have kept := endures_faulted p (x := { s.pumps.get p with state := .faulted, timer := none }) rfl
  refine ⟨kept.settling (kept.endAll _ _ (PerPump.get_set_self _ _ _)), fun h l ht hne hr hl => ?_⟩
  refine HoseEnded.of_same (s' := s.setPump p _) rfl .rfl rfl rfl rfl rfl (settling_hoseEnded (endAll_inEnding .pump
    (nodup_hosesOf s p) (mem_hosesOf.mpr ⟨ht, hne⟩) hr hl) (fun c => ?_) ?_)
  · have : (s.hoses.get h).state = .ending := c
    rw [this] at hr; cases hr
  · exact endAll_frame _ _ _ .unit (by decide)

/-- Settles O18. -/
theorem pumpFaultEndsTheDeliveriesOfItsTank : Obligations.PumpFaultEndsTheDeliveriesOfItsTank := by
  refine ⟨fun s p c hp hc => ?_, fun s p b n hp => ⟨fun hn => exec_powered hp rfl (if_pos hn), fun hn ho => ?_⟩⟩
  · rcases hc with ⟨m, rfl, hs, ht, hm, hpr⟩ | ⟨n, rfl, hn, hs⟩
    · have ends := faultPump_ends (s := s) (p := p)
      rw [show ({ s.pumps.get p with state := .faulted, timer := none } : Pump)
        = { s.pumps.get p with state := .faulted, timer := none, proof := false } by rw [← hpr]] at ends
      exact ⟨_, exec_powered hp rfl ((if_pos ⟨hs, ranOut_eq_true.mpr ⟨m, ht, hm⟩⟩).trans (if_neg (by simp [hpr]))), ends⟩
    · have ends := faultPump_ends (s := s.setPump p { s.pumps.get p with proof := false }) (p := p)
      rw [State.setPump_pumps, PerPump.get_set_self] at ends
      refine ⟨_, exec_powered hp rfl ((if_neg (not_lt.mpr hn)).trans (if_pos ⟨hs, rfl⟩)), ends.1, fun h l h1 h2 h3 h4 => ?_⟩
      exact (ends.2 h l h1 h2 h3 h4).of_same rfl .rfl rfl rfl rfl rfl
  · refine exec_powered hp rfl ((if_neg (not_lt.mpr hn)).trans (if_neg fun c => ?_))
    rcases ho with ho | rfl
    · exact ho c.1
    · cases c.2

/-! ### The hook (O20, O21) -/

theorem moveHose_moves (h : HoseIx) (st : HoseState) (s : State) : (moveHose h st s).hoses.get h = (s.hoses.get h).enter st
    ∧ otherHosesSame h s (moveHose h st s) ∧ sameOutside moving s (moveHose h st s) :=
  ⟨by simp, fun g hg => by simp [hg], moveHose_frame h st s⟩

/-- The same of a hose with some of its items changed first. -/
theorem setHose_moves {s : State} {h : HoseIx} {x : Hose} (st : HoseState) :
    (moveHose h st (s.setHose h x)).hoses.get h = x.enter st
      ∧ otherHosesSame h s (moveHose h st (s.setHose h x)) ∧ sameOutside moving s (moveHose h st (s.setHose h x)) := by
  obtain ⟨-, e2, e3⟩ := moveHose_moves h st (s.setHose h x)
  refine ⟨by simp, fun g hg => (e2 g hg).trans (PerHose.get_set_ne _ _ hg), (setHose_frame s h x).then e3 rfl rfl⟩

/-- A level held for 100 ms is taken (R28). -/
theorem exec_hook {s : State} {h : HoseIx} {b : Bool} {n : Nat} (hp : s.unit.powered = true) (hn : 100 ≤ n) :
    exec (.nozzleHookChange h b n) s = .next (takeHook h (if b then .offHook else .onHook) s) :=
  exec_powered hp rfl (if_neg (not_lt.mpr hn))

theorem takeHook_lift {s : State} {h : HoseIx} (hh : (s.hoses.get h).hook = some .onHook) :
    takeHook h .offHook s = lift h (s.setHose h { s.hoses.get h with hook := some .offHook }) := by
  unfold takeHook; simp only [hh]

theorem takeHook_hang {s : State} {h : HoseIx} (hh : (s.hoses.get h).hook = some .offHook) :
    takeHook h .onHook s = hang h (s.setHose h { s.hoses.get h with hook := some .onHook }) := by
  unfold takeHook; simp only [hh]

theorem takeHook_first {s : State} {h : HoseIx} (hh : (s.hoses.get h).hook = none) :
    takeHook h .offHook s = firstHook h (s.setHose h { s.hoses.get h with hook := some .offHook }) := by
  unfold takeHook; simp only [hh]

/-- Settles O20, by the level before. -/
theorem liftEntersWaiting : Obligations.LiftEntersWaiting := by
  refine fun s h n hp => ⟨fun hn => exec_powered hp rfl (if_pos hn), fun hn hf hs hh => ?_, fun hn hf hs hh => ?_,
    fun hn hs hh => ?_⟩
  · have lifted : takeHook h .offHook s = moveHose h .waiting (s.setHose h { s.hoses.get h with hook := some .offHook }) := by
      rw [takeHook_lift hh]
      unfold lift
      simp only [State.setHose_hoses, PerHose.get_set_self, hs]
      exact if_neg (by simp [State.inConfigFault] at hf ⊢; exact hf)
    obtain ⟨e1, e2, e3⟩ := setHose_moves (s := s) (h := h) (x := { s.hoses.get h with hook := some .offHook }) .waiting
    exact ⟨_, (exec_hook hp hn).trans (congrArg _ lifted), e1, e2, e3⟩
  · have first : takeHook h .offHook s
        = moveHose h (.refused .notHung) (s.setHose h { s.hoses.get h with hook := some .offHook }) := by
      rw [takeHook_first hh]
      unfold firstHook
      simp only [State.setHose_hoses, PerHose.get_set_self, hs]
      exact if_neg (by simp [State.inConfigFault] at hf ⊢; exact hf)
    obtain ⟨e1, e2, e3⟩ :=
      setHose_moves (s := s) (h := h) (x := { s.hoses.get h with hook := some .offHook }) (.refused .notHung)
    exact ⟨_, (exec_hook hp hn).trans (congrArg _ first), by rw [e1]; rfl, by rw [e1]; rfl, by rw [e1]; rfl, e2, e3⟩
  · refine (exec_hook hp hn).trans (congrArg _ ((takeHook_lift hh).trans ?_))
    unfold lift
    rw [State.setHose_hoses, PerHose.get_set_self]
    dsimp only
    split
    · next e => exact absurd e hs
    · rfl

/-- A hang acts by the state of the hose (R28). -/
theorem hang_run {s : State} {h : HoseIx} (hf : s.inConfigFault = false) (hr : runState (s.hoses.get h).state = true) :
    hang h s = endingRequest h .hung s := by
  unfold hang
  rw [if_neg (by simp [hf])]
  cases hs : (s.hoses.get h).state
  case priming | flowing | trimming => rfl
  all_goals rw [hs] at hr; cases hr

/-- Settles O21, by the state of the hose. -/
theorem hangEndsWhatTheHoseDoes : Obligations.HangEndsWhatTheHoseDoes := by
  intro s h n hp hn hf hh
  have taken := (exec_hook (h := h) (b := false) hp hn).trans (congrArg _ (takeHook_hang hh))
  have calm : (s.setHose h { s.hoses.get h with hook := some .onHook }).inConfigFault = false := hf
  have hose : (s.setHose h { s.hoses.get h with hook := some .onHook }).hoses.get h
    = { s.hoses.get h with hook := some .onHook } := PerHose.get_set_self _ _ _
  generalize hk : ({ s.hoses.get h with hook := some .onHook } : Hose) = x at *
  have state : x.state = (s.hoses.get h).state := by rw [← hk]
  refine ⟨fun hs => ?_, fun l hr hl => ?_, fun hs => ?_⟩
  · have hung : hang h (s.setHose h x) = moveHose h .idle (s.setHose h x) := by
      unfold hang
      rw [if_neg (by simp [calm]), hose, state]
      rcases hs with hs | ⟨r, hs⟩ | ⟨r, hs⟩ <;> rw [hs]
    obtain ⟨e1, e2, e3⟩ := setHose_moves (s := s) (h := h) (x := x) .idle
    refine ⟨_, taken.trans (congrArg _ hung), ?_, e2, e3⟩
    rw [e1, ← hk]; rfl
  · refine ⟨_, taken.trans (congrArg _ (hang_run calm (by rw [hose, state]; exact hr))), endingRequest_ended .hung ?_ ?_, ?_⟩
    · rw [hose, state]; exact hr
    · rw [hose, ← hk]; exact hl
    · exact (endures_hook h _).endingRequest h .hung (by rw [hose, ← hk])
  · refine taken.trans (congrArg _ ?_)
    unfold hang
    rw [if_neg (by simp [calm]), hose, state]
    rcases hs with hs | hs | ⟨r, hs⟩ <;> rw [hs]

/-! ### The hose's timers and the stop from the office (O26, O27) -/

/-- Settles O26, timer by timer. -/
theorem hoseTimersExpire : Obligations.HoseTimersExpire := by
  refine ⟨fun s h n hp => ⟨fun hs ht hn => ?_, fun f hs ht hn => ?_⟩, fun s h l n hp hl hs => ⟨fun ht hn => ?_, fun ht hn => ?_⟩,
    fun s h hp => ⟨fun ht => ?_, fun ht => ?_, fun ht => ?_, fun h1 h2 => ⟨?_, ?_⟩, fun ht => ?_⟩⟩
  · obtain ⟨e1, e2, e3⟩ := moveHose_moves h (.refused .noTag) s
    exact ⟨_, exec_powered hp rfl (if_pos ⟨hs, ranOut_eq_true.mpr ⟨n, ht, hn⟩⟩), e1, e2, e3⟩
  · refine exec_powered hp rfl ?_
    dsimp only
    rw [hs, show ranOut (s.hoses.get h).flash Config.flashMs = true from ranOut_eq_true.mpr ⟨n, ht, hn⟩]
  · exact ⟨_, exec_powered hp rfl ((if_pos (ranOut_eq_true.mpr ⟨n, ht, hn⟩)).trans (if_pos hs)),
      endingRequest_ended .tagLost (runState_of_moving hs) hl⟩
  · exact ⟨_, exec_powered hp rfl (if_pos ⟨ranOut_eq_true.mpr ⟨n, ht, hn⟩, hs⟩),
      endingRequest_ended .noFlow (runState_of_moving hs) hl⟩
  · refine exec_powered hp rfl (if_neg fun c => ?_)
    have := ranOut_eq_false.mpr ht
    exact absurd c.2 (by simpa [secondsMs] using this)
  · refine exec_powered hp rfl ?_
    have late : ranOut (s.hoses.get h).flash Config.flashMs = false := ranOut_eq_false.mpr ht
    dsimp only
    rw [late]
    split
    · next e => cases e
    · rfl
  · have early : ranOut (s.hoses.get h).tagTimer (secondsMs s.cfg.tagGrace) = false := ranOut_eq_false.mpr ht
    exact exec_powered hp rfl (if_neg (by simp [early]))
  · refine exec_powered hp rfl ?_
    have stays : loseTag h s = s := if_neg (by simp [h1, h2])
    split
    · exact stays
    · rfl
  · exact exec_powered hp rfl (if_neg (by simp [h1, h2]))
  · have early : ranOut (s.hoses.get h).noFlow (secondsMs s.cfg.noFlowTime) = false := ranOut_eq_false.mpr ht
    exact exec_powered hp rfl (if_neg (by simp [early]))

theorem ofNumber_number (h : HoseIx) : HoseIx.ofNumber h.number = some h := by cases h <;> rfl

/-- Settles O27, by the state of the hose. -/
theorem stopHoseEndsOrIsRefused : Obligations.StopHoseEndsOrIsRefused := by
  intro s e rest h ho hb
  have taken (t : State) : takeStopHose e.frame t = if runState (t.hoses.get h).state then endingRequest h .officeStop t
      else refuse e.frame.src e.frame.kind .notLive .deliveryController t := by
    unfold takeStopHose
    rw [hb]
    dsimp only
    rw [ofNumber_number]
  have stops : exec .stopHose s = .next (takeStopHose e.frame (s.took .stopHose .deliveryController e rest)) :=
    exec_powered ho.1 rfl (takeHead_offers ho rfl takeStopHose)
  refine ⟨fun l hr hl => ⟨_, stops, ?_⟩, fun hr => stops.trans (congrArg _ ?_)⟩
  · rw [taken, took_hoses, if_pos hr]
    exact endingRequest_ended .officeStop hr hl
  · rw [taken, took_hoses, if_neg (by simp [hr])]

/-! ### The stock gate (O24) -/

theorem stockGate_current {s : State} {tank a : Nat} {k : BookIx} (priority : Bool) (hk : s.bookOf tank = some k)
    (hs : (s.books.get k).state = .current) (ha : s.available k = some a) : stockGate tank priority s
      = if a ≤ (s.cfg.books.get k).dead then .refused .stockDead
        else if a ≤ (s.cfg.books.get k).reserve ∧ priority = false then .refused .stockReserve
        else .given (a - (s.cfg.books.get k).dead, false) := by
  unfold stockGate
  simp only [hk, hs, ha]

theorem stockGate_blind {s : State} {tank : Nat} {k : BookIx} (priority : Bool) (hk : s.bookOf tank = some k)
    (hs : (s.books.get k).state ≠ .current) : stockGate tank priority s
      = if (s.cfg.books.get k).blindCap = 0 then .refused .stockDead
        else .given ((s.cfg.books.get k).blindCap, true) := by
  unfold stockGate
  simp only [hk]
  split
  · next e _ => exact absurd e hs
  · rfl

/-- Settles O24, by the state of the book and its available stock. -/
theorem stockGateWeighsTheBook : Obligations.StockGateWeighsTheBook := by
  refine fun s tank k priority hk => ⟨fun a hs ha => ?_, stockGate_blind priority hk⟩
  rw [stockGate_current priority hk hs ha]
  refine ⟨fun h1 => if_pos h1, fun h1 h2 => (if_neg (not_le.mpr h1)).trans ?_,
    fun h1 h2 => (if_neg (not_le.mpr h1)).trans (if_neg fun c => absurd c.1 (not_le.mpr h2))⟩
  cases priority
  · exact if_pos ⟨h2, rfl⟩
  · exact if_neg (by simp)

end Sys2Proof.Machine
end

section
/-! SUPPORT. Claims (O22, O23): the checks in their order, the accepted claim, and the account table's part of it. -/

namespace Sys2Proof.Machine

/-! ### Refused claims (O22) -/

theorem exec_claim {s : State} {h : HoseIx} {machine : Nat} {hours : Option Nat} (k : s.claims h machine hours) :
    exec (.tagFrame h true machine hours) s = .next (claim h machine hours s) := by
  obtain ⟨hp, hs, h1, h2, hv⟩ := k
  have valid : tagValid true machine hours = true := tagValid_iff.mpr ⟨rfl, ⟨h1, h2⟩, hv⟩
  refine exec_powered hp rfl ((if_pos valid).trans ?_)
  unfold takeTag
  rw [hs]

theorem refuseClaim_refused {s s1 : State} {h : HoseIx} (r : RefusalReason) (f : sameOutside [.accounts] s s1) :
    Refused h r s1.accounts s (refuseClaim h r s1) := by
  have hoses : s1.hoses = s.hoses := f .hoses (by decide)
  obtain ⟨e1, e2, e3⟩ := moveHose_moves h (.refused r) s1
  unfold refuseClaim
  refine ⟨by rw [e1]; rfl, by rw [e1]; rfl, by rw [e1]; rfl, ?_, e3 .accounts (by decide), fun g hg => ?_,
    f.then e3 rfl rfl⟩
  · rw [e1, hoses]; rfl
  · rw [e2 g hg, hoses]

theorem full_iff {s : State} : s.journal.full = true ↔ 128 ≤ s.journal.uncollected + s.journal.reserved :=
  decide_eq_true_iff

theorem claim_checked {s : State} {h : HoseIx} {machine : Nat} {hours : Option Nat}
    (hj : s.link.join = .joined ∨ s.link.join = .isolated) (ht : s.tripped = false)
    (hf : s.journal.uncollected + s.journal.reserved < 128) : claim h machine hours s = claimAccount h machine hours s := by
  have join : ¬(s.link.join ≠ .joined ∧ s.link.join ≠ .isolated) := fun c => hj.elim c.1 c.2
  exact (if_neg join).trans ((if_neg (by simp [ht])).trans (if_neg fun c => absurd (full_iff.mp c) (not_le.mpr hf)))

theorem claimAccount_record {s : State} {h : HoseIx} {machine : Nat} {hours : Option Nat} {r : MachineRecord} {allowance : Nat}
    {flags : RecordFlags} (hl : lookup s.accounts machine (s.hoseCfg h).product = .given (.record r))
    (ha : (hoursCheck s.cfg (s.hoseCfg h) r hours).answer = .given (allowance, flags)) :
    claimAccount h machine hours s = claimStock h machine hours (.record r) (decide (r.cls = .priority)) allowance flags
      (putRecord (hoursCheck s.cfg (s.hoseCfg h) r hours).record s) := by
  unfold claimAccount
  simp only [hl, ha]

theorem claimAccount_permit {s : State} {h : HoseIx} {machine : Nat} {hours : Option Nat} {p : Permit}
    (hl : lookup s.accounts machine (s.hoseCfg h).product = .given (.permit p)) : claimAccount h machine hours s
      = claimStock h machine hours (.permit p) false p.limit { noFlags with permit := true } s := by
  unfold claimAccount
  simp only [hl]

theorem stockGate_setAccounts (tank : Nat) (priority : Bool) (a : Accounts) (s : State) :
    stockGate tank priority (s.setAccounts a) = stockGate tank priority s := rfl

theorem pumpReady {s : State} {o : Option PumpIx} (hf : ∀ p, o = some p → (s.pumps.get p).state ≠ .faulted) :
    ¬(o.any fun p => (s.pumps.get p).state == .faulted) = true := by
  cases o <;> simp_all

section
variable {s : State} {h : HoseIx} {machine : Nat} {hours : Option Nat} (service : Service) {priority : Bool}
  {allowance : Nat} (flags : RecordFlags)

theorem claimStock_refused {e : RefusalReason} (hg : stockGate (s.hoseCfg h).tank priority s = .refused e) :
    claimStock h machine hours service priority allowance flags s = refuseClaim h e s := by
  unfold claimStock
  simp only [hg]

variable {term : Nat} {blind : Bool} (hg : stockGate (s.hoseCfg h).tank priority s = .given (term, blind))

include hg

theorem claimStock_pumpFault {p : PumpIx} (hp : s.pumpOf (s.hoseCfg h).tank = some p)
    (hf : (s.pumps.get p).state = .faulted) :
    claimStock h machine hours service priority allowance flags s = refuseClaim h .pumpFault s := by
  unfold claimStock
  simp only [hg, hp]
  exact if_pos (by simp [hf])

theorem claimStock_small (hf : ∀ p, s.pumpOf (s.hoseCfg h).tank = some p → (s.pumps.get p).state ≠ .faulted)
    (hm : min (s.hoseCfg h).maxDelivery (min allowance term) < 1000) :
    claimStock h machine hours service priority allowance flags s = refuseClaim h .limitTooSmall s := by
  unfold claimStock
  simp only [hg]
  exact (if_neg (pumpReady hf)).trans (if_pos hm)

theorem claimStock_passed (hf : ∀ p, s.pumpOf (s.hoseCfg h).tank = some p → (s.pumps.get p).state ≠ .faulted)
    (hm : 1000 ≤ min (s.hoseCfg h).maxDelivery (min allowance term)) :
    claimStock h machine hours service priority allowance flags s = acceptClaim h machine hours service
      (min (s.hoseCfg h).maxDelivery (min allowance term)) { flags with blind := blind } s := by
  unfold claimStock
  simp only [hg]
  exact (if_neg (pumpReady hf)).trans (if_neg (not_lt.mpr hm))

end

/-- Settles O22, check by check. -/
theorem firstFailingCheckRefusesTheClaim : Obligations.FirstFailingCheckRefusesTheClaim := by
  intro s h machine hours k
  have taken := exec_claim k
  have refuses {r : RefusalReason} {s1 : State} (f : sameOutside [.accounts] s s1)
      (e : claim h machine hours s = refuseClaim h r s1) :
      Takes (.tagFrame h true machine hours) s (Refused h r s1.accounts s) :=
    ⟨_, taken.trans (congrArg _ e), refuseClaim_refused r f⟩
  refine ⟨fun hj => refuses (.refl _ _) (if_pos ?_), fun hj => ⟨fun ht => refuses (.refl _ _) ?_, fun ht =>
    ⟨fun hf => refuses (.refl _ _) ?_, fun hf => ?_⟩⟩⟩
  · rcases hj with hj | hj <;> simp [hj]
  · exact (if_neg fun c => hj.elim c.1 c.2).trans (if_pos ht)
  · exact (if_neg fun c => hj.elim c.1 c.2).trans ((if_neg (by simp [ht])).trans (if_pos (full_iff.mpr hf)))
  · have checked := claim_checked (h := h) (machine := machine) (hours := hours) hj ht hf
    refine ⟨fun e hl => refuses (.refl _ _) (checked.trans ?_), fun r e hl ha => ?_, fun allowance priority a hs => ?_⟩
    · unfold claimAccount
      simp only [hl]
    · refine refuses (s1 := putRecord _ s) (setAccounts_frame _ _) (checked.trans ?_)
      unfold claimAccount
      simp only [hl, ha]
    · obtain ⟨s1, service, flags, f, ha, hpr, hst⟩ : ∃ s1 service flags, sameOutside [.accounts] s s1 ∧ s1.accounts = a
          ∧ claim h machine hours s = claimStock h machine hours service priority allowance flags s1
          ∧ ∃ b, s1 = s.setAccounts b := by
        rcases hs with ⟨r, flags, hl, ha, rfl, rfl⟩ | ⟨p, hl, rfl, rfl, rfl⟩
        · exact ⟨putRecord _ s, _, _, setAccounts_frame _ _, rfl, checked.trans (claimAccount_record hl ha), _, rfl⟩
        · exact ⟨s, _, _, .refl _ _, rfl, checked.trans (claimAccount_permit hl), s.accounts, rfl⟩
      obtain ⟨b, rfl⟩ := hst
      subst ha
      refine ⟨fun e hg => refuses f (hpr.trans (claimStock_refused service flags hg)), fun term blind hg =>
        ⟨fun ⟨p, hp, hf⟩ => refuses f (hpr.trans (claimStock_pumpFault service flags hg hp hf)), fun hf hm =>
          refuses f (hpr.trans (claimStock_small service flags hg hf hm))⟩⟩

/-! ### Accepted claims (O23) -/

/-- The record an accepted claim gives its hose (R37, R38). -/
def State.claimed (s : State) (h : HoseIx) (machine : Nat) (hours : Option Nat) (limit : Nat) (flags : RecordFlags) : Live :=
  { machine := machine, hours := hours, product := (s.hoseCfg h).product, tank := (s.hoseCfg h).tank
    flags := flags, limit := limit, overrunUsed := (s.hoses.get h).overrun
    stopVolume := limit - (s.hoses.get h).overrun
    trimVolume := limit - (s.hoses.get h).overrun - (s.hoseCfg h).trimAllowance
    stopCount := ((limit - (s.hoses.get h).overrun) * (s.hoseCfg h).meterK + 9999) / 10000
    trimCount := ((limit - (s.hoses.get h).overrun - (s.hoseCfg h).trimAllowance) * (s.hoseCfg h).meterK + 9999) / 10000
    closeCount := none, endReason := none, startTime := s.unit.seconds }

/-- The station with the reservation made and the permit used up (R35). -/
def State.reserves (s : State) (service : Service) : State :=
  match service with
  | .permit p => removePermit p.machine p.product (s.setJournal { s.journal with reserved := s.journal.reserved + 1 })
  | .record _ => s.setJournal { s.journal with reserved := s.journal.reserved + 1 }

/-- The meter channel of an accepted claim (R35). -/
def Meter.cleared (m : Meter) : Meter := { m with net := 0, creep := 0, phaseErrors := 0, quiet := 0 }

/-- The items of a hose with an accepted claim (R35). -/
def Hose.claimed (x : Hose) (l : Live) : Hose := { x with live := some l, tagTimer := some 0, meterMark := false }

/-- The hose in PRIMING on a cleared meter channel (R35). -/
def State.primed (s : State) (h : HoseIx) (l : Live) : State :=
  moveHose h .priming ((s.setMeter h (s.meters.get h).cleared).setHose h ((s.hoses.get h).claimed l))

/-- A hose in PRIMING whose pump is RUNNING leaves it at once (R39). -/
def leavesAtOnce (h : HoseIx) (tank : Nat) (s : State) : State :=
  match s.pumpOf tank with
  | some p => if (s.pumps.get p).state = .running then exitPriming h s else s
  | none => s

theorem acceptClaim_eq (h : HoseIx) (machine : Nat) (hours : Option Nat) (service : Service) (limit : Nat)
    (flags : RecordFlags) (s : State) : acceptClaim h machine hours service limit flags s
      = leavesAtOnce h (s.hoseCfg h).tank ((s.reserves service).primed h (s.claimed h machine hours limit flags)) := by
  cases service <;> rfl

theorem leavesAtOnce_running {h : HoseIx} {tank : Nat} {s : State} {p : PumpIx} (hp : s.pumpOf tank = some p)
    (hr : (s.pumps.get p).state = .running) : leavesAtOnce h tank s = exitPriming h s := by
  unfold leavesAtOnce
  rw [hp]
  exact if_pos hr

theorem leavesAtOnce_waits {h : HoseIx} {tank : Nat} {s : State}
    (hr : ∀ p, s.pumpOf tank = some p → (s.pumps.get p).state ≠ .running) : leavesAtOnce h tank s = s := by
  unfold leavesAtOnce
  split
  · next p hp => exact if_neg (hr p hp)
  · rfl

/-- A hose that begins to draw starts its tank's OFF pump in NORMAL where it is the first, and touches no other pump
(R19). -/
theorem moveHose_pump_draws {h : HoseIx} {st : HoseState} {s : State} (hr : runState st = true) (p : PumpIx) :
    (moveHose h st s).pumps.get p
      = if s.pumpOf (s.hoseCfg h).tank = some p ∧ s.runCount (s.hoseCfg h).tank = 0 ∧ (s.pumps.get p).state = .off
          ∧ s.tripped = false
        then { s.pumps.get p with state := .starting, timer := some 0 } else s.pumps.get p := by
  have f : sameOutside [.hoses, .valves, .meters] s (commandStage h st (s.setHose h ((s.hoses.get h).enter st))) :=
    (setHose_frame s h _).then (commandStage_frame _ _ _) rfl rfl
  have hoses : (commandStage h st (s.setHose h ((s.hoses.get h).enter st))).hoses
      = s.hoses.set h ((s.hoses.get h).enter st) := commandStage_hoses _ _ _
  change (pumpFollows h (s.runCount (s.hoseCfg h).tank) (commandStage h st _)).pumps.get p = _
  generalize commandStage h st (s.setHose h ((s.hoses.get h).enter st)) = t at *
  have unit : t.unit = s.unit := f .unit (by decide)
  have pumps : t.pumps = s.pumps := f .pumps (by decide)
  have cfg : t.hoseCfg h = s.hoseCfg h := by simp only [State.hoseCfg, State.cfg, unit]
  have draws : 0 < t.runCount (s.hoseCfg h).tank := by
    rw [← cfg]
    exact runCount_pos (by rw [hoses, PerHose.get_set_self, enter_state]; exact hr)
  unfold pumpFollows
  rw [cfg, pumpOf_congr unit]
  split
  · next hp => rw [if_neg (by simp [hp]), pumps]
  · next q hp =>
    by_cases first : s.runCount (s.hoseCfg h).tank = 0
    · rw [if_pos ⟨first, draws⟩]
      unfold pumpRise startPump
      rw [tripped_congr (f .tripUnit (by decide)), pumps, hp]
      by_cases hq : q = p
      · subst hq
        by_cases c : (s.pumps.get q).state = .off ∧ s.tripped = false
        · rw [if_pos ⟨c.1, by simp [c.2]⟩, if_pos ⟨rfl, first, c⟩]
          exact PerPump.get_set_self _ _ _
        · rw [if_neg (by simpa using c), if_neg fun k => c k.2.2, pumps]
      · rw [if_neg (c := some q = some p ∧ _) fun k => hq (Option.some.inj k.1)]
        split
        · rw [State.setPump_pumps, PerPump.get_set_ne _ _ (Ne.symm hq), pumps]
        · rw [pumps]
    · rw [if_neg fun c => first c.1, if_neg fun c => absurd c.2 draws.ne', if_neg fun c => first c.2.1, pumps]

theorem reserves_frame (s : State) (service : Service) : sameOutside [.journal, .read, .accounts] s (s.reserves service) := by
  cases service with
  | record r => exact (setJournal_frame s _).mono rfl
  | permit p => exact (setJournal_frame s _).then (removePermit_frame _ _ _) rfl rfl

theorem reserves_journal (s : State) (service : Service) :
    (s.reserves service).journal = { s.journal with reserved := s.journal.reserved + 1 } := by
  cases service <;> rfl

/-- The station once the claim has been reserved, with its hose in PRIMING, is that of an accepted claim (R35). -/
theorem primed_accepted {s : State} {h : HoseIx} {machine : Nat} {hours : Option Nat} {limit : Nat} {flags : RecordFlags}
    (service : Service) (ht : s.tripped = false) : Accepted h machine hours limit flags s
      ((s.reserves service).primed h (s.claimed h machine hours limit flags)) := by
  have f := reserves_frame s service
  have journal := reserves_journal s service
  have reserved := setRecords_frame s { s.journal with reserved := s.journal.reserved + 1 } rfl
  have frame : sameOutside (.journal :: .accounts :: moving) s (s.reserves service) := by
    cases service with
    | record r => exact reserved.mono rfl
    | permit p => exact reserved.then (removePermit_frame _ _ _) rfl rfl
  generalize s.reserves service = r at *
  have unit : r.unit = s.unit := f .unit (by decide)
  have hoses : r.hoses = s.hoses := f .hoses (by decide)
  have meters : r.meters = s.meters := f .meters (by decide)
  have pumps : r.pumps = s.pumps := f .pumps (by decide)
  unfold State.primed
  rw [hoses, meters]
  generalize hx : (s.hoses.get h).claimed (s.claimed h machine hours limit flags) = x
  have state : x.state = (s.hoses.get h).state := by rw [← hx]; rfl
  generalize hm : (s.meters.get h).cleared = m
  have run (n : Nat) : ((r.setMeter h m).setHose h x).runCount n = s.runCount n := by
    have same : SameOutputs (r.setMeter h m) ((r.setMeter h m).setHose h x) :=
      SameOutputs.setHose (by rw [state]; exact congrArg (fun t => (t.get h).state) hoses.symm)
    exact (same.runCount n).trans (runCount_congr unit hoses n)
  have items : ((r.setMeter h m).setHose h x).hoses.get h = x := PerHose.get_set_self _ _ _
  have moved : sameOutside moving r ((r.setMeter h m).setHose h x) := (setMeter_frame r h m).then (setHose_frame _ h x) rfl rfl
  have others : otherHosesSame h s ((r.setMeter h m).setHose h x) := fun g hg =>
    (PerHose.get_set_ne _ _ hg).trans (congrArg (fun t => t.get g) hoses)
  have channel : ((r.setMeter h m).setHose h x).meters.get h = m := PerHose.get_set_self _ _ _
  have unit' : ((r.setMeter h m).setHose h x).unit = s.unit := unit
  have trip : ((r.setMeter h m).setHose h x).tripped = s.tripped := tripped_congr (f .tripUnit (by decide))
  have pumps' : ((r.setMeter h m).setHose h x).pumps = s.pumps := pumps
  have journal' : ((r.setMeter h m).setHose h x).journal = { s.journal with reserved := s.journal.reserved + 1 } := journal
  generalize (r.setMeter h m).setHose h x = y at *
  obtain ⟨e1, e2, e3⟩ := moveHose_moves h .priming y
  rw [items, ← hx] at e1
  have cfg : y.hoseCfg h = s.hoseCfg h := by simp only [State.hoseCfg, State.cfg, unit']
  refine ⟨by rw [e1]; rfl, by rw [e1]; rfl, by rw [e1]; rfl, by rw [e1]; rfl, ?_, ?_, ?_, ?_, fun p hp ho h0 => ?_,
    fun g hg => (e2 g hg).trans (others g hg), (frame.then moved rfl rfl).trans (e3.mono rfl)⟩
  · exact (e3.journal (by decide) (by decide)).trans journal'
  · rcases moveHose_meter h .priming y h with e | e
    · rw [e, channel, ← hm]; rfl
    · rw [e, channel, ← hm]; rfl
  · simp [moveHose_valves, stageOf]
  · simp [moveHose_valves, stageOf, stageDuty]
  · rw [moveHose_pump_draws rfl, pumps', cfg, if_pos ⟨(pumpOf_congr unit' _).trans hp, (run _).trans h0, ho, trip.trans ht⟩]

theorem primed_running {s : State} {h : HoseIx} {l : Live} {p : PumpIx} :
    ((s.primed h l).pumps.get p).state = .running ↔ (s.pumps.get p).state = .running := by
  rw [State.primed, moveHose_pump_draws rfl]
  split
  · next c =>
    have off : (s.pumps.get p).state = .off := c.2.2.1
    simp [off]
  · rfl

/-- Deliveries with quantity 0 close without touching the account table (R50). -/
theorem settleNew_accounts (s0 : State) : ∀ (n : Nat) (s : State),
    (∀ g, (s.hoses.get g).state = .ending → (s0.hoses.get g).state ≠ .ending →
      volume (s.hoseCfg g).meterK (s.meters.get g).net = 0) → (settleNew s0 n s).accounts = s.accounts
  | 0, _, _ => rfl
  | n + 1, s, hz => by
    unfold settleNew
    split
    · rfl
    · next h hn =>
      obtain ⟨hs, h0, hl, -⟩ := nextSettled_some hn
      obtain ⟨l, hl⟩ := Option.isSome_iff_exists.mp hl
      obtain ⟨x, hx⟩ : ∃ x, closeRaw h true none (reasonOr (s.hoses.get h) .preset) s
          = journalRelease (moveHose h (afterClose (s.hoses.get h) none (reasonOr (s.hoses.get h) .preset)) (s.setHose h x)) := by
        have zero := hz h hs h0
        unfold closeRaw handOff
        simp only [hl, closedOf, zero, if_true]
        exact ⟨_, rfl⟩
      rw [hx]
      generalize reasonOr (s.hoses.get h) .preset = r
      have moved : sameOutside moving s (moveHose h (afterClose (s.hoses.get h) none r) (s.setHose h x)) :=
        (setHose_frame s h x).then (moveHose_frame _ _ _) rfl rfl
      have left : ((moveHose h (afterClose (s.hoses.get h) none r) (s.setHose h x)).hoses.get h).state ≠ .ending := by
        rw [(setHose_moves _).1, enter_state]
        exact (afterClose_rest _ _).2.2.2
      have others : otherHosesSame h s (moveHose h (afterClose (s.hoses.get h) none r) (s.setHose h x)) := (setHose_moves _).2.1
      have nets (g : HoseIx) : ((moveHose h (afterClose (s.hoses.get h) none r) (s.setHose h x)).meters.get g).net
        = (s.meters.get g).net := moveHose_net _ _ _ g
      refine (settleNew_accounts s0 n _ fun g hg hg0 => ?_).trans (moved .accounts (by decide))
      have unit : (moveHose h (afterClose (s.hoses.get h) none r) (s.setHose h x)).unit = s.unit := moved .unit (by decide)
      have hgh : g ≠ h := fun e => left (e ▸ hg)
      have state : (s.hoses.get g).state = .ending := by rw [← others g hgh]; exact hg
      change volume ((moveHose h _ _).unit.settings.hoses.get g).meterK ((moveHose h _ _).meters.get g).net = 0
      rw [unit, nets]
      exact hz g state hg0

theorem endingRequest_accounts {s : State} {h : HoseIx} (r : EndReason)
    (hz : volume (s.hoseCfg h).meterK (s.meters.get h).net = 0) : (endingRequest h r s).accounts = s.accounts := by
  have f := endRaw_frame h r s
  refine (settleNew_accounts s 6 _ fun g hg hg0 => ?_).trans (f .accounts (by decide))
  have unit : (endRaw h r s).unit = s.unit := f .unit (by decide)
  have gh : g = h := by
    by_contra c
    exact hg0 (by rw [← (endRaw_others r s (.inl c)).1]; exact hg)
  subst gh
  change volume ((endRaw g r s).unit.settings.hoses.get g).meterK ((endRaw g r s).meters.get g).net = 0
  rw [unit, net_of_steady (endRaw_steady g r s)]
  exact hz

theorem exitPriming_accounts {s : State} {h : HoseIx} (hz : volume (s.hoseCfg h).meterK (s.meters.get h).net = 0) :
    (exitPriming h s).accounts = s.accounts := by
  unfold exitPriming
  dsimp only
  split
  · split
    · exact endingRequest_accounts _ hz
    · split
      · exact endingRequest_accounts _ hz
      · split
        · exact moveHose_frame _ _ _ .accounts (by decide)
        · exact moveHose_frame _ _ _ .accounts (by decide)
  · rfl

theorem volume_zero (k : Nat) : volume k 0 = 0 := by
  have : k / 2 / k = 0 := by
    rcases Nat.eq_zero_or_pos k with rfl | h
    · rfl
    · exact Nat.div_eq_of_lt (by omega)
  simpa [volume] using this

/-- A passed claim takes effect, and the account table keeps what the claim reserved (R35, R39). -/
theorem acceptClaim_takes {s : State} {h : HoseIx} {machine : Nat} {hours : Option Nat} {limit : Nat} {flags : RecordFlags}
    (service : Service) (ht : s.tripped = false) :
    ClaimTakes h machine hours limit flags s (acceptClaim h machine hours service limit flags s)
      ∧ (acceptClaim h machine hours service limit flags s).accounts = (s.reserves service).accounts := by
  have accepted := primed_accepted (s := s) (h := h) (machine := machine) (hours := hours) (limit := limit) (flags := flags)
    service ht
  have running (p : PumpIx) : (((s.reserves service).primed h (s.claimed h machine hours limit flags)).pumps.get p).state
      = .running ↔ (s.pumps.get p).state = .running := by
    rw [primed_running, reserves_frame s service .pumps (by decide)]
  have accounts : ((s.reserves service).primed h (s.claimed h machine hours limit flags)).accounts
      = (s.reserves service).accounts := by
    unfold State.primed
    exact moveHose_frame _ _ _ .accounts (by decide)
  rw [acceptClaim_eq]
  generalize (s.reserves service).primed h (s.claimed h machine hours limit flags) = t at *
  obtain ⟨state, -, -, live, -, meter, -, -, -, -, frame⟩ := id accepted
  have unit : t.unit = s.unit := frame .unit (by decide)
  refine ⟨⟨fun hr => ?_, fun ⟨p, hp, hr⟩ => ?_⟩, ?_⟩
  · rwa [leavesAtOnce_waits fun p hp => mt (running p).mp (hr p ((pumpOf_congr unit _).symm.trans hp))]
  · rw [leavesAtOnce_running ((pumpOf_congr unit _).trans hp) ((running p).mpr hr)]
    exact ⟨t, _, accepted, live, exitPriming_left state live⟩
  · rw [← accounts]
    unfold leavesAtOnce
    have zero : volume (t.hoseCfg h).meterK (t.meters.get h).net = 0 := by
      rw [meter]; exact volume_zero _
    split
    · split
      · exact exitPriming_accounts zero
      · rfl
    · rfl

theorem ClaimTakes.of_accounts {h : HoseIx} {machine : Nat} {hours : Option Nat} {limit : Nat} {flags : RecordFlags}
    {s t : State} {a : Accounts} (k : ClaimTakes h machine hours limit flags (s.setAccounts a) t) :
    ClaimTakes h machine hours limit flags s t := by
  have back {m : State} (k : Accepted h machine hours limit flags (s.setAccounts a) m) :
      Accepted h machine hours limit flags s m := by
    obtain ⟨e1, e2, e3, e4, e5, e6, e7, e8, e9, e10, e11⟩ := k
    exact ⟨e1, e2, e3, e4, e5, e6, e7, e8, e9, e10, (setAccounts_frame s a).then e11 rfl rfl⟩
  refine ⟨fun hr => back (k.1 hr), fun hr => ?_⟩
  obtain ⟨m, l, k1, k2, k3⟩ := k.2 hr
  exact ⟨m, l, back k1, k2, k3⟩

theorem lookup_permit {a : Accounts} {machine : Nat} {p : Product} {q : Permit}
    (h : lookup a machine p = .given (.permit q)) : q.machine = machine ∧ q.product = p := by
  have found : a.findPermit machine p = some q := by
    unfold lookup at h
    split at h
    · split at h
      · split at h
        · next e => rw [e]; cases h; rfl
        · cases h
      · cases h
    · next e => rw [e]; cases h; rfl
    · cases h
  have := List.find?_some found
  simpa using this

/-- Settles O23, by what serves the claim. -/
theorem passedClaimTakesEffect : Obligations.PassedClaimTakesEffect := by
  intro s h machine hours k hj ht hf hp
  have checked := claim_checked (h := h) (machine := machine) (hours := hours) hj ht hf
  refine ⟨fun r o allowance flags term blind hl ho ha hg hm => ?_, fun p term blind hl hg hm => ?_⟩
  · subst ho
    have passed := claimStock_passed (s := putRecord (hoursCheck s.cfg (s.hoseCfg h) r hours).record s) (h := h)
      (machine := machine) (hours := hours) (.record r) flags hg hp hm
    obtain ⟨k1, k2⟩ := acceptClaim_takes (s := putRecord (hoursCheck s.cfg (s.hoseCfg h) r hours).record s) (h := h)
      (machine := machine) (hours := hours) (limit := min (s.hoseCfg h).maxDelivery (min allowance term))
      (flags := { flags with blind := blind }) (.record r) ht
    exact ⟨_, (exec_claim k).trans (congrArg _ (checked.trans ((claimAccount_record hl ha).trans passed))), k1.of_accounts, k2⟩
  · have passed := claimStock_passed (s := s) (h := h) (machine := machine) (hours := hours) (.permit p)
      { noFlags with permit := true } hg hp hm
    obtain ⟨k1, k2⟩ := acceptClaim_takes (s := s) (h := h) (machine := machine) (hours := hours)
      (limit := min (s.hoseCfg h).maxDelivery (min p.limit term))
      (flags := { noFlags with permit := true, blind := blind }) (.permit p) ht
    refine ⟨_, (exec_claim k).trans (congrArg _ (checked.trans ((claimAccount_permit hl).trans passed))), k1, k2.trans ?_⟩
    obtain ⟨rfl, hq⟩ := lookup_permit hl
    rw [← hq]
    rfl

end Sys2Proof.Machine
end

section
/-! SUPPORT. The account table (O28 to O31, O33): its frames, its roster in order, and the close of a delivery on its
record. -/

namespace Sys2Proof.Machine

/-! ### Frames taken by their owner -/

/-- A command takes the frame its block is offered (R176). -/
theorem exec_offered {c : Instr} {s : State} {k : FrameKind} {b : Block} {e : RxEntry} {rest : List RxEntry}
    {ks : List FrameKind} {f : Frame → State → State} (ho : s.offers k b e rest)
    (he : exec c s = .next (whenPowered (takeHead b ks f) s)) (hk : ks.contains k = true) :
    exec c s = .next (f e.frame (s.took k b e rest)) :=
  exec_powered ho.1 he (takeHead_offers ho hk f)

/-! ### Permits (O28) -/

theorem exec_permit {s : State} {e : RxEntry} {rest : List RxEntry} {b : PermitBody}
    (ho : s.offers .permit .accountTable e rest) (hb : permitBody e.frame.body = .sound b) :
    exec .permit s = .next (takePermit e.frame b (s.took .permit .accountTable e rest)) := by
  refine (exec_offered ho rfl rfl).trans (congrArg _ ?_)
  rw [hb]

/-- Settles O28. -/
theorem permitsArriveAndExpire : Obligations.PermitsArriveAndExpire := by
  refine ⟨fun s e rest b others ho hb hot => ?_, fun s machine product hp => ⟨fun q hq he => ?_, fun hn => ?_⟩⟩
  · subst hot
    refine ⟨fun hl => (exec_permit ho hb).trans (congrArg _ (if_pos hl)),
      fun hl => (exec_permit ho hb).trans (congrArg _ (if_neg (not_lt.mpr hl)))⟩
  · refine exec_powered hp rfl ?_
    dsimp only
    rw [hq]
    exact if_pos he.symm
  · refine exec_powered hp rfl ?_
    split
    · rfl
    · next q hq => exact if_neg fun c => hn q hq c.symm

/-! ### Peer deliveries (O29) -/

theorem exec_drawAccount {s : State} {e : RxEntry} {rest : List RxEntry} {d : DrawBody}
    (ho : s.offers .draw .accountTable e rest) (hb : drawBody e.frame.body = .sound d) :
    exec .drawAccount s = .next (takeDrawAccount e.frame.src d (s.took .draw .accountTable e rest)) := by
  refine (exec_offered ho rfl rfl).trans (congrArg _ ?_)
  rw [hb]

theorem drawRecord_eq (r : MachineRecord) (d : DrawBody) (h origin : Nat) : drawRecord r d h origin = { r with
    lastHours := some h
    lastFill := if d.product = .diesel then some ⟨h, d.quantity⟩ else r.lastFill
    windows := if d.product = .diesel then r.windows else (r.moveWindow d.product h).windows
    lastDraw := some ⟨origin, d.sequence⟩ } := by
  unfold drawRecord
  cases d.product <;> rfl

theorem stepWithin {r : MachineRecord} {h m : Nat} :
    (r.lastHours.all fun l => decide (hoursForward l h ≤ m)) = true ↔ ∀ l, r.lastHours = some l → hoursForward l h ≤ m := by
  rw [Option.all_eq_true]
  exact forall_congr' fun l => imp_congr_right fun _ => decide_eq_true_iff

/-- Settles O29, by the record and the key. -/
theorem peerDrawsMoveTheRecord : Obligations.PeerDrawsMoveTheRecord := by
  refine fun s e rest d ho hb => ⟨fun r h hr hh hk hs => (exec_drawAccount ho hb).trans (congrArg _ ?_),
    fun hn => (exec_drawAccount ho hb).trans (congrArg _ ?_)⟩
  · have within : (r.lastHours.all fun l => decide (hoursForward l h ≤ s.cfg.maxHourStep)) = true := stepWithin.mpr hs
    unfold takeDrawAccount
    simp only [took_accounts, hr, hh]
    refine (if_neg hk).trans ((if_pos within).trans ?_)
    rw [drawRecord_eq]
    rfl
  · unfold takeDrawAccount
    simp only [took_accounts, took_cfg]
    split
    · next r h hr hh =>
      rcases hn with hn | hn | ⟨q, hq, hn⟩
      · rw [hr] at hn; cases hn
      · rw [hh] at hn; cases hn
      · obtain rfl : r = q := Option.some.inj (hr.symm.trans hq)
        rcases hn with hk | ⟨l, h', hl, hd, hf⟩
        · exact if_pos hk
        · obtain rfl : h = h' := Option.some.inj (hh.symm.trans hd)
          have beyond : ¬(r.lastHours.all fun l => decide (hoursForward l h ≤ s.cfg.maxHourStep)) = true := fun c =>
            absurd (stepWithin.mp c l hl) (not_le.mpr hf)
          split
          · rfl
          · exact if_neg beyond
    · rfl

/-! ### The roster (O30, O31) -/

theorem exec_rosterSet {s : State} {e : RxEntry} {rest : List RxEntry} {b : RosterSetBody}
    (ho : s.offers .rosterSet .accountTable e rest) (hb : rosterSetBody e.frame.body = .sound b) :
    exec .rosterSet s = .next (takeRosterSet e.frame b (s.took .rosterSet .accountTable e rest)) := by
  refine (exec_offered ho rfl rfl).trans (congrArg _ ?_)
  rw [hb]

theorem exec_rosterRemove {s : State} {e : RxEntry} {rest : List RxEntry} {id : Nat}
    (ho : s.offers .rosterRemove .accountTable e rest) (hb : rosterRemoveBody e.frame.body = .sound id) :
    exec .rosterRemove s = .next (takeRosterRemove e.frame id (s.took .rosterRemove .accountTable e rest)) := by
  refine (exec_offered ho rfl rfl).trans (congrArg _ ?_)
  rw [hb]

theorem replaceRecord_eq (r : MachineRecord) (b : RosterSetBody) : replaceRecord r b = { r with
    cls := b.cls, suspended := b.suspended, burnCeiling := b.burnCeiling, perFillMax := b.perFillMax
    slack := b.slack, windows := b.windows.map windowOfSetting, lastHours := b.lastHours.or r.lastHours } := by
  unfold replaceRecord
  cases b.lastHours <;> rfl

theorem find_insertRecord_self (r : MachineRecord) : ∀ l : List MachineRecord,
    (insertRecord r l).find? (fun q => q.id == r.id) = some r
  | [] => by simp [insertRecord]
  | q :: qs => by
    unfold insertRecord
    split
    · simp
    · next lt =>
      split
      · simp
      · next ne => rw [List.find?_cons_of_neg (by simpa using Ne.symm ne), find_insertRecord_self r qs]

theorem find_insertRecord_other {r : MachineRecord} {id : Nat} (hid : id ≠ r.id) : ∀ l : List MachineRecord,
    (insertRecord r l).find? (fun q => q.id == id) = l.find? fun q => q.id == id
  | [] => by simp [insertRecord, Ne.symm hid]
  | q :: qs => by
    have skip (l : List MachineRecord) : (r :: l).find? (fun q => q.id == id) = l.find? fun q => q.id == id :=
      List.find?_cons_of_neg (by simpa using Ne.symm hid)
    unfold insertRecord
    split
    · exact skip _
    · split
      · next e => rw [skip, List.find?_cons_of_neg (by simpa [← e] using Ne.symm hid)]
      · rw [List.find?_cons, List.find?_cons, find_insertRecord_other hid qs]

/-- Settles O30, by what the roster holds. -/
theorem rosterFramesWriteTheRoster : Obligations.RosterFramesWriteTheRoster := by
  refine ⟨fun s e rest b ws ho hb hw => ?_, fun a r ho => ?_, fun s e rest id ho hb => ⟨fun r hr => ?_, fun hn => ?_⟩⟩
  · have hw' : ws = b.windows.map windowOfSetting := hw
    subst hw'
    refine ⟨fun r hr => (exec_rosterSet ho hb).trans (congrArg _ ?_), fun hn hl => (exec_rosterSet ho hb).trans (congrArg _ ?_),
      fun full hn hl hf => (exec_rosterSet ho hb).trans (congrArg _ ?_)⟩
    · unfold takeRosterSet
      simp only [took_accounts, hr, replaceRecord_eq]
      rfl
    · unfold takeRosterSet
      simp only [took_accounts, hn]
      exact if_pos hl
    · subst hf
      unfold takeRosterSet
      simp only [took_accounts, hn]
      exact if_neg (not_lt.mpr hl)
  · exact ⟨find_insertRecord_self r _, fun id hid => find_insertRecord_other hid _, insertRecord_inOrder ho.2⟩
  · refine (exec_rosterRemove ho hb).trans (congrArg _ ?_)
    unfold takeRosterRemove
    simp only [took_accounts, hr]
  · refine (exec_rosterRemove ho hb).trans (congrArg _ ?_)
    unfold takeRosterRemove
    simp only [took_accounts, hn]

theorem exec_accountRead {s : State} {e : RxEntry} {rest : List RxEntry} {b : AccountReadBody}
    (ho : s.offers .accountRead .accountTable e rest) (hb : accountReadBody e.frame.body = .sound b) :
    exec .accountRead s = .next (takeAccountRead e.frame b (s.took .accountRead .accountTable e rest)) := by
  refine (exec_offered ho rfl rfl).trans (congrArg _ ?_)
  rw [hb]

/-- In a roster in order the record of an id is the only one of it. -/
theorem find_of_inOrder {l : List MachineRecord} (ho : l.Pairwise fun a b => a.id < b.id) {r : MachineRecord} (hr : r ∈ l) :
    l.find? (fun q => q.id == r.id) = some r := by
  induction l with
  | nil => cases hr
  | cons q qs ih =>
    obtain ⟨hq, ho⟩ := List.pairwise_cons.mp ho
    rcases List.mem_cons.mp hr with rfl | hm
    · simp
    · have := hq r hm
      rw [List.find?_cons_of_neg (by simpa using this.ne), ih ho hm]

/-- In a roster in order the first record above an id is the one of the least such id. -/
theorem find_above {l : List MachineRecord} (ho : l.Pairwise fun a b => a.id < b.id) {id : Nat} {r : MachineRecord} (hr : r ∈ l)
    (ha : id < r.id) (hl : ∀ q ∈ l, id < q.id → r.id ≤ q.id) : l.find? (fun q => decide (id < q.id)) = some r := by
  induction l with
  | nil => cases hr
  | cons q qs ih =>
    obtain ⟨hq, ho⟩ := List.pairwise_cons.mp ho
    rcases List.mem_cons.mp hr with rfl | hm
    · exact List.find?_cons_of_pos (by simpa using ha)
    · have below : ¬id < q.id := fun c => absurd (hl q (by simp) c) (not_le.mpr (hq r hm))
      rw [List.find?_cons_of_neg (by simpa using below), ih ho hm fun p hp => hl p (by simp [hp])]

/-- Settles O31, by the record selected. -/
theorem accountReadAnswersFromTheRoster : Obligations.AccountReadAnswersFromTheRoster := by
  refine fun s e rest b ho hb hord => ⟨fun r hr hs => (exec_accountRead ho hb).trans (congrArg _ ?_),
    fun hn => (exec_accountRead ho hb).trans (congrArg _ ?_)⟩
  · have selected : selectRecord b s.accounts = some r := by
      unfold selectRecord
      rcases hs with ⟨hb, hid⟩ | ⟨hb, ha, hl⟩
      · rw [if_neg (by simp [hb]), ← hid]
        exact find_of_inOrder hord.2 hr
      · rw [if_pos hb]
        exact find_above hord.2 hr ha hl
    unfold takeAccountRead
    simp only [took_accounts, selected]
  · have none : selectRecord b s.accounts = none := by
      unfold selectRecord
      split
      · next hb => exact List.find?_eq_none.mpr fun q hq => by simpa [hb] using hn q hq
      · next hb => exact List.find?_eq_none.mpr fun q hq => by simpa [hb] using hn q hq
    unfold takeAccountRead
    simp only [took_accounts, none]

/-! ### Closes on their record (O33) -/

theorem classify_record (r : MachineRecord) (w : ServiceWindow) (h : Nat) : (classify r w h).1.windows = r.windows
    ∧ (classify r w h).1.lastFill = r.lastFill := by
  unfold classify
  split
  · exact ⟨rfl, rfl⟩
  · split <;> exact ⟨rfl, rfl⟩

theorem highBurn_iff {r : MachineRecord} {q dF : Nat} :
    highBurn r q dF = true ↔ if dF ≠ 0 then r.burnCeiling < q / dF else r.slack < q := by
  unfold highBurn
  by_cases h : dF = 0 <;> simp [h]

/-- A fuel close burnt high, by the distance from the last fill to a trusted reading (R71). -/
def MachineRecord.burns (r : MachineRecord) (h q : Nat) (trust : Bool) : Bool :=
  r.lastFill.any fun f => highBurn r q (if trust then hoursForward f.hours h else 0)

theorem burns_iff {r : MachineRecord} {h q : Nat} {trust : Bool} : r.burns h q trust = true ↔ ∃ f, r.lastFill = some f
    ∧ (if trust = true ∧ hoursForward f.hours h ≠ 0 then r.burnCeiling < q / hoursForward f.hours h else r.slack < q) := by
  unfold MachineRecord.burns
  rw [Option.any_eq_true]
  refine exists_congr fun f => and_congr_right fun _ => highBurn_iff.trans ?_
  cases trust <;> simp

/-- What a fuel close does to its record, by whether it burnt high and is trusted (R71). -/
theorem fuelClose_eq (r : MachineRecord) (h q : Nat) (trust : Bool) : fuelClose r h q trust
    = ({ r with
        anomalies := if r.burns h q trust then { r.anomalies with highBurn := anomalyUp r.anomalies.highBurn }
          else r.anomalies
        lastFill := if trust then some ⟨h, volumeAt .lastFill q⟩ else r.lastFill
        lastHours := if trust then some h else r.lastHours },
      { noFlags with highBurn := r.burns h q trust }) := by
  have parts (burnt : Bool) : (if trust then { (if burnt then
        { r with anomalies := { r.anomalies with highBurn := anomalyUp r.anomalies.highBurn } } else r) with
        lastFill := some ⟨h, volumeAt .lastFill q⟩, lastHours := some h }
      else if burnt then { r with anomalies := { r.anomalies with highBurn := anomalyUp r.anomalies.highBurn } } else r)
    = { r with
        anomalies := if burnt then { r.anomalies with highBurn := anomalyUp r.anomalies.highBurn } else r.anomalies
        lastFill := if trust then some ⟨h, volumeAt .lastFill q⟩ else r.lastFill
        lastHours := if trust then some h else r.lastHours } := by
    cases trust <;> cases burnt <;> rfl
  rw [← parts]
  unfold fuelClose MachineRecord.burns
  generalize volumeAt .lastFill q = v
  cases r.lastFill <;> rfl

/-- Settles O33, by the product and the trust in the reading. -/
theorem closesMoveTheRecord : Obligations.ClosesMoveTheRecord := by
  refine ⟨fun cfg r c h hd => ?_, fun cfg r c h hd => ?_, fun s c => ⟨fun r h hr hh hf => ?_, fun hn => ?_⟩⟩
  · have close : closeRecord cfg r c h = fuelClose r h c.quantity (trusted cfg r c.flags h) := by
      unfold closeRecord; rw [hd]
    rw [close, fuelClose_eq]
    exact ⟨fun ht => ⟨if_pos ht, _, if_pos ht, volumeAt_le _ _, volumeAt_of_le _⟩,
      fun ht => ⟨if_neg (by simp [ht]), if_neg (by simp [ht])⟩, burns_iff, rfl, rfl⟩
  · have close : closeRecord cfg r c h = lubeClose r c.product h (trusted cfg r c.flags h) := by
      unfold closeRecord
      split
      · next e => exact absurd e hd
      · rfl
    rw [close]
    unfold lubeClose
    refine ⟨fun ht => if_neg (by simp [ht]), fun ht hw => ?_, fun w ht hw => ?_⟩
    · rw [if_pos ht, hw]
    · rw [if_pos ht, hw]
      dsimp only
      obtain ⟨e1, e2⟩ := classify_record r w h
      refine ⟨rfl, e2, ?_, ?_⟩
      · simp only [MachineRecord.moveWindow, e1]
        rfl
      · unfold classify
        split
        · exact ⟨rfl, rfl⟩
        · have swap : hoursForward w.dueUntil h * 2 ≤ w.interval ↔ 2 * ((h + 1000000 - w.dueUntil) % 1000000) ≤ w.interval := by
            rw [Nat.mul_comm]; rfl
          split
          · next c => rw [if_pos (swap.mpr c)]; exact ⟨rfl, rfl⟩
          · next c => rw [if_neg (mt swap.mp c)]; exact ⟨rfl, rfl⟩
  · unfold accountClose
    simp only [hr, hh]
    rw [if_neg (by simp [hf])]
    rfl
  · unfold accountClose
    split
    · next r h hr hh =>
      rcases hn with hn | hn | hn
      · rw [hr] at hn; cases hn
      · rw [hh] at hn; cases hn
      · exact if_pos hn
    · rfl

end Sys2Proof.Machine
end

section
/-! SUPPORT. What raising a cause leaves of a hose at rest (R55, R114), and of a station without a drawing hose. -/

namespace Sys2Proof.Machine

/-! ### What raising a cause leaves of a hose at rest -/

theorem apply_shut {v : Valve} (h : v.duty = 0) : v.apply 0 = v := if_pos h.symm

/-- The entry to TRIPPED leaves a hose that is neither waiting nor drawing, its valve at duty 0 (R13, R55). -/
theorem enterTripped_rest {s : State} {h : HoseIx} (ht : s.tripped = true) (hw : (s.hoses.get h).state ≠ .waiting)
    (hr : runState (s.hoses.get h).state = false) :
    (enterTripped s).hoses.get h = s.hoses.get h
      ∧ (enterTripped s).valves.get h = (s.valves.get h).apply 0 := by
  have pumps (t : State) : sameOutside [.pumps] t (PumpIx.all.foldl (fun s p => tripPump p s) t) :=
    .foldl (fun p s => tripPump_frame p s) _ _
  have valve := (refreshValves_at (h := h) s ht HoseIx.nodup_all (HoseIx.mem_all h)).1
  have hose : (refreshValves s).hoses = s.hoses := refreshValves_frame s .hoses (by decide)
  change (refreshValves s).valves.get h = _ at valve
  rw [← show _ = (refreshValves s).valves from pumps _ .valves (by decide)] at valve
  rw [← show _ = (refreshValves s).hoses from pumps _ .hoses (by decide)] at hose
  unfold enterTripped
  dsimp only
  generalize PumpIx.all.foldl (fun s p => tripPump p s) (refreshValves s) = w at *
  obtain ⟨s', k1, -, k3⟩ := foldHoses_at (F := tripHose) (h := h) (fun a g s hg => tripHose_others s hg)
    (fun a s => tripHose_frame a s) HoseIx.all w HoseIx.nodup_all (HoseIx.mem_all h)
  have tripped : tripHose h s' = s' := by
    unfold tripHose
    rw [k1.1, hose]
    split
    · next e => exact absurd e hw
    · exact endRaw_rest _ (by rw [k1.1, hose]; exact hr)
  rw [tripped] at k3
  have same := k1.trans k3
  have closes := same.trans (settleNew_others (s0 := w) 6 _ (by rw [same.1, hose]; exact hr) (by
    by_cases e : (s.hoses.get h).state = .ending
    · exact .inr (.inl (by rw [hose]; exact e))
    · exact .inl (by rw [same.1, hose]; exact e)))
  exact ⟨closes.1.trans (by rw [hose]), closes.2.2.trans valve⟩

theorem zoneFollows_rest {s0 s : State} {h : HoseIx} (ht : s.tripped = true) (hw : (s.hoses.get h).state ≠ .waiting)
    (hr : runState (s.hoses.get h).state = false) (hd : (s.valves.get h).duty = 0) :
    (zoneFollows s0 s).hoses.get h = s.hoses.get h ∧ (zoneFollows s0 s).valves.get h = s.valves.get h := by
  rw [zoneFollows_trips ht]
  split
  · exact ⟨rfl, rfl⟩
  · obtain ⟨e1, e2⟩ := enterTripped_rest ht hw hr
    exact ⟨e1, e2.trans (apply_shut hd)⟩

/-- A cause raised leaves a hose that is neither waiting nor drawing, with its shut valve. -/
theorem raise_rest {s : State} {h : HoseIx} (c : Cause) (hw : (s.hoses.get h).state ≠ .waiting)
    (hr : runState (s.hoses.get h).state = false) (hd : (s.valves.get h).duty = 0) :
    (raise c s).hoses.get h = s.hoses.get h ∧ (raise c s).valves.get h = s.valves.get h := by
  cases hc : s.tripUnit.causes.has c with
  | true => rw [raise_held hc]; exact ⟨rfl, rfl⟩
  | false =>
    have f := latched_frame c s
    have hh : (latched c s).hoses = s.hoses := f .hoses (by decide)
    have hv : (latched c s).valves = s.valves := f .valves (by decide)
    rw [raise_new hc, ← hh, ← hv]
    exact zoneFollows_rest (latched_tripped c s) (by rw [hh]; exact hw) (by rw [hh]; exact hr) (by rw [hv]; exact hd)

/-- The station with its valves shut and its contactors off, the hoses not yet told of the trip. -/
def shutBeforeHoses (s : State) : State := PumpIx.all.foldl (fun s p => tripPump p s) (refreshValves s)

/-- The hoses told of the trip (R55). -/
def tellTrip (s : State) : State := HoseIx.all.foldl (fun s h => tripHose h s) s

theorem enterTripped_eq (s : State) : enterTripped s = settling tellTrip (shutBeforeHoses s) := rfl

theorem shutBeforeHoses_frame (s : State) : sameOutside [.valves, .meters, .pumps] s (shutBeforeHoses s) :=
  (refreshValves_frame s).then (.foldl (fun p s => tripPump_frame p s) _ _) rfl rfl

theorem tellTrip_frame (s : State) : sameOutside moving s (tellTrip s) := .foldl (fun h s => tripHose_frame h s) _ _

/-- With no hose drawing the trip brings none into ENDING (R55). -/
theorem tellTrip_notEnding {s : State} {g : HoseIx} (hr : runState (s.hoses.get g).state = false)
    (hg : ((tellTrip s).hoses.get g).state = .ending) : (s.hoses.get g).state = .ending := by
  obtain ⟨s', k1, -, k3⟩ := foldHoses_at (F := tripHose) (h := g) (fun a g s hg => tripHose_others s hg)
    (fun a s => tripHose_frame a s) HoseIx.all s HoseIx.nodup_all (HoseIx.mem_all g)
  have told : (tripHose g s').hoses.get g = (tellTrip s).hoses.get g := k3.1.symm
  rw [← told] at hg
  unfold tripHose at hg
  split at hg
  · simp [enter_state] at hg
  · rwa [endRaw_rest _ (by rw [k1.1]; exact hr), k1.1] at hg

/-- With no hose drawing the entry to TRIPPED ends and closes nothing (R55). -/
theorem enterTripped_idle {s : State} (hr : ∀ g, runState (s.hoses.get g).state = false) :
    sameOutside moving s (enterTripped s) := by
  have hoses : (shutBeforeHoses s).hoses = s.hoses := shutBeforeHoses_frame s .hoses (by decide)
  rw [enterTripped_eq, settling_notEnding fun g hg => tellTrip_notEnding (by rw [hoses]; exact hr g) hg]
  exact (shutBeforeHoses_frame s).then (tellTrip_frame _) rfl rfl

theorem raise_stuck_idle {s : State} (hr : ∀ g, runState (s.hoses.get g).state = false) :
    sameOutside (.tripUnit :: moving) s (raise .valveStuck s) := by
  cases hc : s.tripUnit.causes.has .valveStuck with
  | true => rw [raise_held hc]; exact .refl _ _
  | false =>
    rw [raise_new hc, zoneFollows_trips (latched_tripped _ s)]
    have latches : sameOutside (.tripUnit :: moving) s (latched .valveStuck s) := (setTripUnit_frame s _).mono rfl
    refine .ite latches (latches.then (enterTripped_idle fun g => ?_) rfl rfl)
    rw [show (latched .valveStuck s).hoses = s.hoses from rfl]
    exact hr g

end Sys2Proof.Machine
end

section
/-! SUPPORT. Tank books and gauging (O34, O35, O36, O38): DRAWs, receipts and levels with the dead-level watch, the timers
of the tank book unit, and tracking scans. -/

namespace Sys2Proof.Machine

/-! ### The dead-level watch where nothing is to be ended -/

/-- Without a live delivery on the tank, or with stock above the dead level, the watch does nothing (R92). -/
theorem deadLevelWatch_calm {s : State} {tank : Nat} (h : (∀ h, s.liveTank h ≠ some tank) ∨ s.stockGone tank = false) :
    deadLevelWatch tank s = s :=
  h.elim deadLevelWatch_none deadLevelWatch_stock

theorem stockGone_low {s : State} {tank v : Nat} {k : BookIx} (hk : s.bookOf tank = some k)
    (hc : (s.books.get k).state = .current) (hv : (s.books.get k).value = some v)
    (hd : v - s.drawnFrom tank ≤ (s.cfg.books.get k).dead) : s.stockGone tank = true := by
  rw [stockGone_eq hk hc hv]
  exact decide_eq_true hd

/-- A book written with a value at or below the dead level ends the deliveries of its tank (R92). -/
theorem lowStock_stockEnds {t : State} {tank v : Nat} {k : BookIx} {b : Book} (hk : t.bookOf tank = some k)
    (hc : b.state = .current) (hv : b.value = some v) (hd : v - t.drawnFrom tank ≤ (t.cfg.books.get k).dead) :
    StockEnds tank (t.setBook k b) (deadLevelWatch tank (t.setBook k b)) :=
  deadLevelWatch_stockEnds (stockGone_low (s := t.setBook k b) hk (by rw [State.setBook_books, PerBook.get_set_self]; exact hc)
    (by rw [State.setBook_books, PerBook.get_set_self]; exact hv) hd)

/-! ### DRAWs and receipts (O34) -/

theorem exec_drawBook {s : State} {e : RxEntry} {rest : List RxEntry} {d : DrawBody}
    (ho : s.offers .draw .tankBooks e rest) (hb : drawBody e.frame.body = .sound d) :
    exec .drawBook s = .next (deadLevelWatch d.tank (bookDraw e.frame.src d (s.took .draw .tankBooks e rest))) := by
  refine (exec_offered ho rfl rfl).trans (congrArg _ ?_)
  rw [hb]

theorem exec_receipt {s : State} {e : RxEntry} {rest : List RxEntry} {d : ReceiptBody}
    (ho : s.offers .receipt .tankBooks e rest) (hb : receiptBody e.frame.body = .sound d) :
    exec .receipt s = .next (deadLevelWatch d.tank (bookReceipt e.frame d (s.took .receipt .tankBooks e rest))) := by
  refine (exec_offered ho rfl rfl).trans (congrArg _ ?_)
  rw [hb]

theorem bookDraw_held {s : State} {o : Nat} {d : DrawBody} (h : s.bookOf d.tank = none
    ∨ ∃ k, s.bookOf d.tank = some k ∧ ⟨o, d.sequence⟩ ∈ (s.books.get k).recent) : bookDraw o d s = s := by
  unfold bookDraw
  rcases h with h | ⟨k, h, hm⟩
  · rw [h]
  · simp only [h]
    exact if_pos (by simpa using hm)

theorem stockGone_none {s : State} {tank : Nat} (h : s.bookOf tank = none) : s.stockGone tank = false := by
  unfold State.stockGone
  rw [h]

/-- The watch of a tank without a book ends nothing. -/
theorem deadLevelWatch_noBook {s : State} {tank : Nat} (h : s.bookOf tank = none) : deadLevelWatch tank s = s :=
  deadLevelWatch_stock (stockGone_none h)

/-- Settles O34, by the key and the stock that is left. -/
theorem drawsAndReceiptsMoveTheBook : Obligations.DrawsAndReceiptsMoveTheBook := by
  refine ⟨⟨fun s e rest d ho hb => ⟨fun k t hk hr ht hc => ?_, fun hc hn => ?_⟩,
    fun s e rest d ho hb => ⟨fun k t hk hr ht hc => ?_, fun k hc hk hr => ?_, fun hn => ?_⟩⟩,
    fun s e rest tank k v hk hs hv => ⟨fun d b ho hb ht hr hl hbk => ?_, fun d b ho hb ht hr hl hbk => ?_⟩⟩
  · have moved := bookDraw_new (s := s.took .draw .tankBooks e rest) (o := e.frame.src) (d := d) hk hr
    rw [exec_drawBook ho hb, moved, ht]
    exact congrArg _ (deadLevelWatch_calm (by rw [ht] at hc; exact hc))
  · rw [exec_drawBook ho hb, bookDraw_held (s := s.took .draw .tankBooks e rest) hn]
    exact congrArg _ (deadLevelWatch_calm hc)
  · have moved := bookReceipt_new (s := s.took .receipt .tankBooks e rest) (f := e.frame) (d := d) hk hr
    rw [exec_receipt ho hb, moved, ht]
    exact congrArg _ (deadLevelWatch_calm (by rw [ht] at hc; exact hc))
  · have old := bookReceipt_old (s := s.took .receipt .tankBooks e rest) (f := e.frame) (d := d) hk hr
    rw [exec_receipt ho hb, old]
    exact congrArg _ (deadLevelWatch_calm hc)
  · have none : bookReceipt e.frame d (s.took .receipt .tankBooks e rest)
        = if e.frame.dest = 0 then s.took .receipt .tankBooks e rest
          else refuse e.frame.src e.frame.kind .notFound .tankBooks (s.took .receipt .tankBooks e rest) := by
      unfold bookReceipt
      rw [show (s.took .receipt .tankBooks e rest).bookOf d.tank = none from hn]
    rw [exec_receipt ho hb, none]
    refine congrArg _ (deadLevelWatch_noBook ?_)
    split
    · exact hn
    · exact (bookOf_congr (refuse_frame _ _ _ _ _ .unit (by decide)) _).trans hn
  · subst ht
    have moved := bookDraw_new (s := s.took .draw .tankBooks e rest) (o := e.frame.src) (d := d) hk hr
    have book : ({ s.books.get k with
        value := (s.books.get k).value.map fun v => v - d.quantity
        recent := (if (s.books.get k).recent.length < 16 then (s.books.get k).recent
          else (s.books.get k).recent.drop 1) ++ [⟨e.frame.src, d.sequence⟩] } : Book) = b := by
      rw [hbk, hv]; rfl
    have taken := exec_drawBook ho hb
    rw [moved, took_books, book] at taken
    refine ⟨_, taken, lowStock_stockEnds hk ?_ ?_ hl⟩
    · rw [hbk]; exact hs
    · rw [hbk]
  · subst ht
    have moved := bookReceipt_new (s := s.took .receipt .tankBooks e rest) (f := e.frame) (d := d) hk hr
    have book : ({ s.books.get k with
        value := (s.books.get k).value.map fun v => min (v + d.quantity) (s.cfg.books.get k).capacity
        recent := (if (s.books.get k).recent.length < 16 then (s.books.get k).recent
          else (s.books.get k).recent.drop 1) ++ [⟨e.frame.src, d.number⟩] } : Book) = b := by
      rw [hbk, hv]; rfl
    have taken := exec_receipt ho hb
    rw [moved, took_books, took_cfg, book] at taken
    refine ⟨_, taken, lowStock_stockEnds hk ?_ ?_ hl⟩
    · rw [hbk]; exact hs
    · rw [hbk]

/-! ### Levels (O35) -/

theorem exec_level {s : State} {e : RxEntry} {rest : List RxEntry} {l : LevelBody}
    (ho : s.offers .level .tankBooks e rest) (hb : levelBody e.frame.body = .sound l) :
    exec .level s = .next (takeLevel l (s.took .level .tankBooks e rest)) := by
  refine (exec_offered ho rfl rfl).trans (congrArg _ ?_)
  rw [hb]

theorem bookLevel_kept {s : State} {tank v : Nat} {k : BookIx} (hk : s.bookOf tank = some k) :
    bookLevel tank v s = s.setBook k ((s.books.get k).gauge (min v (s.cfg.books.get k).capacity)
      (s.cfg.books.get k).tolerance (s.link.join == .isolated)) := by
  unfold bookLevel
  rw [hk]

theorem takeLevel_accepted {s : State} {l : LevelBody} {k : BookIx} (hk : s.bookOf l.tank = some k)
    (hp : s.probeOf l.tank = none) : takeLevel l s = deadLevelWatch l.tank (bookLevel l.tank l.volume s) := by
  unfold takeLevel
  rw [if_neg (by simp [hk]), if_neg (by simp [hp])]

theorem takeLevel_conflict {s : State} {l : LevelBody} {k : BookIx} (hk : s.bookOf l.tank = some k)
    (hp : (s.probeOf l.tank).isSome = true) : takeLevel l s = setConflict s := by
  unfold takeLevel
  rw [if_neg (by simp [hk]), if_pos hp]

/-- Settles O35: the acceptance of a LEVEL, and what it does to the book by its state. -/
theorem levelsSettleTheBook : Obligations.LevelsSettleTheBook := by
  refine ⟨fun s e rest l ho hb => ⟨fun hn => (exec_level ho hb).trans (congrArg _ (if_pos ?_)), fun k hk =>
      ⟨fun hp => (exec_level ho hb).trans (congrArg _ ?_), fun b t hp hbk ht => ?_⟩⟩,
    fun b g tolerance => ⟨fun v hv hs => ⟨fun hd => ?_, fun hd => ?_⟩, fun v hv hs => ?_, fun v hv hs => ?_, fun hv => ?_,
      fun hv => ?_⟩⟩
  · have none : (s.took .level .tankBooks e rest).bookOf l.tank = none := hn
    rw [none]; rfl
  · exact takeLevel_conflict (s := s.took .level .tankBooks e rest) hk hp
  · have taken : exec .level s = .next (deadLevelWatch l.tank t) := by
      rw [exec_level ho hb, takeLevel_accepted (s := s.took .level .tankBooks e rest) hk hp,
        bookLevel_kept (s := s.took .level .tankBooks e rest) hk, ht, hbk]
      rfl
    refine ⟨fun hc => taken.trans (congrArg _ (deadLevelWatch_calm ?_)), fun v hs hv hl => ⟨_, taken, ?_⟩⟩
    · subst ht; exact hc
    · subst ht
      exact lowStock_stockEnds hk hs hv hl
  · obtain ⟨value, state, variance, count, recent, timer⟩ := b
    obtain rfl : value = some v := hv
    obtain rfl : state = .current := hs
    simp [Book.gauge, hd]
  · obtain ⟨value, state, variance, count, recent, timer⟩ := b
    obtain rfl : value = some v := hv
    obtain rfl : state = .current := hs
    simp [Book.gauge, not_le.mpr hd, countUp]
  · obtain ⟨value, state, variance, count, recent, timer⟩ := b
    obtain rfl : value = some v := hv
    obtain rfl : state = .aged := hs
    rfl
  · obtain ⟨value, state, variance, count, recent, timer⟩ := b
    obtain rfl : value = some v := hv
    cases state
    case unknown => exact absurd rfl hs
    all_goals rfl
  · obtain ⟨value, state, variance, count, recent, timer⟩ := b
    obtain rfl : value = none := hv
    cases state <;> rfl
  · obtain ⟨value, state, variance, count, recent, timer⟩ := b
    obtain rfl : value = none := hv
    cases state <;> rfl

/-! ### The timers of the tank book unit (O36) -/

/-- Settles O36, timer by timer. -/
theorem tankTimersExpire : Obligations.TankTimersExpire := by
  refine fun s n hp => ⟨fun k ht => ⟨fun hn hs => ?_, fun hn => ?_⟩, fun ht => ⟨fun hn => ?_, fun hn => ?_⟩, fun hn => ?_,
    fun hn => ⟨fun hf => ?_, fun hf => ?_⟩, fun c count hg => ?_⟩
  · have due : ranOut (s.books.get k).ageTimer (secondsMs s.cfg.gaugeAgeLimit) = true := ranOut_eq_true.mpr ⟨n, ht, hn⟩
    exact exec_powered hp rfl ((if_pos due).trans (congrArg _ (if_pos hs)))
  · have early : ranOut (s.books.get k).ageTimer (secondsMs s.cfg.gaugeAgeLimit) = false := by
      rw [ht]; exact decide_eq_false (not_le.mpr hn)
    exact exec_powered hp rfl (if_neg (by simp [early]))
  · exact exec_powered hp rfl (if_pos (ranOut_eq_true.mpr ⟨n, ht, hn⟩))
  · have early : ranOut s.gauging.conflictTimer (secondsMs s.cfg.gaugeAgeLimit) = false := by
      rw [ht]; exact decide_eq_false (not_le.mpr hn)
    exact exec_powered hp rfl (if_neg (by simp [early]))
  · exact exec_powered hp rfl (if_neg (by simpa [secondsMs] using hn))
  · have due : ranOut (some s.gauging.scanTimer) (secondsMs s.cfg.scanInterval) = true := decide_eq_true hn
    exact exec_powered hp rfl ((if_pos due).trans (if_pos hf))
  · have due : ranOut (some s.gauging.scanTimer) (secondsMs s.cfg.scanInterval) = true := decide_eq_true hn
    refine ⟨_, exec_powered hp rfl ((if_pos due).trans (if_neg (by simp [hf]))), rfl, fun c => ?_⟩
    have gate : (PerProbe.ofIx fun c => openGate (s.probeUsed c) (s.probes.get c)).get c
      = openGate (s.probeUsed c) (s.probes.get c) := PerProbe.get_ofIx _ _
    refine gate.trans ?_
    unfold openGate State.probeUsed
    by_cases used : (s.cfg.probes.get c).tank = 0
    · rw [if_pos used, if_neg (by simp [used])]
    · rw [if_neg used, if_pos (by simp [used])]
  · have early : ranOut (s.probes.get c).gate (s.cfg.probes.get c).gateMs = false := ranOut_eq_false.mpr hg
    exact exec_powered hp rfl (by simp [early])

/-! ### Tracking scans (O38) -/

/-- The LEVEL of a tracking scan (R108). -/
def levelFrame (c : ProbeSetting) (mean : Nat) : NewFrame :=
  ⟨0, .level, levelBytes c.tank mean (strapVolume c.points mean), .tankBooks, .plain⟩

theorem trackingScan_eq {s : State} {c : ProbeIx} {k : BookIx} {mean : Nat} (hk : s.bookOf (s.cfg.probes.get c).tank = some k)
    (hm : (s.probes.get c).reported = some mean) :
    trackingScan c s = handOver (levelFrame (s.cfg.probes.get c) mean) (overfillTest c mean
      (deadLevelWatch (s.cfg.probes.get c).tank (s.setBook k ((s.books.get k).gauge
        (min (strapVolume (s.cfg.probes.get c).points mean) (s.cfg.books.get k).capacity) (s.cfg.books.get k).tolerance
        (s.link.join == .isolated))))) := by
  unfold trackingScan
  rw [hm]
  dsimp only [Option.getD_some]
  rw [bookLevel_kept hk]
  rfl

theorem overfillTest_below {s : State} {c : ProbeIx} {k : BookIx} {mean : Nat} (hk : s.bookOf (s.cfg.probes.get c).tank = some k)
    (hm : mean < (s.cfg.books.get k).highHigh) :
    overfillTest c mean s = s.setProbe c { s.probes.get c with overfill := false } := by
  unfold overfillTest
  rw [hk]
  exact if_neg (not_le.mpr hm)

theorem overfillTest_above {s : State} {c : ProbeIx} {k : BookIx} {mean : Nat} (hk : s.bookOf (s.cfg.probes.get c).tank = some k)
    (hm : (s.cfg.books.get k).highHigh ≤ mean) :
    overfillTest c mean s = raise .overfill (s.setProbe c { s.probes.get c with overfill := true }) := by
  unfold overfillTest
  rw [hk]
  exact if_pos hm

theorem entryOf_congr {s t : State} (h : t.unit = s.unit) (f : NewFrame) : t.entryOf f = s.entryOf f := by
  simp only [State.entryOf, State.ownAddress, State.clock, h]

theorem handOver_level {c : ProbeSetting} {mean : Nat} {s : State} (hf : s.inConfigFault = false)
    (hl : s.link.ordinary.length < 6) : handOver (levelFrame c mean) s
      = s.setLink { s.link with ordinary := s.link.ordinary ++ [s.entryOf (levelFrame c mean)] } := by
  unfold handOver
  rw [if_neg (by simp [hf])]
  exact if_pos hl

/-- A cause raised in a zone already TRIPPED is latched and announced, and nothing more (R114, R121). -/
theorem raise_frame_tripped {s : State} (c : Cause) (ht : s.tripped = true) :
    sameOutside (.tripUnit :: handing) s (raise c s) := by
  cases hc : s.tripUnit.causes.has c with
  | true => rw [raise_held hc]; exact .refl _ _
  | false =>
    rw [raise_new hc, zoneFollows_trips (latched_tripped c s), if_pos ht]
    exact latched_frame c s

/-- A hose whose delivery has been ended neither waits nor draws, and its valve is at duty 0. -/
theorem HoseEnded.rest {h : HoseIx} {l : Live} {r : EndReason} {s t : State} (k : HoseEnded h l r s t) :
    (t.hoses.get h).state ≠ .waiting ∧ runState (t.hoses.get h).state = false ∧ (t.valves.get h).duty = 0 := by
  obtain ⟨-, duty, -, settles, closes⟩ := k
  by_cases hs : s.settlesLater h
  · obtain ⟨state, -⟩ := settles hs
    rw [state]
    exact ⟨by simp, rfl, duty⟩
  · obtain ⟨state, -⟩ := closes hs
    rw [state]
    refine ⟨?_, ?_, duty⟩
    · split
      · simp
      · split <;> simp
    · split
      · rfl
      · split <;> rfl

/-- What a tracking scan at or above the high-high level does after the watch (R110). -/
theorem overfill_raised {m : State} {c : ProbeIx} {f : NewFrame} {p : Probe} :
    (handOver f (raise .overfill (m.setProbe c p))).probes.get c = p
      ∧ (handOver f (raise .overfill (m.setProbe c p))).tripUnit.causes.overfill = true
      ∧ (handOver f (raise .overfill (m.setProbe c p))).tripped = true := by
  have trip : (handOver f (raise .overfill (m.setProbe c p))).tripUnit = (raise .overfill (m.setProbe c p)).tripUnit :=
    handOver_frame _ _ .tripUnit (by decide)
  refine ⟨?_, ?_, (tripped_congr trip).trans (raise_tripped _ _)⟩
  · rw [handOver_frame _ _ .probes (by decide), raise_frame _ _ .probes (by decide), State.setProbe_probes,
      PerProbe.get_set_self]
  · rw [trip]
    exact raise_has .overfill (m.setProbe c p)

/-- A tracking scan's hand-over leaves a hose that the watch has ended (R55, R92). -/
theorem overfill_hose {s m : State} {h : HoseIx} {l : Live} {r : EndReason} {c : ProbeIx} {f : NewFrame} {p : Probe}
    (k : HoseEnded h l r s m) :
    (handOver f (raise .overfill (m.setProbe c p))).hoses.get h = m.hoses.get h := by
  obtain ⟨hw, hr, hd⟩ := k.rest
  rw [handOver_frame _ _ .hoses (by decide)]
  exact (raise_rest (s := m.setProbe c p) .overfill hw hr hd).1

/-- A gate that closes with a tracking scan gauges the tank's own book, with the watch, before the overfill test and the
LEVEL (R107, R108). -/
theorem exec_trackingScan {s : State} {c : ProbeIx} {count mean n : Nat} {hs : List Nat} {k : BookIx} {b : Book}
    (hu : s.unit.powered = true) (hf : s.inConfigFault = false) (hg : (s.probes.get c).gate = some n)
    (hn : (s.cfg.probes.get c).gateMs ≤ n) (hlo : (s.cfg.probes.get c).lower ≤ count)
    (hhi : count ≤ (s.cfg.probes.get c).upper) (hk : s.bookOf (s.cfg.probes.get c).tank = some k)
    (hhs : hs = appendHeight (s.probes.get c).history (heightOf (s.cfg.probes.get c) count))
    (hst : (s.probes.get c).state = .tracking ∨ (s.probes.get c).state = .acquiring
      ∧ settledHistory hs (s.cfg.probes.get c).settleBand = true)
    (hmean : mean = hs.sum / hs.length)
    (hb : b = (s.books.get k).gauge (min (strapVolume (s.cfg.probes.get c).points mean) (s.cfg.books.get k).capacity)
      (s.cfg.books.get k).tolerance (s.link.join == .isolated)) :
    exec (.probeGateClose c count) s = .next (handOver (levelFrame (s.cfg.probes.get c) mean) (overfillTest c mean
      (deadLevelWatch (s.cfg.probes.get c).tank
        ((s.setProbe c { s.probes.get c with state := .tracking, history := hs, gate := none }).setBook k b)))) := by
  have tank : (s.cfg.probes.get c).tank ≠ 0 := by
    have := List.find?_some hk
    simp only [Bool.and_eq_true, bne_iff_ne] at this
    exact this.2
  generalize hgs : s.setProbe c { s.probes.get c with state := .tracking, history := hs, gate := none } = g
  have reported : (g.probes.get c).reported = some mean := by
    rw [← hgs, State.setProbe_probes, PerProbe.get_set_self, hmean, hhs]
    simp [Probe.reported, appendHeight]
  have scanned : scan c count s = trackingScan c g := by
    have window := within_eq_true.mpr ⟨hlo, hhi⟩
    rcases hst with hst | ⟨hst, hset⟩
    · rw [scan_tracking window hst, ← hgs, hhs]
      exact congrArg (fun st => trackingScan c (s.setProbe c ⟨st, _, _, none⟩)) hst
    · rw [scan_settled window hst (by rw [← hhs]; exact hset), ← hgs, hhs]
  have kept : g.bookOf (g.cfg.probes.get c).tank = some k := by rw [← hgs]; exact hk
  rw [exec_probeGateClose_due hu hf hg hn tank, scanned, trackingScan_eq kept reported, hb, ← hgs]
  rfl

/-- Settles O38: the book, the watch, and the high-high level. -/
theorem trackingScansGaugeTheTank : Obligations.TrackingScansGaugeTheTank := by
  intro s c count mean n hs k b hu hf hg hn hlo hhi hk hhs hst hmean hb
  have taken := exec_trackingScan hu hf hg hn hlo hhi hk hhs hst hmean hb
  generalize hgs : s.setProbe c { s.probes.get c with state := .tracking, history := hs, gate := none } = g at taken ⊢
  have probe : g.probes.get c = ⟨.tracking, hs, (s.probes.get c).overfill, none⟩ := by
    rw [← hgs]; exact PerProbe.get_set_self _ _ _
  have frame : sameOutside [.probes] s g := by rw [← hgs]; exact setProbe_frame _ _ _
  have unit : g.unit = s.unit := frame .unit (by decide)
  have books : g.books = s.books := frame .books (by decide)
  have cfg : g.cfg = s.cfg := congrArg StartUnit.settings unit
  have kept : g.bookOf (g.cfg.probes.get c).tank = some k := by rw [bookOf_congr unit, cfg]; exact hk
  have link : g.link = s.link := by rw [← hgs]; rfl
  have join : g.link.join = s.link.join := by rw [link]
  have gone : (g.setBook k b).stockGone (s.cfg.probes.get c).tank = (s.setBook k b).stockGone (s.cfg.probes.get c).tank := by
    rw [← hgs]; rfl
  have live (h : HoseIx) : (g.setBook k b).liveTank h = s.liveTank h := by rw [← hgs]; rfl
  have watched : sameOutside closing (g.setBook k b) (deadLevelWatch (s.cfg.probes.get c).tank (g.setBook k b)) :=
    deadLevelWatch_frame _ _
  refine ⟨fun hc => ?_, fun v hbs hbv hl => ?_⟩
  · rw [deadLevelWatch_calm (s := g.setBook k b) (by simpa only [live, gone] using hc)] at taken
    refine ⟨fun hm hq => ?_, fun hm => ?_⟩
    · rw [overfillTest_below (s := g.setBook k b) kept (by rw [show (g.setBook k b).cfg = s.cfg from cfg]; exact hm)]
        at taken
      have calm : ((g.setBook k b).setProbe c { (g.setBook k b).probes.get c with overfill := false }).inConfigFault = false :=
        (inConfigFault_congr join).trans hf
      have room : ((g.setBook k b).setProbe c { (g.setBook k b).probes.get c with overfill := false }).link.ordinary.length < 6 :=
        (congrArg (fun l : Link => l.ordinary.length) link).trans_lt hq
      have entry : ((g.setBook k b).setProbe c { (g.setBook k b).probes.get c with overfill := false }).entryOf
          (levelFrame (s.cfg.probes.get c) mean) = s.entryOf (levelFrame (s.cfg.probes.get c) mean) := entryOf_congr unit _
      rw [handOver_level calm room, entry] at taken
      refine ⟨_, taken, ?_, ?_, ?_, ?_, fun d hd => ?_, ?_⟩
      · refine (PerProbe.get_set_self _ _ _).trans ?_
        exact congrArg (fun p : Probe => { p with overfill := false }) probe
      · exact congrArg (fun t => PerBook.set t k b) books
      · exact congrArg (fun l : Link => l.ordinary ++ [s.entryOf (levelFrame (s.cfg.probes.get c) mean)]) link
      · exact (show g.link.reserved = s.link.reserved by rw [link])
      · exact (PerProbe.get_set_ne _ _ hd).trans (by rw [← hgs]; exact PerProbe.get_set_ne _ _ hd)
      · exact (frame.then (setBook_frame g k b) rfl rfl : sameOutside [.probes, .books] s _).then
          ((setProbe_frame _ _ _).then (setQueue_frame _ _ _) rfl rfl : sameOutside [.probes, .queue] _ _) rfl rfl
    · rw [overfillTest_above (s := g.setBook k b) kept (by rw [show (g.setBook k b).cfg = s.cfg from cfg]; exact hm)]
        at taken
      obtain ⟨e1, e2, e3⟩ := overfill_raised (m := g.setBook k b) (c := c) (f := levelFrame (s.cfg.probes.get c) mean)
        (p := { (g.setBook k b).probes.get c with overfill := true })
      refine ⟨_, taken, e1.trans ?_, e2, e3, fun ht => ?_⟩
      · exact congrArg (fun p : Probe => { p with overfill := true }) probe
      · rw [handOver_frame _ _ .books (by decide), raise_frame_tripped .overfill ?_ .books (by decide)]
        · exact congrArg (fun t => PerBook.set t k b) books
        · exact (tripped_congr (s := s) (frame .tripUnit (by decide))).trans ht
  · have ends : StockEnds (s.cfg.probes.get c).tank (g.setBook k b)
        (deadLevelWatch (s.cfg.probes.get c).tank (g.setBook k b)) := by
      refine lowStock_stockEnds (t := g) (by rw [bookOf_congr unit]; exact hk) hbs hbv ?_
      rw [cfg, ← hgs]
      exact hl
    generalize deadLevelWatch (s.cfg.probes.get c).tank (g.setBook k b) = m at *
    have steady : m.unit = (g.setBook k b).unit := watched .unit (by decide)
    have unit' : m.unit = s.unit := steady.trans unit
    have cfg' : m.cfg = s.cfg := congrArg StartUnit.settings unit'
    have kept' : m.bookOf (m.cfg.probes.get c).tank = some k := by rw [bookOf_congr unit', cfg']; exact hk
    have probe' : m.probes.get c = ⟨.tracking, hs, (s.probes.get c).overfill, none⟩ := by
      rw [watched .probes (by decide)]; exact probe
    refine ⟨m, ends, fun hm => ?_, fun hm => ?_⟩
    · rw [overfillTest_below kept' (by rw [cfg']; exact hm)] at taken
      refine ⟨_, taken, ?_, (setProbe_frame m c _).then (handOver_frame _ _) rfl rfl⟩
      rw [handOver_frame _ _ .probes (by decide), State.setProbe_probes, PerProbe.get_set_self, probe']
    · rw [overfillTest_above kept' (by rw [cfg']; exact hm)] at taken
      obtain ⟨e1, e2, e3⟩ := overfill_raised (m := m) (c := c) (f := levelFrame (s.cfg.probes.get c) mean)
        (p := { m.probes.get c with overfill := true })
      refine ⟨_, taken, e1.trans (by rw [probe']), e2, e3, fun h l hr hl' ht => ?_⟩
      have hoses : g.hoses = s.hoses := frame .hoses (by decide)
      have ended := (ends.1 h l (by rw [State.setBook_hoses, hoses]; exact hr) (by rw [State.setBook_hoses, hoses]; exact hl') ht).1
      exact overfill_hose ended

end Sys2Proof.Machine
end

section
/-! SUPPORT. Stuck valves (O16): the check of R15, the hose it takes out of service, and the delivery it closes. -/

namespace Sys2Proof.Machine

/-! ### The check of R15 (O16) -/

theorem setValve_setValve (s : State) (h : HoseIx) (v w : Valve) : (s.setValve h v).setValve h w = s.setValve h w := by
  have : (s.valves.set h v).set h w = s.valves.set h w := PerHose.ext_get fun g => by
    by_cases e : g = h <;> simp [e]
  simp only [State.setValve, this]

theorem stuckNow_iff {s : State} {h : HoseIx} : s.stuckNow h = true ↔ (s.valves.get h).duty = 0
    ∧ s.cfg.endSettle * 1000 ≤ (s.valves.get h).zeroTime ∧ (s.valves.get h).closed = false
    ∧ ∀ f, (s.hoses.get h).state ≠ .outOfService f := by
  unfold State.stuckNow
  have out : (match (s.hoses.get h).state with
      | .outOfService _ => false
      | _ => true) = true ↔ ∀ f, (s.hoses.get h).state ≠ .outOfService f := by
    cases (s.hoses.get h).state <;> simp
  simp only [Bool.and_eq_true, beq_iff_eq, decide_eq_true_iff, Bool.not_eq_true', and_assoc]
  exact and_congr_right fun _ => and_congr_right fun _ => and_congr_right fun _ => out

theorem checkStuck_not {s : State} {h : HoseIx} (hk : (s.valves.get h).duty ≠ 0
    ∨ (s.valves.get h).zeroTime < s.cfg.endSettle * 1000 ∨ (s.valves.get h).closed = true
    ∨ (s.valves.get h).stuckGiven = true ∨ ∃ f, (s.hoses.get h).state = .outOfService f) : checkStuck h s = s := by
  refine if_neg fun c => ?_
  simp only [Bool.and_eq_true, Bool.not_eq_true', stuckNow_iff] at c
  obtain ⟨⟨c1, c2, c3, c4⟩, c5⟩ := c
  rcases hk with k | k | k | k | ⟨f, k⟩
  · exact k c1
  · omega
  · rw [k] at c3; cases c3
  · rw [k] at c5; cases c5
  · exact c4 f k

/-- The valve once its condition has been signalled. -/
def State.signalled (s : State) (h : HoseIx) : State :=
  s.setValve h { s.valves.get h with closed := false, stuckGiven := true }

/-- The commands that complete the condition of R15 signal valve stuck. -/
theorem stuckBy_signals {s : State} {h : HoseIx} {c : Instr} (k : s.stuckBy h c)
    (hs : ∀ f, (s.hoses.get h).state ≠ .outOfService f) : exec c s = .next (valveStuck h (s.signalled h)) := by
  obtain ⟨hp, hd, hg, hc⟩ := k
  rcases hc with ⟨n, rfl, hn, hcl, hz⟩ | ⟨rfl, hcl, hz⟩
  · refine exec_powered hp rfl ((if_neg (by simpa [Config.qualifyMs] using hn)).trans ?_)
    unfold takeValveProof
    dsimp only
    rw [if_neg (by simp [hcl]), if_neg (by simp)]
    have stuck : (s.setValve h { s.valves.get h with closed := false }).stuckNow h = true :=
      stuckNow_iff.mpr ⟨by simpa using hd, by rw [State.setValve_valves, PerHose.get_set_self]; exact hz, by simp, hs⟩
    unfold checkStuck
    rw [stuck]
    simp only [State.setValve_valves, PerHose.get_set_self, hg, Bool.not_false, Bool.and_self, if_true,
      setValve_setValve]
    rfl
  · have stuck : s.stuckNow h = true := stuckNow_iff.mpr ⟨hd, hz, hcl, hs⟩
    refine exec_powered hp rfl ((if_pos ⟨hd, by simpa [secondsMs] using hz⟩).trans ?_)
    unfold checkStuck
    rw [if_pos (by rw [stuck, hg]; rfl), State.signalled]
    congr 3
    rw [← hcl]

/-- A hose at rest goes out of service with VALVE_STUCK (R15, R52). -/
theorem valveStuck_rest {s : State} {h : HoseIx} (hs : (s.hoses.get h).state = .idle ∨ (s.hoses.get h).state = .waiting
    ∨ (∃ r, (s.hoses.get h).state = .done r) ∨ ∃ r, (s.hoses.get h).state = .refused r) :
    valveStuck h s = raise .valveStuck (moveHose h (.outOfService .valveStuck) s) := by
  have out : stuckOut (moveHose h (.outOfService .valveStuck)) s
      = raise .valveStuck (moveHose h (.outOfService .valveStuck) s) := by
    unfold stuckOut
    rw [settling_notEnding fun g hg => ?_]
    rw [moveHose_hose] at hg
    split at hg
    · simp [enter_state] at hg
    · exact hg
  unfold valveStuck
  rcases hs with hs | hs | ⟨r, hs⟩ | ⟨r, hs⟩ <;> rw [hs] <;> exact out

theorem moveHose_shutValve {s : State} {h : HoseIx} {st : HoseState} (hs : stageOf st = .shut) (he : st ≠ .ending)
    (hd : (s.valves.get h).duty = 0) :
    (moveHose h st s).valves.get h = { s.valves.get h with commanded := .shut, flowPast := none } := by
  rw [moveHose_valves, PerHose.get_set_self]
  have duty : (if s.tripped || s.inConfigFault then 0 else stageDuty (s.hoseCfg h) .shut) = 0 := by simp [stageDuty]
  rw [hs, if_neg he, duty]
  exact apply_shut hd

/-- A close with VALVE_STUCK on a station with no other live delivery (R47, R48). -/
theorem closeRaw_stuck {s : State} {h : HoseIx} {l : Live} {r : EndReason} (hl : (s.hoses.get h).live = some l)
    (ho : ∀ g, g ≠ h → liveState (s.hoses.get g).state = false) :
    closeRaw h false (some .valveStuck) r s = handOff (closedOf h l (s.meters.get h).net r s)
      (moveHose h (.outOfService .valveStuck) (s.setHose h { s.hoses.get h with live := none, meterMark := false })) := by
  unfold closeRaw afterClose
  simp only [hl, Bool.false_eq_true, false_and, if_false]
  split
  · rfl
  · generalize ({ s.hoses.get h with live := none, meterMark := false } : Hose) = x
    generalize hu : handOff _ _ = u
    have hoses : u.hoses = (moveHose h (.outOfService .valveStuck) (s.setHose h x)).hoses := by
      rw [← hu, handOff_frame _ _ .hoses (by decide)]
    have none : u.liveOn l.tank = [] := by
      refine List.filter_eq_nil_iff.mpr fun g _ => ?_
      have rest : liveState (u.hoses.get g).state = false := by
        rw [hoses]
        by_cases e : g = h
        · subst e; rw [(setHose_moves _).1]; rfl
        · rw [(setHose_moves _).2.1 g e]; exact ho g e
      simp [State.liveTank, rest]
    simp only [watchRaw, none, endAll, List.foldl_nil, ite_self]

/-- A delivery has closed with its hose out of service for VALVE_STUCK, and nothing has been learned (R47 to R50). -/
structure StuckClosed (h : HoseIx) (l : Live) (r : EndReason) (s t : State) : Prop where
  state : (t.hoses.get h).state = .outOfService .valveStuck
  live : (t.hoses.get h).live = none
  overrun : (t.hoses.get h).overrun = (s.hoses.get h).overrun
  flowPast : (t.valves.get h).flowPast = none
  duty : (t.valves.get h).duty = 0
  closed : ClosedAs h l r s t

theorem closeRaw_stuckClosed {s : State} {h : HoseIx} {l : Live} {r : EndReason} (hl : (s.hoses.get h).live = some l)
    (ho : ∀ g, g ≠ h → liveState (s.hoses.get g).state = false) :
    StuckClosed h l r s (closeRaw h false (some .valveStuck) r s)
      ∧ otherHosesSame h s (closeRaw h false (some .valveStuck) r s) := by
  rw [closeRaw_stuck hl ho]
  generalize hx : ({ s.hoses.get h with live := none, meterMark := false } : Hose) = x
  obtain ⟨e1, e2, e3⟩ := setHose_moves (s := s) (h := h) (x := x) (.outOfService .valveStuck)
  have flowPast : ((moveHose h (.outOfService .valveStuck) (s.setHose h x)).valves.get h).flowPast = none := by
    simp [moveHose_valves]
  have duty : ((moveHose h (.outOfService .valveStuck) (s.setHose h x)).valves.get h).duty = 0 := by
    simp [moveHose_valves, stageOf, stageDuty]
  generalize moveHose h (.outOfService .valveStuck) (s.setHose h x) = m at *
  have handed := handOff_frame (closedOf h l (s.meters.get h).net r s) m
  have hoses : (handOff (closedOf h l (s.meters.get h).net r s) m).hoses = m.hoses := handed .hoses (by decide)
  have valves : (handOff (closedOf h l (s.meters.get h).net r s) m).valves = m.valves := handed .valves (by decide)
  refine ⟨⟨by rw [hoses, e1]; rfl, by rw [hoses, e1, ← hx]; rfl, by rw [hoses, e1, ← hx]; rfl, by rw [valves, flowPast],
    by rw [valves, duty], fun hq => ?_, fun hq => ?_⟩, fun g hg => by rw [hoses]; exact e2 g hg⟩
  · exact (handOff_handedOn m (c := closedOf h l (s.meters.get h).net r s) (Nat.ne_of_gt hq)).of_moved e3
  · exact (handOff_released m (c := closedOf h l (s.meters.get h).net r s) hq).of_moved (e3.journal (by decide) (by decide))
      (e3 .accounts (by decide)) (e3 .books (by decide)) (e3.link (by decide) (by decide)) (e3 .counts (by decide))

/-- A close stays handed on while its records, books, machine records and frame stay. -/
theorem ClosedAs.later {h : HoseIx} {l : Live} {r : EndReason} {s t u : State} (k : ClosedAs h l r s t)
    (f : sameOutside (.tripUnit :: moving) t u) : ClosedAs h l r s u := by
  have accounts : u.accounts = t.accounts := f .accounts (by decide)
  have journal : u.journal = t.journal := f.journal (by decide) (by decide)
  have books : u.books = t.books := f .books (by decide)
  have link : u.link = t.link := f.link (by decide) (by decide)
  have counts : u.counts = t.counts := f .counts (by decide)
  unfold ClosedAs HandedOn OnlyReleased at k ⊢
  rw [accounts, journal, books, link, counts]
  exact k

/-- VALVE_STUCK raised after such a close (R47, R114). -/
theorem StuckClosed.raised {h : HoseIx} {l : Live} {r : EndReason} {s t : State} (k : StuckClosed h l r s t)
    (hr : ∀ g, runState (t.hoses.get g).state = false) : StuckClosed h l r s (raise .valveStuck t) := by
  obtain ⟨e1, e2⟩ := raise_rest (s := t) (h := h) .valveStuck (by rw [k.state]; simp) (hr h) k.duty
  exact ⟨by rw [e1, k.state], by rw [e1, k.live], by rw [e1, k.overrun], by rw [e2, k.flowPast], by rw [e2, k.duty],
    k.closed.later (raise_stuck_idle hr)⟩

theorem runState_of_notLive {st : HoseState} (h : liveState st = false) : runState st = false := by
  cases st <;> simp_all [liveState, runState]

/-- A change that closes the one live delivery of the station so takes its hose out of service and raises VALVE_STUCK
(R47). -/
theorem stuckOut_closes {f : State → State} {s s1 : State} {h : HoseIx} {l : Live} {r : EndReason}
    (hf : f s = closeRaw h false (some .valveStuck) r s1) (hl : (s1.hoses.get h).live = some l)
    (hs : otherHosesSame h s s1) (ho : ∀ g, g ≠ h → liveState (s.hoses.get g).state = false) :
    StuckClosed h l r s1 (stuckOut f s) := by
  obtain ⟨k, others⟩ := closeRaw_stuckClosed (r := r) hl fun g hg => by rw [hs g hg]; exact ho g hg
  rw [← hf] at k others
  have notLive (g : HoseIx) : liveState ((f s).hoses.get g).state = false := by
    by_cases e : g = h
    · subst e; rw [k.state]; rfl
    · rw [others g e, hs g e]; exact ho g e
  unfold stuckOut
  rw [settling_notEnding fun g hg => by have := notLive g; rw [hg] at this; cases this]
  exact k.raised fun g => runState_of_notLive (notLive g)

/-- Valve stuck at the one live delivery closes it with its first reason, or in PRIMING with VALVE (R47). -/
theorem valveStuck_closes {s : State} {h : HoseIx} {l : Live} {r : EndReason} (hl : (s.hoses.get h).live = some l)
    (ho : ∀ g, g ≠ h → liveState (s.hoses.get g).state = false)
    (hs : (s.hoses.get h).state = .ending ∧ l.endReason = some r ∨ (s.hoses.get h).state = .priming ∧ r = .valve) :
    StuckClosed h l r s (valveStuck h s) := by
  rcases hs with ⟨hs, hr⟩ | ⟨hs, rfl⟩
  · have out : valveStuck h s = stuckOut (closeRaw h false (some .valveStuck) r) s := by
      unfold valveStuck
      rw [hs]
      simp only [reasonOr, hl, hr, Option.getD_some]
    rw [out]
    exact stuckOut_closes rfl hl (fun _ _ => rfl) ho
  · have run : runState (s.hoses.get h).state = true := by rw [hs]; rfl
    obtain ⟨-, live, -, -, -, -, others, frame⟩ := enterEnding_entersEnding .valve run hl
    have out : valveStuck h s
        = stuckOut (fun s => closeRaw h false (some .valveStuck) .valve (enterEnding h .valve s)) s := by
      unfold valveStuck
      rw [hs]
    have hose := enterEnding_hose h .valve s
    have net : ((enterEnding h .valve s).meters.get h).net = (s.meters.get h).net := by
      rw [← endRaw_run .valve run]
      exact net_of_steady (endRaw_steady h .valve s) h
    rw [out]
    obtain ⟨e1, e2, e3, e4, e5, e6⟩ := stuckOut_closes
      (f := fun s => closeRaw h false (some .valveStuck) .valve (enterEnding h .valve s)) rfl live others ho
    refine ⟨e1, e2, ?_, e4, e5, ClosedAs.of_moved frame net e6⟩
    rw [e3, hose]
    rfl

theorem signalled_valve (s : State) (h : HoseIx) :
    (s.signalled h).valves.get h = { s.valves.get h with closed := false, stuckGiven := true } := PerHose.get_set_self _ _ _

/-- Settles O16: proofs and times that complete nothing, a hose at rest, and a delivery that closes. -/
theorem stuckValvesLeaveService : Obligations.StuckValvesLeaveService := by
  refine ⟨⟨fun s h n hp => ⟨fun hn c => exec_powered hp rfl (if_pos hn), fun hn hc => ?_, fun hn => ?_, fun hn hc hk => ?_,
      fun hk => ?_, fun hk => ?_⟩, fun s h c hc hs => ?_⟩, fun s h c l r hl ho hc => ?_⟩
  · exact exec_powered hp rfl ((if_neg (not_lt.mpr hn)).trans ((if_neg (by simp [hc])).trans (if_pos rfl)))
  · exact exec_powered hp rfl ((if_neg (not_lt.mpr hn)).trans (if_pos rfl))
  · refine exec_powered hp rfl ((if_neg (not_lt.mpr hn)).trans ((if_neg (by simp [hc])).trans ((if_neg (by simp)).trans ?_)))
    refine checkStuck_not ?_
    rw [State.setValve_valves, PerHose.get_set_self]
    rcases hk with k | k | k | k
    · exact .inl k
    · exact .inr (.inl k)
    · exact .inr (.inr (.inr (.inl k)))
    · exact .inr (.inr (.inr (.inr k)))
  · have none : checkStuck h s = s := checkStuck_not hk
    refine exec_powered hp rfl ?_
    dsimp only
    rw [none, ite_self]
  · have early : ranOut (s.valves.get h).flowPast (secondsMs s.cfg.endingLimit) = false := ranOut_eq_false.mpr hk
    exact exec_powered hp rfl (if_neg (by simp [early]))
  · have service : ∀ f, (s.hoses.get h).state ≠ .outOfService f := by
      rcases hs with hs | hs | ⟨r, hs⟩ | ⟨r, hs⟩ <;> simp [hs]
    have duty : ((s.signalled h).valves.get h).duty = 0 := by rw [signalled_valve]; exact hc.2.1
    have valve := moveHose_shutValve (s := s.signalled h) (h := h) (st := .outOfService .valveStuck) rfl (by simp) duty
    obtain ⟨e1, e2⟩ := raise_rest (s := moveHose h (.outOfService .valveStuck) (s.signalled h)) (h := h) .valveStuck
      (by simp [enter_state]) (by simp [enter_state, runState]) (by rw [valve]; exact duty)
    rw [moveHose_hose, if_pos rfl] at e1
    rw [valve, signalled_valve] at e2
    refine ⟨_, (stuckBy_signals hc service).trans (congrArg _ (valveStuck_rest (s := s.signalled h) hs)), ?_⟩
    exact ⟨by rw [e1]; rfl, by rw [e1]; rfl, by rw [e1]; rfl, by rw [e1]; rfl, by rw [e2], by rw [e2],
      raise_has .valveStuck _, raise_tripped _ _⟩
  · have service : ∀ f, (s.hoses.get h).state ≠ .outOfService f := by
      rcases hc with ⟨hs, -⟩ | ⟨hs, -⟩ <;> simp [hs]
    have signals (k : s.stuckBy h c)
        (hs : (s.hoses.get h).state = .ending ∧ l.endReason = some r ∨ (s.hoses.get h).state = .priming ∧ r = .valve) :
        ∃ t, exec c s = .next t ∧ StuckClosed h l r s t ∧ t.tripUnit.causes.valveStuck = true ∧ t.tripped = true := by
      obtain ⟨e1, e2, e3, e4, e5, e6⟩ := valveStuck_closes (s := s.signalled h) hl ho hs
      have raised : ∃ u, valveStuck h (s.signalled h) = raise .valveStuck u := by
        unfold valveStuck stuckOut
        rcases hs with ⟨hs, -⟩ | ⟨hs, -⟩
        · rw [show ((s.signalled h).hoses.get h).state = .ending from hs]; exact ⟨_, rfl⟩
        · rw [show ((s.signalled h).hoses.get h).state = .priming from hs]; exact ⟨_, rfl⟩
      obtain ⟨u, hu⟩ := raised
      exact ⟨_, stuckBy_signals k service, ⟨e1, e2, e3, e4, e5, e6.of_valve⟩, by rw [hu]; exact raise_has .valveStuck u,
        by rw [hu]; exact raise_tripped _ _⟩
    obtain ⟨t, ht, k, causes, tripped⟩ : ∃ t, exec c s = .next t ∧ StuckClosed h l r s t
        ∧ t.tripUnit.causes.valveStuck = true ∧ t.tripped = true := by
      rcases hc with ⟨hs, hr, k | ⟨hp, m, hm, hlim, rfl⟩⟩ | ⟨hs, hr, k⟩
      · exact signals k (.inl ⟨hs, hr⟩)
      · refine ⟨stuckOut (closeRaw h false (some .valveStuck) r) s, exec_powered hp rfl
          ((if_pos ⟨ranOut_eq_true.mpr ⟨m, hm, hlim⟩, hs⟩).trans ?_), stuckOut_closes rfl hl (fun _ _ => rfl) ho,
          raise_has .valveStuck _, raise_tripped _ _⟩
        simp only [reasonOr, hl, hr, Option.getD_some]
      · exact signals k (.inr ⟨hs, hr⟩)
    exact ⟨t, ht, k.state, k.live, k.overrun, k.flowPast, causes, tripped, k.closed⟩

end Sys2Proof.Machine
end

section
/-! SUPPORT. Trip causes (O39, O41): the commands that raise one, the record and the announcement, and the shutdown. -/

namespace Sys2Proof.Machine

/-! ### What the record and the reserved entries are kept by -/

/-- The trip record with the reserved entries that its announcements take. -/
def State.tripSide (s : State) : TripUnit × List TxEntry := (s.tripUnit, s.link.reserved)

theorem tripSide_moved (s t : State) (f : sameOutside moving s t) : t.tripSide = s.tripSide :=
  Prod.ext (f .tripUnit (by decide)) (f .queue (by decide)).2

theorem tripSide_handOff (c : Closed) (s : State) : (handOff c s).tripSide = s.tripSide :=
  Prod.ext (handOff_frame c s .tripUnit (by decide)) (handOff_reserved c s)

theorem tripSide_settling {f : State → State} {s : State} (hf : (f s).tripSide = s.tripSide) :
    (settling f s).tripSide = s.tripSide :=
  (settleNew_keeps tripSide_moved tripSide_handOff s 6 _).trans hf

theorem tripSide_closeRaw (h : HoseIx) (b : Bool) (o : Option HoseFault) (r : EndReason) (s : State) :
    (closeRaw h b o r s).tripSide = s.tripSide :=
  closeRaw_keeps tripSide_moved tripSide_handOff b o h r s

theorem tripSide_deadLevelWatch (tank : Nat) (s : State) : (deadLevelWatch tank s).tripSide = s.tripSide :=
  tripSide_settling (tripSide_moved _ _ (watchRaw_frame tank s))

theorem tripSide_enterTripped (s : State) : (enterTripped s).tripSide = s.tripSide :=
  enterTripped_keeps tripSide_moved tripSide_handOff s

theorem tripSide_raise {s : State} {c : Cause} (h : s.tripUnit.causes.has c = false) :
    (raise c s).tripSide = (latched c s).tripSide :=
  raise_keeps (f := State.tripSide) h tripSide_enterTripped

theorem reportLost_reserved (p : Purpose) (s : State) : (reportLost p s).link.reserved = s.link.reserved := by
  cases p <;> rfl

/-- A LEVEL is an ordinary frame (R168). -/
theorem handOver_level_reserved (c : ProbeSetting) (mean : Nat) (s : State) :
    (handOver (levelFrame c mean) s).link.reserved = s.link.reserved := by
  have displaced : (displace (levelFrame c mean) s).link.reserved = s.link.reserved := by
    unfold displace
    dsimp only
    split
    · exact reportLost_reserved _ _
    · split <;> exact reportLost_reserved _ _
  have ordinary : (handOrdinary (levelFrame c mean) s).link.reserved = s.link.reserved := by
    unfold handOrdinary
    split
    · rfl
    · exact displaced
  unfold handOver
  split
  · rfl
  · exact ordinary

theorem handOver_level_tripSide (c : ProbeSetting) (mean : Nat) (s : State) :
    (handOver (levelFrame c mean) s).tripSide = s.tripSide :=
  Prod.ext (handOver_frame _ _ .tripUnit (by decide)) (handOver_level_reserved c mean s)

/-! ### The record of a latched cause (R114, R120, R122) -/

theorem CauseSet.put_of_has {x : CauseSet} {c : Cause} (h : x.has c = true) : x.put c true = x := by
  cases c <;> (simp only [CauseSet.has] at h; simp [CauseSet.put, ← h])

theorem latch_first {t : TripUnit} {c : Cause} (hz : zoneWideCause c = true) (h : t.causes.zoneWide.any = false) :
    t.latch c = { t with causes := t.causes.put c true, stampCounter := nextStamp t.stampCounter
                         episode := some (nextStamp t.stampCounter), announced := false } := by
  unfold TripUnit.latch
  dsimp only
  rw [if_pos (by simp [hz, h])]
  rfl

theorem latch_further {t : TripUnit} {c : Cause} (h : zoneWideCause c = false ∨ t.causes.zoneWide.any = true) :
    t.latch c = { t with causes := t.causes.put c true } := by
  unfold TripUnit.latch
  dsimp only
  rw [if_neg (by rcases h with h | h <;> simp [h])]

theorem nextStamp_eq (n : Nat) : nextStamp n = if n < 65535 then n + 1 else 1 := by
  unfold nextStamp
  split <;> split <;> first | rfl | omega

theorem announce_fault {s : State} (h : s.inConfigFault = true) : announce s = s := if_pos h

theorem announce_handed {s : State} (h : s.inConfigFault = false) :
    announce s = handReserved s.tripFrame (s.setTripUnit { s.tripUnit with announced := true }) := by
  have calm (t : TripUnit) : (s.setTripUnit t).inConfigFault = false := h
  unfold announce handOver
  rw [if_neg (by simp [h]), if_neg (by rw [calm]; simp)]
  rfl

theorem handReserved_empty {s : State} {f : NewFrame} (h : s.link.reserved = []) :
    (handReserved f s).link.reserved = [s.entryOf f] := by
  unfold handReserved
  rw [h]
  rfl

/-- The record once a zone-wide cause is latched: announced outside CONFIG_FAULT (R122, R136). -/
theorem latched_record {s : State} {c : Cause} (hz : zoneWideCause c = true) :
    (latched c s).tripUnit
      = { s.tripUnit.latch c with announced := !s.inConfigFault || (s.tripUnit.latch c).announced } := by
  unfold latched
  rw [if_pos hz]
  cases hf : s.inConfigFault with
  | true =>
    rw [announce_fault (s := s.setTripUnit (s.tripUnit.latch c)) hf]
    rfl
  | false =>
    rw [announce_handed (s := s.setTripUnit (s.tripUnit.latch c)) hf, handReserved_frame _ _ .tripUnit (by decide)]
    rfl

/-- A TRIP stands in the reserved entries that were empty (R122, R166, R187). -/
theorem latched_reserved {s : State} {c : Cause} (hz : zoneWideCause c = true) :
    (s.inConfigFault = true → (latched c s).link.reserved = s.link.reserved)
      ∧ (s.inConfigFault = false → ∀ z stamp, s.cfg.zone = some z → (s.tripUnit.latch c).episode = some stamp →
        s.link.reserved = [] → (latched c s).link.reserved
          = [s.entryOf ⟨0, .trip, oneByte z ++ beBytes 2 stamp
              ++ oneByte (causeSetCode (s.tripUnit.latch c).causes.zoneWide), .tripUnit, .plain⟩]) := by
  unfold latched
  rw [if_pos hz]
  refine ⟨fun hf => ?_, fun hf z stamp zone episode empty => ?_⟩
  · rw [announce_fault (s := s.setTripUnit (s.tripUnit.latch c)) hf]
    rfl
  · rw [announce_handed (s := s.setTripUnit (s.tripUnit.latch c)) hf]
    refine (handReserved_empty (by exact empty)).trans ?_
    have frame : (s.setTripUnit (s.tripUnit.latch c)).tripFrame = ⟨0, .trip, oneByte z ++ beBytes 2 stamp
        ++ oneByte (causeSetCode (s.tripUnit.latch c).causes.zoneWide), .tripUnit, .plain⟩ := by
      simp only [State.tripFrame, State.zoneByte, State.setTripUnit_tripUnit, episode, Option.getD_some,
        show (s.setTripUnit (s.tripUnit.latch c)).cfg.zone = some z from zone]
    rw [frame]
    rfl

/-! ### The commands that raise a zone-wide cause (R115 to R118) -/

theorem confirmInput_alarm {i : InputIx} {s : State} {c : Cause} (hc : causeOfFunction (s.cfg.spill.get i).function = some c)
    (hi : s.tripUnit.inputs.get i ≠ .alarm) : confirmInput i (!(s.cfg.spill.get i).senseOpen) s
      = raise c (s.setTripUnit { s.tripUnit with inputs := s.tripUnit.inputs.set i .alarm }) := by
  simp [confirmInput, hc, confirmed, hi]

/-- The state in which the trip unit raises a cause: the record as it was but for the level that raised it. -/
structure Prepares (s u : State) : Prop where
  record : u.tripUnit = { s.tripUnit with inputs := u.tripUnit.inputs, button := u.tripUnit.button }
  reserved : u.link.reserved = s.link.reserved
  join : u.link.join = s.link.join
  unit : u.unit = s.unit

theorem exec_alarms {s : State} {c : Instr} {cause : Cause} (hp : s.unit.powered = true) (k : s.alarms c cause) :
    zoneWideCause cause = true ∧ ∃ u, exec c s = .next (raise cause u) ∧ sameOutside [.tripUnit] s u ∧ Prepares s u := by
  rcases k with ⟨i, n, rfl, hn, hi, hf⟩ | ⟨n, rfl, hn, hb, rfl⟩
  · have function : causeOfFunction (s.cfg.spill.get i).function = some cause ∧ zoneWideCause cause = true := by
      rcases hf with ⟨hf, rfl⟩ | ⟨hf, rfl⟩ <;> rw [hf] <;> exact ⟨rfl, rfl⟩
    exact ⟨function.2, s.setTripUnit { s.tripUnit with inputs := s.tripUnit.inputs.set i .alarm },
      exec_powered hp rfl ((if_neg (Nat.not_lt.mpr hn)).trans (confirmInput_alarm function.1 hi)),
      setTripUnit_frame _ _, rfl, rfl, rfl, rfl⟩
  · have pressed : takeButton true s = raise .estop (s.setTripUnit { s.tripUnit with button := .pressed }) :=
      if_pos ⟨hb, rfl⟩
    exact ⟨rfl, s.setTripUnit { s.tripUnit with button := .pressed },
      exec_powered hp rfl ((if_neg (Nat.not_lt.mpr hn)).trans pressed), setTripUnit_frame _ _, rfl, rfl, rfl, rfl⟩

theorem exec_creeps {s : State} {c : Instr} {h : HoseIx} {m : Meter} (k : s.creeps c h m) :
    exec c s = .next (raise .creep (s.moves h m)) := by
  obtain ⟨la, ha, lb, hb, a, b, rfl, hm, hl, hu, he, hv⟩ := k
  refine (exec_restStep (forward := true) hm hl he).trans ?_
  rw [if_pos (by simpa [hu] using hv)]
  rfl

theorem exec_bursts {s : State} {c : Instr} {h : HoseIx} {m : Meter} (hp : s.unit.powered = true) (k : s.bursts c h m) :
    exec c s = .next (raise .hoseBreak (s.setMeter h m)) := by
  obtain ⟨rfl, ht, hf, he, hr⟩ := k
  exact exec_powered hp rfl ((if_pos (by simpa [Config.rateWindowMs] using ht)).trans
    ((takeRate_burst he).trans (if_pos ⟨hf, hr⟩)))

/-- The station once a tracking scan has settled the tank's book, the dead-level watch still to come. -/
def State.gauged (s : State) (d : ProbeIx) (p : Probe) (k : BookIx) (b : Book) : State := (s.setProbe d p).setBook k b

theorem gauged_frame (s : State) (d : ProbeIx) (p : Probe) (k : BookIx) (b : Book) :
    sameOutside [.probes, .books] s (s.gauged d p k b) :=
  (setProbe_frame _ _ _).then (setBook_frame _ _ _) rfl rfl

theorem exec_overfills {s : State} {c : Instr} {d : ProbeIx} {k : BookIx} {b : Book} (hp : s.unit.powered = true)
    (o : s.overfills c d k b) : ∃ mean p q, exec c s = .next (handOver (levelFrame (s.cfg.probes.get d) mean)
      (raise .overfill ((deadLevelWatch (s.cfg.probes.get d).tank (s.gauged d p k b)).setProbe d q))) := by
  obtain ⟨count, hs, rfl, hf, ⟨n, hg, hn⟩, hlo, hhi, hk, hhs, hst, hhigh, hb⟩ := o
  have taken := exec_trackingScan hp hf hg hn hlo hhi hk hhs hst rfl hb
  generalize ({ s.probes.get d with state := .tracking, history := hs, gate := none } : Probe) = p at taken
  generalize hw : deadLevelWatch (s.cfg.probes.get d).tank ((s.setProbe d p).setBook k b) = w at taken
  have unit : w.unit = s.unit := by rw [← hw]; exact deadLevelWatch_frame _ _ .unit (by decide)
  have cfg : w.cfg = s.cfg := congrArg StartUnit.settings unit
  rw [overfillTest_above (k := k) (by rw [bookOf_congr unit, cfg]; exact hk) (by rw [cfg]; exact hhigh)] at taken
  exact ⟨_, p, _, hw ▸ taken⟩

theorem Prepares.of_tripSide {s u : State} (h : u.tripSide = s.tripSide) (hj : u.link.join = s.link.join)
    (hu : u.unit = s.unit) : Prepares s u := by
  have record : u.tripUnit = s.tripUnit := congrArg Prod.fst h
  exact ⟨by rw [record], congrArg Prod.snd h, hj, hu⟩

/-- Each such command raises its cause in a prepared state, a tracking scan handing its LEVEL over after it. -/
theorem exec_raises {s s1 : State} {c : Instr} {cause : Cause} (k : s.raises c cause s1) :
    zoneWideCause cause = true ∧ ∃ u t, exec c s = .next t ∧ Prepares s u ∧ t.tripSide = (raise cause u).tripSide := by
  obtain ⟨hp, ⟨k, -⟩ | ⟨h, m, k, rfl, -⟩ | ⟨h, m, k, rfl, -⟩ | ⟨⟨d, k, b, o⟩, rfl, -⟩⟩ := k
  · obtain ⟨hz, u, taken, -, prepares⟩ := exec_alarms hp k
    exact ⟨hz, u, _, taken, prepares, rfl⟩
  · exact ⟨rfl, s.moves h m, _, exec_creeps k, ⟨rfl, rfl, rfl, rfl⟩, rfl⟩
  · exact ⟨rfl, s.setMeter h m, _, exec_bursts hp k, ⟨rfl, rfl, rfl, rfl⟩, rfl⟩
  · obtain ⟨mean, p, q, taken⟩ := exec_overfills hp o
    have watched := tripSide_deadLevelWatch (s.cfg.probes.get d).tank (s.gauged d p k b)
    have frame := deadLevelWatch_frame (s.cfg.probes.get d).tank (s.gauged d p k b)
    exact ⟨rfl, (deadLevelWatch (s.cfg.probes.get d).tank (s.gauged d p k b)).setProbe d q, _, taken,
      .of_tripSide watched (frame.join (by decide)) (frame .unit (by decide)), handOver_level_tripSide _ _ _⟩

/-! ### The record after a raised cause (O39) -/

/-- A new zone-wide cause raised in a prepared state: the record, and the TRIP that announces it (R114, R120, R122). -/
theorem raise_announces {s u t : State} {c : Cause} (hz : zoneWideCause c = true) (hc : s.tripUnit.causes.has c = false)
    (k : Prepares s u) (ht : t.tripSide = (raise c u).tripSide) :
    t.tripUnit.causes = s.tripUnit.causes.put c true ∧ t.tripped = true ∧ t.tripUnit.origins = s.tripUnit.origins
      ∧ (s.tripUnit.causes.zoneWide.any = false →
        t.tripUnit.stampCounter = (if s.tripUnit.stampCounter < 65535 then s.tripUnit.stampCounter + 1 else 1)
          ∧ t.tripUnit.episode = some t.tripUnit.stampCounter)
      ∧ (s.tripUnit.causes.zoneWide.any = true →
        t.tripUnit.stampCounter = s.tripUnit.stampCounter ∧ t.tripUnit.episode = s.tripUnit.episode)
      ∧ (s.inConfigFault = true → t.link.reserved = s.link.reserved)
      ∧ (s.inConfigFault = false → t.tripUnit.announced = true
        ∧ ∀ z stamp, s.cfg.zone = some z → t.tripUnit.episode = some stamp → s.link.reserved = [] →
          t.link.reserved = [s.entryOf ⟨0, .trip, oneByte z ++ beBytes 2 stamp
            ++ oneByte (causeSetCode t.tripUnit.causes.zoneWide), .tripUnit, .plain⟩]) := by
  have causes : u.tripUnit.causes = s.tripUnit.causes := by rw [k.record]
  have stamp : u.tripUnit.stampCounter = s.tripUnit.stampCounter := by rw [k.record]
  have episode : u.tripUnit.episode = s.tripUnit.episode := by rw [k.record]
  have origins : u.tripUnit.origins = s.tripUnit.origins := by rw [k.record]
  have fault : u.inConfigFault = s.inConfigFault := inConfigFault_congr k.join
  have side := ht.trans (tripSide_raise (by rw [causes]; exact hc))
  have record : t.tripUnit
      = { u.tripUnit.latch c with announced := !s.inConfigFault || (u.tripUnit.latch c).announced } := by
    rw [← fault]
    exact (congrArg Prod.fst side).trans (latched_record hz)
  have entries : t.link.reserved = (latched c u).link.reserved := congrArg Prod.snd side
  obtain ⟨held, handed⟩ := latched_reserved (s := u) hz
  have put : t.tripUnit.causes = s.tripUnit.causes.put c true := by rw [record, ← causes]; exact latch_causes _ _
  refine ⟨put, tripped_of_has (c := c) (by rw [put, CauseSet.has_put]), ?_, fun first => ?_, fun further => ?_,
    fun hf => ?_, fun hf => ⟨by rw [record, hf]; rfl, fun z n zone ep empty => ?_⟩⟩
  · rw [record, ← origins]
    unfold TripUnit.latch
    dsimp only
    split <;> rfl
  · rw [record, latch_first hz (by rw [causes]; exact first), ← nextStamp_eq, stamp]
    exact ⟨rfl, rfl⟩
  · rw [record, latch_further (.inr (by rw [causes]; exact further)), ← stamp, ← episode]
    exact ⟨rfl, rfl⟩
  · rw [entries, held (fault.trans hf), k.reserved]
  · rw [entries, handed (fault.trans hf) z n (by rw [State.cfg, k.unit]; exact zone) (by rw [record] at ep; exact ep)
      (k.reserved.trans empty), entryOf_congr k.unit, record]

/-- A hose taken out of service latches VALVE_STUCK and announces nothing (R114, R118). -/
theorem stuckOut_latches {f : State → State} {s : State} (hf : (f s).tripSide = s.tripSide) :
    (stuckOut f s).tripSide
      = ({ s.tripUnit with causes := s.tripUnit.causes.put .valveStuck true }, s.link.reserved) := by
  have settled : (settling f s).tripSide = s.tripSide := tripSide_settling hf
  unfold stuckOut
  generalize settling f s = w at settled
  have record : w.tripUnit = s.tripUnit := congrArg Prod.fst settled
  have entries : w.link.reserved = s.link.reserved := congrArg Prod.snd settled
  rw [← record, ← entries]
  cases hc : w.tripUnit.causes.has .valveStuck with
  | true => rw [raise_held hc, CauseSet.put_of_has hc]; rfl
  | false =>
    rw [tripSide_raise hc]
    exact Prod.ext (latch_further (t := w.tripUnit) (c := .valveStuck) (.inl rfl)) rfl

/-- Valve stuck at a hose that is neither FLOWING, TRIMMING nor out of service. -/
theorem valveStuck_latches {s : State} {h : HoseIx} (hf : (s.hoses.get h).state ≠ .flowing)
    (ht : (s.hoses.get h).state ≠ .trimming) (ho : ∀ f, (s.hoses.get h).state ≠ .outOfService f) :
    (valveStuck h s).tripSide
      = ({ s.tripUnit with causes := s.tripUnit.causes.put .valveStuck true }, s.link.reserved) := by
  have moved := stuckOut_latches (tripSide_moved s _ (moveHose_frame h (.outOfService .valveStuck) s))
  unfold valveStuck
  split
  · exact stuckOut_latches ((tripSide_closeRaw _ _ _ _ _).trans (tripSide_moved _ _ (enterEnding_frame _ _ _)))
  · exact stuckOut_latches (tripSide_closeRaw _ _ _ _ _)
  · next e => exact absurd e hf
  · next e => exact absurd e ht
  · next f e => exact absurd e (ho f)
  all_goals exact moved

/-- Settles O39: a new cause, one already latched, and VALVE_STUCK. -/
theorem raisedCausesAreLatchedAndAnnounced : Obligations.RaisedCausesAreLatchedAndAnnounced := by
  refine ⟨fun s s1 c cause hr => ⟨fun hc => ?_, fun hc => ?_⟩, fun s h c hk => ?_⟩
  · obtain ⟨hz, u, t, taken, prepares, side⟩ := exec_raises hr
    exact ⟨t, taken, raise_announces hz hc prepares side⟩
  · obtain ⟨-, u, t, taken, prepares, side⟩ := exec_raises hr
    have causes : u.tripUnit.causes = s.tripUnit.causes := by rw [prepares.record]
    rw [raise_held (by rw [causes]; exact hc)] at side
    have record : t.tripUnit = _ := (congrArg Prod.fst side).trans prepares.record
    have entries : t.link.reserved = s.link.reserved := (congrArg Prod.snd side).trans prepares.reserved
    refine ⟨t, taken, ?_, tripped_of_has (c := cause) ?_, ?_, ?_, ?_, ?_, entries⟩ <;> rw [record]
    exact hc
  · obtain ⟨t, taken, side⟩ : ∃ t, exec c s = .next t ∧ t.tripSide
        = ({ s.tripUnit with causes := s.tripUnit.causes.put .valveStuck true }, s.link.reserved) := by
      rcases hk with ⟨k, hf, ht, ho⟩ | ⟨hp, he, m, hm, hlim, rfl⟩
      · exact ⟨_, stuckBy_signals k ho, valveStuck_latches (s := s.signalled h) hf ht ho⟩
      · exact ⟨_, exec_powered hp rfl (if_pos ⟨ranOut_eq_true.mpr ⟨m, hm, hlim⟩, he⟩),
          stuckOut_latches (tripSide_closeRaw _ _ _ _ _)⟩
    have causes : t.tripUnit.causes = s.tripUnit.causes.put .valveStuck true :=
      congrArg (fun r : TripUnit × List TxEntry => r.1.causes) side
    exact ⟨t, taken, congrArg Prod.fst side,
      tripped_of_has (c := .valveStuck) (by rw [causes]; exact CauseSet.has_put _ _), congrArg Prod.snd side⟩

/-! ### The entry to TRIPPED (O41) -/

theorem Prepares.tripped {s u : State} (k : Prepares s u) : u.tripped = s.tripped := by
  unfold State.tripped
  rw [k.record]

/-- What a shutdown is seen from: the units and the items of hoses, valves, pumps and meters as they were. -/
theorem ShutDown.of_frame {s s' t : State} {ps : List Part} (f : sameOutside ps s s') (hu : Part.unit ∉ ps)
    (hv : Part.valves ∉ ps) (hp : Part.pumps ∉ ps) (hh : Part.hoses ∉ ps) (hm : Part.meters ∉ ps)
    (k : ShutDown s' t) : ShutDown s t :=
  k.of_same (f .unit hu) (fun h => by rw [f .valves hv]) (f .pumps hp) (f .hoses hh) (f .meters hm)

/-- A cause raised here shuts the station down (R114, R121). -/
theorem raises_shutDown {s s1 : State} {c : Instr} {cause : Cause} (ht : s.tripped = false) (k : s.raises c cause s1)
    (calm : ∀ d k b, s.overfills c d k b → (∀ h, s.liveTank h ≠ some (s.cfg.probes.get d).tank)
      ∨ (s.setBook k b).stockGone (s.cfg.probes.get d).tank = false) : Takes c s (ShutDown s1) := by
  obtain ⟨hp, ⟨k, rfl⟩ | ⟨h, m, k, -, rfl⟩ | ⟨h, m, k, -, rfl⟩ | ⟨⟨d, k, b, o⟩, -, rfl⟩⟩ := k
  · obtain ⟨-, u, taken, frame, prepares⟩ := exec_alarms hp k
    exact ⟨_, taken, (raise_shutDown (prepares.tripped.trans ht)).of_frame frame (by decide) (by decide) (by decide)
      (by decide) (by decide)⟩
  · exact ⟨_, exec_creeps k, raise_shutDown (s := s.moves h m) ht⟩
  · exact ⟨_, exec_bursts hp k, raise_shutDown (s := s.setMeter h m) ht⟩
  · obtain ⟨mean, p, q, taken⟩ := exec_overfills hp o
    rw [deadLevelWatch_calm (s := s1.gauged d p k b) (calm d k b o)] at taken
    have frame : sameOutside [.probes, .books] s1 ((s1.gauged d p k b).setProbe d q) :=
      (gauged_frame s1 d p k b).then (setProbe_frame _ _ _) rfl rfl
    have tripped : ((s1.gauged d p k b).setProbe d q).tripped = false :=
      (tripped_congr (frame .tripUnit (by decide))).trans ht
    exact ⟨_, taken, ((raise_shutDown tripped).of_frame frame (by decide) (by decide) (by decide) (by decide)
      (by decide)).handed ((handOver_frame _ _).mono rfl)⟩

/-- A peer's episode entered in a zone that was NORMAL shuts the station down (R121, R124). -/
theorem withZone_enterOrigin_shutDown {s : State} (o : Origin) (ht : s.tripped = false) :
    ShutDown s (withZone (enterOrigin o) s) := by
  have frame := enterOrigin_frame o s
  have entered : (enterOrigin o s).tripped = true := by
    rw [← (withZone_enterOrigin (s := s) o rfl rfl rfl).1]
    exact (tripped_congr (zoneFollows_frame s (enterOrigin o s) .tripUnit (by decide))).symm
  have follows : withZone (enterOrigin o) s = enterTripped (enterOrigin o s) := by
    unfold withZone
    rw [zoneFollows_trips entered, if_neg (by simp [ht])]
  rw [follows]
  exact enterTripped_shutDown entered (frame .unit (by decide)) (frame .hoses (by decide)) (frame .valves (by decide))
    (frame .pumps (by decide)) (frame .meters (by decide))

section
variable {s : State} {e : RxEntry} {rest : List RxEntry}

theorem exec_trip {b : TripBody} (ho : s.offers .trip .tripUnit e rest) (hb : tripBody e.frame.body = .sound b) :
    exec .trip s = .next (if s.cfg.zone = some b.zone
      then withZone (enterOrigin ⟨e.frame.src, b.stamp, b.causes⟩) (s.took .trip .tripUnit e rest)
      else s.took .trip .tripUnit e rest) := by
  refine (exec_offered ho rfl rfl).trans (congrArg _ ?_)
  unfold takeTrip
  rw [hb]
  rfl

theorem exec_clear {b : ClearBody} (ho : s.offers .clear .tripUnit e rest) (hb : clearBody e.frame.body = .sound b) :
    exec .clear s = .next (if s.cfg.zone = some b.zone
      then withZone (dropOrigins fun o => o.address == e.frame.src && o.stamp == b.stamp) (s.took .clear .tripUnit e rest)
      else s.took .clear .tripUnit e rest) := by
  refine (exec_offered ho rfl rfl).trans (congrArg _ ?_)
  unfold takeClear
  rw [hb]
  rfl

theorem exec_beacon {b : BeaconBody} (ho : s.offers .beacon .tripUnit e rest) (hb : beaconBody e.frame.body = .sound b) :
    exec .beacon s = .next (if s.cfg.zone = some b.zone ∧ 0 < b.stamp
      then withZone (enterOrigin ⟨e.frame.src, b.stamp, b.causes⟩) (s.took .beacon .tripUnit e rest)
      else withZone (dropOrigins fun o => o.address == e.frame.src) (s.took .beacon .tripUnit e rest)) := by
  refine (exec_offered ho rfl rfl).trans (congrArg _ ?_)
  unfold takeBeacon
  rw [hb]
  rfl

/-- A frame taken leaves what a shutdown is seen from. -/
theorem ShutDown.of_took {k : FrameKind} {b : Block} {t : State} (h : ShutDown (s.took k b e rest) t) : ShutDown s t :=
  h.of_same rfl (fun _ => rfl) rfl rfl rfl
end

theorem bringsOrigin_shutDown {s : State} {c : Instr} (ht : s.tripped = false) (k : s.bringsOrigin c) :
    Takes c s (ShutDown s) := by
  obtain ⟨e, rest, ⟨b, rfl, ho, hb, hz⟩ | ⟨b, rfl, ho, hb, hz, hs⟩⟩ := k
  · exact ⟨_, (exec_trip ho hb).trans (congrArg _ (if_pos hz)),
      (withZone_enterOrigin_shutDown (s := s.took .trip .tripUnit e rest) _ ht).of_took⟩
  · exact ⟨_, (exec_beacon ho hb).trans (congrArg _ (if_pos ⟨hz, hs⟩)),
      (withZone_enterOrigin_shutDown (s := s.took .beacon .tripUnit e rest) _ ht).of_took⟩

theorem atRest_of_notLive {st : HoseState} (hl : liveState st = false) (ho : ∀ f, st ≠ .outOfService f) :
    st = .idle ∨ st = .waiting ∨ (∃ r, st = .done r) ∨ ∃ r, st = .refused r := by
  cases st with
  | outOfService f => exact absurd rfl (ho f)
  | idle => exact .inl rfl
  | waiting => exact .inr (.inl rfl)
  | done r => exact .inr (.inr (.inl ⟨r, rfl⟩))
  | refused r => exact .inr (.inr (.inr ⟨r, rfl⟩))
  | priming => cases hl
  | flowing => cases hl
  | trimming => cases hl
  | ending => cases hl

/-- A stuck valve of a hose at rest shuts the station down, seen from the hose out of service (R15, R118). -/
theorem stuckBy_shutDown {s : State} {c : Instr} {h : HoseIx} (ht : s.tripped = false) (k : s.stuckBy h c)
    (hl : liveState (s.hoses.get h).state = false) (ho : ∀ f, (s.hoses.get h).state ≠ .outOfService f) :
    Takes c s (ShutDown (s.setHose h { s.hoses.get h with
      state := .outOfService .valveStuck, claimTimer := none, tagTimer := none, noFlow := none, lamp := true
      flash := some 0 })) := by
  have duty : ((s.signalled h).valves.get h).duty = 0 := by rw [signalled_valve]; exact k.2.1
  have frame := moveHose_frame h (.outOfService .valveStuck) (s.signalled h)
  have valve := moveHose_shutValve (s := s.signalled h) (h := h) (st := .outOfService .valveStuck) rfl (by simp) duty
  have hose : (s.hoses.get h).enter (.outOfService .valveStuck) = { s.hoses.get h with
      state := .outOfService .valveStuck, claimTimer := none, tagTimer := none, noFlow := none, lamp := true
      flash := some 0 } := by
    simp [Hose.enter, keepIf, liveState]
  have tripped : (moveHose h (.outOfService .valveStuck) (s.signalled h)).tripped = false :=
    (tripped_congr (frame .tripUnit (by decide))).trans ht
  refine ⟨_, (stuckBy_signals k ho).trans (congrArg _ (valveStuck_rest (s := s.signalled h) (atRest_of_notLive hl ho))),
    (raise_shutDown tripped).of_same (frame .unit (by decide)) (fun g => ?_) ?_ ?_ ?_⟩
  · by_cases e : g = h
    · subst e
      rw [valve]
      exact show ((s.signalled g).valves.get g).duty = _ by rw [signalled_valve]; rfl
    · rw [moveHose_valves, PerHose.get_set_ne _ _ e]
      exact congrArg Valve.duty (PerHose.get_set_ne s.valves _ e)
  · exact moveHose_pumps_rest (s := s.signalled h) (runState_of_notLive hl) rfl
  · rw [moveHose_hoses, ← hose]
    rfl
  · exact moveHose_meter_shut h (.outOfService .valveStuck) (s.signalled h) rfl duty

/-- Settles O41: a cause raised here, a peer's episode, and a stuck valve. -/
theorem enteringTrippedShutsTheStationDown : Obligations.EnteringTrippedShutsTheStationDown := by
  rintro s s1 c ht (⟨cause, k, calm⟩ | ⟨k, rfl⟩ | ⟨h, k, hl, ho, rfl⟩)
  · exact raises_shutDown ht k calm
  · exact bringsOrigin_shutDown ht k
  · exact stuckBy_shutDown ht k hl ho

end Sys2Proof.Machine
end

section
/-! SUPPORT. The trip unit's key, override and peers' episodes (O42 to O44). -/

namespace Sys2Proof.Machine

/-! ### The return to NORMAL (R13, R23, R121) -/

theorem zoneFollows_returns {s0 s : State} (h0 : s0.tripped = true) (h : s.tripped = false) :
    zoneFollows s0 s = returnNormal s := by
  simp [zoneFollows, h0, h]

theorem zoneFollows_stays {s0 s : State} (h : s.tripped = s0.tripped) : zoneFollows s0 s = s := by
  cases h0 : s0.tripped <;> simp [zoneFollows, h, h0]

theorem returnNormal_duty (s : State) (h : HoseIx) : ((returnNormal s).valves.get h).duty = s.dutyFor h := by
  have pumps (t : State) : sameOutside [.pumps] t (PumpIx.all.foldl (fun s p => resumePump p s) t) :=
    .foldl (fun p s => resumePump_frame p s) _ _
  rw [show (returnNormal s).valves = (refreshValves s).valves from pumps _ .valves (by decide)]
  exact (refreshValves_fold HoseIx.all s h).2.2 (.inl (HoseIx.mem_all h))

theorem returnNormal_steady (s : State) : (returnNormal s).steady = s.steady := by
  unfold returnNormal
  rw [steady_foldl (fun s p => steady_of_meters (resumePump_frame p s .meters (by decide)))]
  exact steady_foldl (fun s h => refreshValve_steady h s) _ s

theorem resumePump_others {p q : PumpIx} {s : State} (h : (s.pumps.get q).state ≠ .off) :
    (resumePump p s).pumps.get q = s.pumps.get q := by
  unfold resumePump
  split
  · next k =>
    have e : q ≠ p := fun e => h (e ▸ k.1)
    simp [startPump, e]
  · rfl

theorem resumePumps_others {q : PumpIx} : ∀ (l : List PumpIx) (s : State), (s.pumps.get q).state ≠ .off →
    (l.foldl (fun s p => resumePump p s) s).pumps.get q = s.pumps.get q
  | [], _, _ => rfl
  | p :: l, s, h => by
    have e := resumePump_others (p := p) h
    rw [List.foldl_cons, resumePumps_others l _ (by rw [e]; exact h), e]

/-- A pump that is not OFF is left at the return to NORMAL (R23). -/
theorem returnNormal_pump {s : State} {q : PumpIx} (h : (s.pumps.get q).state ≠ .off) :
    (returnNormal s).pumps.get q = s.pumps.get q := by
  have pumps : (refreshValves s).pumps = s.pumps := refreshValves_frame s .pumps (by decide)
  unfold returnNormal
  rw [resumePumps_others PumpIx.all _ (by rw [pumps]; exact h), pumps]

/-! ### The override (O43) -/

theorem overridable_eq (s : State) (o : Origin) : (!s.overridable o) = s.heardFrom o.address := by
  unfold State.overridable State.liveness State.heardFrom
  cases s.peers.find? fun p => p.address == o.address with
  | none => rfl
  | some p => cases hp : p.state <;> simp [hp]

/-- Settles O43: before the hold time, and at it. -/
theorem overrideRemovesLostOrigins : Obligations.OverrideRemovesLostOrigins := by
  refine ⟨fun s hp he => exec_powered hp rfl (if_neg (Bool.eq_false_iff.mp (ranOut_eq_false.mpr he))), fun s n hp hn hlim => ?_⟩
  · generalize hs1 : s.setTripUnit { s.tripUnit with overrideTimer := none } = s1
    have frame : sameOutside [.tripUnit] s s1 := by rw [← hs1]; exact setTripUnit_frame _ _
    have taken : exec .overrideHoldExpiry s = .next (withZone (dropOrigins s1.overridable) s1) :=
      exec_powered hp rfl ((if_pos (ranOut_eq_true.mpr ⟨n, hn, hlim⟩)).trans (by rw [hs1]))
    have tripped : s1.tripped = s.tripped := by rw [← hs1]; rfl
    have heard (o : Origin) : (!s1.overridable o) = s.heardFrom o.address := by rw [overridable_eq, ← hs1]; rfl
    obtain ⟨record, still, moves⟩ := withZone_dropOrigins (s := s1) s1.overridable rfl
    refine ⟨_, taken, ?_, fun h0 h1 h => ?_, fun h => frame.trans (still (h.trans tripped.symm)),
      frame.then moves rfl rfl⟩
    · rw [record]
      simp only [heard]
      rw [← hs1]
      rfl
    · have zone : (dropOrigins s1.overridable s1).tripped = false :=
        (tripped_congr (zoneFollows_frame s1 _ .tripUnit (by decide))).symm.trans h1
      have duty := returnNormal_duty (dropOrigins s1.overridable s1) h
      unfold withZone
      rw [zoneFollows_returns (tripped.trans h0) zone, duty]
      unfold State.dutyFor
      rw [zone, Bool.false_or, ← hs1]
      rfl

/-! ### Peers' episodes (O44) -/

/-- Settles O44: episodes entered, cleared, and of another zone. -/
theorem peerEpisodesMoveTheOriginList : Obligations.PeerEpisodesMoveTheOriginList := by
  refine ⟨fun s e rest => ⟨fun b ho hb => ⟨fun hz => ?_, fun hz => ?_⟩, fun b ho hb hz hs => ?_⟩,
    fun s e rest => ⟨fun b ho hb => ⟨fun hz => ?_, fun hz => ?_⟩, fun b ho hb hz => ?_⟩⟩
  · exact (exec_trip ho hb).trans (congrArg _ (if_neg hz))
  · exact ⟨_, (exec_trip ho hb).trans (congrArg _ (if_pos hz)), withZone_enterOrigin _ rfl rfl rfl⟩
  · exact ⟨_, (exec_beacon ho hb).trans (congrArg _ (if_pos ⟨hz, hs⟩)), withZone_enterOrigin _ rfl rfl rfl⟩
  · exact (exec_clear ho hb).trans (congrArg _ (if_neg hz))
  · exact ⟨_, (exec_clear ho hb).trans (congrArg _ (if_pos hz)), withZone_dropOrigins _ rfl⟩
  · exact ⟨_, (exec_beacon ho hb).trans (congrArg _ (if_neg fun k => by
      rcases hz with hz | hz
      · exact hz k.1
      · omega)), withZone_dropOrigins _ rfl⟩

/-! ### A hose at a key operation (O42) -/

/-- A key operation returns the hose to service: it is OUT_OF_SERVICE and at rest (R53). -/
def State.serviceable (s : State) (h : HoseIx) : Prop := (∃ f, (s.hoses.get h).state = .outOfService f) ∧ s.atRest h

theorem atRest_iff {s : State} {h : HoseIx} : s.atRest h ↔ (s.valves.get h).closed ∧ s.quietForSettle h = true :=
  and_congr_right fun _ => decide_eq_true_iff.symm

theorem returnToService_not {s : State} {h : HoseIx} (k : ¬s.serviceable h) : returnToService h s = s := by
  unfold returnToService
  split
  · next f e => exact if_neg fun a => k ⟨⟨f, e⟩, atRest_iff.mpr a⟩
  · rfl

theorem returnToService_serves {s : State} {h : HoseIx} (k : s.serviceable h) : returnToService h s
    = moveHose h (startState s.inConfigFault (s.hoses.get h).hook)
        (s.setMeter h { s.meters.get h with phaseErrors := 0 }) := by
  obtain ⟨⟨f, e⟩, a⟩ := k
  unfold returnToService
  rw [e]
  exact if_pos (atRest_iff.mp a)

theorem serviceable_congr {s t : State} {h : HoseIx} (k : SameHose h s t) (hu : t.unit = s.unit) :
    t.serviceable h ↔ s.serviceable h := by
  unfold State.serviceable State.atRest State.cfg
  rw [k.1, k.2.1, k.2.2, hu]

theorem returnToService_others {h g : HoseIx} (s : State) (hg : g ≠ h) : SameHose g s (returnToService h s) := by
  by_cases k : s.serviceable h
  · rw [returnToService_serves k]
    have set : SameHose g s (s.setMeter h { s.meters.get h with phaseErrors := 0 }) :=
      ⟨rfl, PerHose.get_set_ne _ _ hg, rfl⟩
    exact set.trans (moveHose_others _ _ hg)
  · rw [returnToService_not k]
    exact .refl _ _

theorem returnToService_rate (h g : HoseIx) (s : State) :
    ((returnToService h s).meters.get g).rate = (s.meters.get g).rate := by
  by_cases k : s.serviceable h
  · rw [returnToService_serves k]
    have set : ((s.setMeter h { s.meters.get h with phaseErrors := 0 }).meters.get g).rate = (s.meters.get g).rate := by
      by_cases e : g = h <;> simp [e]
    rcases moveHose_meter h _ (s.setMeter h { s.meters.get h with phaseErrors := 0 }) g with e | e <;> rw [e, set]
  · rw [returnToService_not k]

theorem startState_notRun (b : Bool) (x : Option Hook) : runState (startState b x) = false := by
  unfold startState
  split
  · rfl
  · split <;> rfl

/-- A hose back in service draws nothing, so no pump follows (R18 to R20). -/
theorem returnToService_pumps (h : HoseIx) (s : State) : (returnToService h s).pumps = s.pumps := by
  by_cases k : s.serviceable h
  · obtain ⟨f, e⟩ := k.1
    rw [returnToService_serves k]
    exact moveHose_pumps_rest (s := s.setMeter h _) (by simp [e, runState]) (startState_notRun _ _)
  · rw [returnToService_not k]

/-- The hoses once a key operation has passed over them (R53). -/
def serveAll (s : State) : State := HoseIx.all.foldl (fun s h => returnToService h s) s

theorem serveAll_frame (s : State) : sameOutside moving s (serveAll s) :=
  .foldl (fun h s => returnToService_frame h s) _ _

theorem serveAll_pumps (s : State) : (serveAll s).pumps = s.pumps := by
  unfold serveAll
  induction HoseIx.all generalizing s with
  | nil => rfl
  | cons h l ih => rw [List.foldl_cons, ih, returnToService_pumps]

theorem serveAll_rate (g : HoseIx) (s : State) : ((serveAll s).meters.get g).rate = (s.meters.get g).rate := by
  unfold serveAll
  induction HoseIx.all generalizing s with
  | nil => rfl
  | cons h l ih => rw [List.foldl_cons, ih, returnToService_rate]

/-- One hose after that pass: as it alone would be. -/
theorem serveAll_at (s : State) (h : HoseIx) : (s.serviceable h →
      ((serveAll s).hoses.get h).state = startState s.inConfigFault (s.hoses.get h).hook
        ∧ ((serveAll s).meters.get h).phaseErrors = 0)
    ∧ (¬s.serviceable h → SameHose h s (serveAll s)) := by
  obtain ⟨s', k1, k2, k3⟩ := foldHoses_at (F := returnToService) (h := h) (fun a g s hg => returnToService_others s hg)
    (fun a s => returnToService_frame a s) HoseIx.all s HoseIx.nodup_all (HoseIx.mem_all h)
  have same := serviceable_congr k1 (k2 .unit (by decide))
  refine ⟨fun k => ?_, fun k => ?_⟩
  · rw [returnToService_serves (same.mpr k)] at k3
    have hose : (serveAll s).hoses.get h = _ := k3.1
    have meter : (serveAll s).meters.get h = _ := k3.2.1
    rw [hose, meter, moveHose_hose, if_pos rfl, k1.1, inConfigFault_congr (k2.join (by decide))]
    refine ⟨rfl, ?_⟩
    rcases moveHose_meter h (startState s.inConfigFault (s.hoses.get h).hook)
      (s'.setMeter h { s'.meters.get h with phaseErrors := 0 }) h with e | e <;> rw [e] <;> simp
  · rw [returnToService_not fun a => k (same.mp a)] at k3
    exact k1.trans k3

theorem startState_eq (b : Bool) (x : Option Hook) :
    startState b x = if b then .refused .config else if x = some .offHook then .refused .notHung else .idle := by
  unfold startState
  rcases x with - | - | - <;> rfl

/-! ### A pump at a key operation -/

/-- A pump after a key operation: FAULTED, it cools down (R24). -/
def Pump.reset (p : Pump) : Pump := if p.state = .faulted then { p with state := .cooldown, timer := some 0 } else p

theorem resetPump_pump (p q : PumpIx) (s : State) :
    (resetPump p s).pumps.get q = if q = p then (s.pumps.get q).reset else s.pumps.get q := by
  unfold resetPump Pump.reset
  by_cases e : q = p
  · subst e
    split <;> simp [coolPump]
  · split <;> simp [coolPump, e]

theorem Pump.reset_reset (p : Pump) : p.reset.reset = p.reset := by
  unfold Pump.reset
  split <;> simp_all

theorem resetPumps_pump {q : PumpIx} : ∀ (l : List PumpIx) (s : State),
    (l.foldl (fun s p => resetPump p s) s).pumps.get q = if q ∈ l then (s.pumps.get q).reset else s.pumps.get q
  | [], s => by simp
  | p :: l, s => by
    rw [List.foldl_cons, resetPumps_pump l, resetPump_pump]
    by_cases e : q = p <;> by_cases m : q ∈ l <;> simp [e, m, Pump.reset_reset]

/-- The pumps once a key operation has passed over them. -/
def resetAll (s : State) : State := PumpIx.all.foldl (fun s p => resetPump p s) s

theorem resetAll_frame (s : State) : sameOutside [.pumps] s (resetAll s) :=
  .foldl (fun p s => resetPump_frame p s) _ _

theorem resetAll_pump (s : State) (q : PumpIx) : (resetAll s).pumps.get q = (s.pumps.get q).reset := by
  unfold resetAll
  rw [resetPumps_pump, if_pos (PumpIx.mem_all q)]

/-! ### The causes at a key operation (R130, R131) -/

/-- The causes whose condition is gone removed, and the creep accumulators cleared (R130). -/
def cleared (s : State) : State := clearCreep (s.setTripUnit { s.tripUnit with causes := s.causesKept })

theorem cleared_record (s : State) : (cleared s).tripUnit = { s.tripUnit with causes := s.causesKept } := rfl

theorem removeCauses_eq (s : State) : removeCauses s
    = if s.tripUnit.causes.zoneWide.any && !s.causesKept.zoneWide.any then endEpisode (cleared s) else cleared s := rfl

theorem causesKept_has (s : State) (c : Cause) :
    s.causesKept.has c = (s.tripUnit.causes.has c && s.conditionPresent c) := by
  cases c <;> rfl

/-- The episode's end: no stamp, and a CLEAR where it was announced (R123, R131, R136). -/
theorem endEpisode_ends {s : State} {stamp : Nat} (h : s.tripUnit.episode = some stamp) :
    endEpisode s = if s.tripUnit.announced = true ∧ s.inConfigFault = false
      then handReserved (s.clearFrame stamp) (s.setTripUnit { s.tripUnit with episode := none, announced := false })
      else s.setTripUnit { s.tripUnit with episode := none, announced := false } := by
  unfold endEpisode handOver
  simp only [h]
  have calm (t : TripUnit) : (s.setTripUnit t).inConfigFault = s.inConfigFault := rfl
  rw [calm]
  cases s.tripUnit.announced <;> cases s.inConfigFault <;> rfl

theorem endEpisode_none {s : State} (h : s.tripUnit.episode = none) : endEpisode s = s := by
  unfold endEpisode
  rw [h]

theorem endEpisode_queue_frame (s : State) : sameOutside [.tripUnit, .queue] s (endEpisode s) := by
  cases h : s.tripUnit.episode with
  | none => rw [endEpisode_none h]; exact .refl _ _
  | some stamp =>
    rw [endEpisode_ends h]
    exact .ite ((setTripUnit_frame s _).then (handReserved_frame _ _) rfl rfl) ((setTripUnit_frame s _).mono rfl)

theorem endEpisode_record (s : State) : (endEpisode s).tripUnit = { s.tripUnit with
    episode := none, announced := s.tripUnit.announced && s.tripUnit.episode.isNone } := by
  cases h : s.tripUnit.episode with
  | none =>
    simp only [endEpisode_none h, Option.isNone_none, Bool.and_true]
    rw [← h]
  | some stamp =>
    rw [endEpisode_ends h]
    split
    · rw [handReserved_frame _ _ .tripUnit (by decide)]; simp
    · simp

theorem cleared_frame (s : State) : sameOutside [.tripUnit, .meters] s (cleared s) :=
  (setTripUnit_frame s _).then (clearCreep_frame _) rfl rfl

theorem removeCauses_queue_frame (s : State) : sameOutside [.tripUnit, .queue, .meters] s (removeCauses s) := by
  rw [removeCauses_eq]
  exact .ite ((cleared_frame s).then (endEpisode_queue_frame _) rfl rfl) ((cleared_frame s).mono rfl)

theorem removeCauses_meters (s : State) : (removeCauses s).meters = s.meters.map fun m => { m with creep := 0 } := by
  rw [removeCauses_eq]
  split
  · exact endEpisode_queue_frame _ .meters (by decide)
  · rfl

theorem removeCauses_causes (s : State) : (removeCauses s).tripUnit.causes = s.causesKept := by
  rw [removeCauses_eq]
  split
  · rw [endEpisode_record]; rfl
  · rfl

theorem removeCauses_record (s : State) : (removeCauses s).tripUnit = { s.tripUnit with
    causes := s.causesKept
    episode := (removeCauses s).tripUnit.episode, announced := (removeCauses s).tripUnit.announced } := by
  rw [removeCauses_eq]
  split
  · rw [endEpisode_record]; rfl
  · rfl

theorem CauseSet.any_iff (x : CauseSet) : x.any = true ↔ ∃ c, x.has c = true := by
  refine ⟨fun h => ?_, fun ⟨c, h⟩ => CauseSet.any_of_has h⟩
  simp only [CauseSet.any, Bool.or_eq_true, or_assoc] at h
  rcases h with h | h | h | h | h | h | h | h
  exacts [⟨.sump, h⟩, ⟨.vapour, h⟩, ⟨.estop, h⟩, ⟨.overfill, h⟩, ⟨.hoseBreak, h⟩, ⟨.creep, h⟩, ⟨.powerUp, h⟩,
    ⟨.valveStuck, h⟩]

/-- The removal of causes trips no zone. -/
theorem removeCauses_tripped {s : State} (h : (removeCauses s).tripped = true) : s.tripped = true := by
  unfold State.tripped at h ⊢
  rw [removeCauses_record] at h
  simp only [Bool.or_eq_true, CauseSet.any_iff] at h ⊢
  refine h.imp (fun ⟨c, hc⟩ => ⟨c, ?_⟩) id
  rw [causesKept_has, Bool.and_eq_true] at hc
  exact hc.1

theorem withZone_removeCauses (s : State) :
    withZone removeCauses s = removeCauses s ∨ withZone removeCauses s = returnNormal (removeCauses s) := by
  unfold withZone
  cases h : (removeCauses s).tripped with
  | true => exact .inl (zoneFollows_stays (h.trans (removeCauses_tripped h).symm))
  | false =>
    cases h0 : s.tripped with
    | true => exact .inr (zoneFollows_returns h0 h)
    | false => exact .inl (zoneFollows_stays (h.trans h0.symm))

/-- What the removal of causes and a return to NORMAL change (R121, R130, R131). -/
theorem withZone_removeCauses_at (s : State) :
    (withZone removeCauses s).tripUnit = (removeCauses s).tripUnit
      ∧ (withZone removeCauses s).link = (removeCauses s).link
      ∧ (withZone removeCauses s).steady = (removeCauses s).steady
      ∧ (∀ q, (s.pumps.get q).state ≠ .off → (withZone removeCauses s).pumps.get q = s.pumps.get q)
      ∧ sameOutside [.tripUnit, .queue, .meters, .valves, .pumps] s (withZone removeCauses s) := by
  have frame := removeCauses_queue_frame s
  have pumps : (removeCauses s).pumps = s.pumps := frame .pumps (by decide)
  rcases withZone_removeCauses s with e | e <;> rw [e]
  · exact ⟨rfl, rfl, rfl, fun q _ => by rw [pumps], frame.mono rfl⟩
  · have normal := returnNormal_frame (removeCauses s)
    exact ⟨normal .tripUnit (by decide), normal.link (by decide) (by decide), returnNormal_steady _,
      fun q hq => by rw [returnNormal_pump (by rw [pumps]; exact hq), pumps], frame.then normal rfl rfl⟩

/-! ### The key operation (O42) -/

theorem anyNotAtRest_iff {s : State} {f : SpillFunction} : s.anyNotAtRest f = true
    ↔ ∃ i, (s.cfg.spill.get i).function = f ∧ s.tripUnit.inputs.get i ≠ .atRest := by
  simp [State.anyNotAtRest, InputIx.mem_all]

/-- The station with its hoses and pumps passed over, the causes still to be removed (R129). -/
def State.keyed (s : State) : State := resetAll (serveAll (s.setTripUnit { s.tripUnit with keySwitch := .reset }))

theorem keyed_frame (s : State) : sameOutside (.tripUnit :: moving) s s.keyed := by
  have served : sameOutside (.tripUnit :: moving) s (serveAll (s.setTripUnit { s.tripUnit with keySwitch := .reset })) :=
    (setTripUnit_frame s _).then (serveAll_frame _) rfl rfl
  exact served.then (resetAll_frame _) rfl rfl

theorem keyed_record (s : State) : s.keyed.tripUnit = { s.tripUnit with keySwitch := .reset } := by
  unfold State.keyed
  rw [resetAll_frame _ .tripUnit (by decide), serveAll_frame _ .tripUnit (by decide)]
  rfl

theorem keyed_pump (s : State) (q : PumpIx) : s.keyed.pumps.get q = (s.pumps.get q).reset := by
  unfold State.keyed
  rw [resetAll_pump, serveAll_pumps]
  rfl

theorem keyed_rate (s : State) (h : HoseIx) : (s.keyed.meters.get h).rate = (s.meters.get h).rate := by
  unfold State.keyed
  rw [resetAll_frame _ .meters (by decide), serveAll_rate]
  rfl

theorem keyed_hose (s : State) (h : HoseIx) : (s.serviceable h →
      (s.keyed.hoses.get h).state = startState s.inConfigFault (s.hoses.get h).hook
        ∧ (s.keyed.meters.get h).phaseErrors = 0)
    ∧ (¬s.serviceable h → s.keyed.hoses.get h = s.hoses.get h) := by
  obtain ⟨served, left⟩ := serveAll_at (s.setTripUnit { s.tripUnit with keySwitch := .reset }) h
  unfold State.keyed
  rw [resetAll_frame _ .hoses (by decide), resetAll_frame _ .meters (by decide)]
  exact ⟨served, fun k => (left k).1⟩

/-- A hose still stands out of service with a stuck valve where it did and was not at rest (R53, R130). -/
theorem keyed_stuck (s : State) (h : HoseIx) : (s.keyed.hoses.get h).state = .outOfService .valveStuck
    ↔ (s.hoses.get h).state = .outOfService .valveStuck ∧ ¬s.atRest h := by
  obtain ⟨served, left⟩ := keyed_hose s h
  by_cases k : s.serviceable h
  · rw [(served k).1, startState_eq]
    refine iff_of_false ?_ fun n => n.2 k.2
    split
    · simp
    · split <;> simp
  · rw [left k]
    exact ⟨fun e => ⟨e, fun a => k ⟨⟨_, e⟩, a⟩⟩, And.left⟩

theorem conditionPresent_keyed (s : State) (c : Cause) : s.keyed.conditionPresent c = true ↔ s.stillPresent c := by
  have cfg : s.keyed.cfg = s.cfg := congrArg StartUnit.settings (keyed_frame s .unit (by decide))
  have record := keyed_record s
  have probes : s.keyed.probes = s.probes := keyed_frame s .probes (by decide)
  cases c with
  | sump => exact anyNotAtRest_iff.trans (by rw [cfg, record]; rfl)
  | vapour => exact anyNotAtRest_iff.trans (by rw [cfg, record]; rfl)
  | estop => simp [State.conditionPresent, State.stillPresent, record]
  | overfill =>
    simp [State.conditionPresent, State.stillPresent, ProbeIx.mem_all, State.probeUsed, cfg, probes]
  | hoseBreak =>
    simp [State.conditionPresent, State.stillPresent, HoseIx.mem_all, overspeed, State.hoseCfg, cfg, keyed_rate]
  | creep => simp [State.conditionPresent, State.stillPresent]
  | powerUp => simp [State.conditionPresent, State.stillPresent]
  | valveStuck =>
    simp [State.conditionPresent, State.stillPresent, HoseIx.mem_all, keyed_stuck]

/-- The override hold timer started (R129). -/
def holdStarted (s : State) : State := s.setTripUnit { s.tripUnit with overrideTimer := some 0 }

theorem keyOperation_eq (s : State) : keyOperation s = holdStarted (withZone removeCauses (resetAll (serveAll s))) := by
  unfold keyOperation holdStarted serveAll resetAll
  rfl

/-- A key operation: the pass over hoses and pumps, the causes removed, and the override hold timer (R129). -/
theorem exec_keyTurned {s : State} {c : Instr} (k : s.keyTurned c) :
    exec c s = .next (holdStarted (withZone removeCauses s.keyed)) := by
  obtain ⟨hp, hk, n, rfl, hn⟩ := k
  refine exec_powered hp rfl ((if_neg (Nat.not_lt.mpr hn)).trans ?_)
  unfold takeReset State.keyed
  simp only [hk]
  exact keyOperation_eq _

theorem map_creep_get (m : PerHose Meter) (h : HoseIx) :
    (m.map fun m : Meter => { m with creep := 0 }).get h = { m.get h with creep := 0 } := PerHose.get_map _ _ _

/-- Settles O42: the hoses and pumps, then the causes and the episode. -/
theorem keyOperationResetsTheStation : Obligations.KeyOperationResetsTheStation := by
  refine ⟨fun s c k => ⟨_, exec_keyTurned k, ?_⟩, fun s c k => ⟨_, exec_keyTurned k, ?_⟩⟩ <;> unfold holdStarted
  · obtain ⟨record, -, steady, pump, frame⟩ := withZone_removeCauses_at s.keyed
    have moved := keyed_frame s
    have hoses : (withZone removeCauses s.keyed).hoses = s.keyed.hoses := frame .hoses (by decide)
    have reset (q : PumpIx) := keyed_pump s q
    have whole : sameOutside (.tripUnit :: .queue :: moving) s (withZone removeCauses s.keyed) := moved.then frame rfl rfl
    rw [State.setTripUnit_hoses, State.setTripUnit_meters, State.setTripUnit_pumps, State.setTripUnit_tripUnit, hoses]
    refine ⟨fun h ho ha => ?_, fun h hn => (keyed_hose s h).2 fun a => ?_, fun p hp => ?_, fun p hp ho => ?_, ?_, rfl,
      whole.trans ((setTripUnit_frame _ _).mono rfl)⟩
    · obtain ⟨state, errors⟩ := (keyed_hose s h).1 ⟨ho, ha⟩
      refine ⟨state.trans (startState_eq _ _), ?_⟩
      rw [meter_of_steady steady h, removeCauses_meters, map_creep_get]
      exact errors
    · rcases hn with hn | hn
      · obtain ⟨f, e⟩ := a.1
        exact hn f e
      · exact hn a.2
    · have cooled : (s.keyed.pumps.get p) = { s.pumps.get p with state := .cooldown, timer := some 0 } := by
        rw [reset, Pump.reset, if_pos hp]
      rw [pump p (by rw [cooled]; simp), cooled]
    · have same : s.keyed.pumps.get p = s.pumps.get p := by rw [reset, Pump.reset, if_neg hp]
      rw [pump p (by rw [same]; exact ho), same]
    · rw [record, removeCauses_record, keyed_record]
  · obtain ⟨record, link, steady, -, -⟩ := withZone_removeCauses_at s.keyed
    have kept := removeCauses_record s.keyed
    have before := keyed_record s
    have moved := keyed_frame s
    have present := conditionPresent_keyed s
    generalize s.keyed = w at *
    rw [State.setTripUnit_tripUnit, State.setTripUnit_meters, State.setTripUnit_link, record, link]
    refine ⟨fun x => ?_, ?_, ?_, fun h => ?_, fun hz => ?_, fun h0 h1 stamp hs => ?_⟩
    · dsimp only
      rw [removeCauses_causes, causesKept_has, Bool.and_eq_true, present, before]
    · rw [kept, before]
    · rw [kept, before]
    · rw [meter_of_steady steady h, removeCauses_meters, map_creep_get]
    · dsimp only at hz ⊢
      rw [removeCauses_causes] at hz
      rw [removeCauses_eq, if_neg (by simp [hz])]
      rw [cleared_record, before]
      exact ⟨rfl, rfl⟩
    · dsimp only at h1 ⊢
      rw [removeCauses_causes] at h1
      have wide : w.tripUnit.causes.zoneWide.any = true := by rw [before]; exact h0
      have episode : (cleared w).tripUnit.episode = some stamp := by rw [cleared_record, before]; exact hs
      have announced : (cleared w).tripUnit.announced = s.tripUnit.announced := by rw [cleared_record, before]
      have fault : (cleared w).inConfigFault = s.inConfigFault :=
        inConfigFault_congr (((cleared_frame _).join (by decide)).trans (moved.join (by decide)))
      have line : w.link = s.link := moved.link (by decide) (by decide)
      have unit : w.unit = s.unit := moved .unit (by decide)
      rw [removeCauses_eq, if_pos (by simp [wide, h1]), endEpisode_ends episode, announced, fault]
      refine ⟨?_, ?_, fun ha => ?_, fun z ha hf hz empty => ?_⟩
      · split
        · rw [handReserved_frame _ _ .tripUnit (by decide)]; rfl
        · rfl
      · split
        · rw [handReserved_frame _ _ .tripUnit (by decide)]; rfl
        · rfl
      · rw [if_neg (by simp [ha])]
        exact line
      · rw [if_pos ⟨ha, hf⟩]
        refine (handReserved_empty (by exact (congrArg Link.reserved line).trans empty)).trans ?_
        have zone : (cleared w).zoneByte = oneByte z := by
          unfold State.zoneByte State.cfg
          rw [cleared_frame _ .unit (by decide), unit, show s.unit.settings.zone = some z from hz]
          rfl
        unfold State.clearFrame
        rw [zone]
        exact congrArg (fun e => [e]) (entryOf_congr (s := s) (by exact unit) _)

end Sys2Proof.Machine
end

section
/-! SUPPORT. Peers (O45, O46): the peer table's entries, their timers, and the station's BEACON. -/

namespace Sys2Proof.Machine

/-! ### Entries of the peer table (R192, R195) -/

theorem insertPeer_perm (p : Peer) : ∀ l : List Peer, (insertPeer p l).Perm (p :: l)
  | [] => .refl _
  | q :: l => by
    unfold insertPeer
    split
    · exact .refl _
    · exact ((insertPeer_perm p l).cons q).trans (.swap p q l)

/-- A new entry stands in the place of its address (R192). -/
theorem insertPeer_place {p : Peer} : ∀ {l : List Peer}, (l.Pairwise fun a b => a.address < b.address) →
    (∀ q ∈ l, q.address ≠ p.address) →
    insertPeer p l = (l.filter fun q => q.address < p.address) ++ p :: l.filter fun q => p.address < q.address
  | [], _, _ => rfl
  | q :: l, ho, hn => by
    obtain ⟨hq, ho'⟩ := List.pairwise_cons.mp ho
    have other := hn q (List.mem_cons_self ..)
    unfold insertPeer
    by_cases h : p.address < q.address
    · have below : (l.filter fun x => decide (x.address < p.address)) = [] :=
        List.filter_eq_nil_iff.mpr fun x hx => by have := hq x hx; simp; omega
      have above : (l.filter fun x => decide (p.address < x.address)) = l :=
        List.filter_eq_self.mpr fun x hx => by have := hq x hx; simp; omega
      have later : ¬q.address < p.address := by omega
      simp [h, later, below, above]
    · have earlier : q.address < p.address := by omega
      rw [if_neg h, insertPeer_place ho' fun x hx => hn x (List.mem_cons_of_mem _ hx)]
      simp [h, earlier]

/-- An entry comes before another in the choice of the LOST entry that is replaced (R195). -/
def Peer.before (q p : Peer) : Prop := q.lastHeard < p.lastHeard ∨ q.lastHeard = p.lastHeard ∧ q.address ≤ p.address

theorem oldestLost_lost {p : Peer} {l : List Peer} (h : p.state = .lost) : oldestLost (p :: l)
    = match oldestLost l with
      | some q => if p.lastHeard ≤ q.lastHeard then some p else some q
      | none => some p := by
  rw [oldestLost, h]
  cases oldestLost l <;> rfl

theorem oldestLost_other {p : Peer} {l : List Peer} (h : p.state ≠ .lost) : oldestLost (p :: l) = oldestLost l := by
  rw [oldestLost]
  cases hs : p.state <;> first | exact absurd hs h | rfl

/-- A table without a LOST entry gives none; else the entry found is LOST and comes before every LOST one (R195). -/
theorem oldestLost_cases : ∀ {l : List Peer}, (l.Pairwise fun a b => a.address < b.address) →
    (oldestLost l = none ∧ ∀ p ∈ l, p.state ≠ .lost)
      ∨ ∃ r ∈ l, oldestLost l = some r ∧ r.state = .lost ∧ ∀ p ∈ l, p.state = .lost → r.before p
  | [], _ => .inl ⟨rfl, fun _ h => by cases h⟩
  | p :: l, ho => by
    obtain ⟨hp, ho'⟩ := List.pairwise_cons.mp ho
    by_cases lost : p.state = .lost
    · right
      rw [oldestLost_lost lost]
      rcases oldestLost_cases ho' with ⟨e, none⟩ | ⟨r, hr, e, hl, first⟩ <;> rw [e]
      · refine ⟨p, List.mem_cons_self .., rfl, lost, fun x hx hl => ?_⟩
        rcases List.mem_cons.mp hx with rfl | hx
        · exact .inr ⟨rfl, le_refl _⟩
        · exact absurd hl (none x hx)
      · have above := hp r hr
        by_cases le : p.lastHeard ≤ r.lastHeard
        · refine ⟨p, List.mem_cons_self .., if_pos le, lost, fun x hx hl => ?_⟩
          rcases List.mem_cons.mp hx with rfl | hx
          · exact .inr ⟨rfl, le_refl _⟩
          · have least := first x hx hl
            have := hp x hx
            unfold Peer.before at least ⊢
            omega
        · refine ⟨r, List.mem_cons_of_mem _ hr, if_neg le, hl, fun x hx hl => ?_⟩
          rcases List.mem_cons.mp hx with rfl | hx
          · exact .inl (not_le.mp le)
          · exact first x hx hl
    · rw [oldestLost_other lost]
      rcases oldestLost_cases ho' with ⟨e, none⟩ | ⟨r, hr, e, hl, first⟩
      · exact .inl ⟨e, List.forall_mem_cons.mpr ⟨lost, none⟩⟩
      · exact .inr ⟨r, List.mem_cons_of_mem _ hr, e, hl, List.forall_mem_cons.mpr ⟨fun k => absurd k lost, first⟩⟩

theorem oldestLost_none : ∀ {l : List Peer}, (∀ p ∈ l, p.state ≠ .lost) → oldestLost l = none
  | [], _ => rfl
  | p :: l, h => by
    obtain ⟨head, rest⟩ := List.forall_mem_cons.mp h
    rw [oldestLost_other head, oldestLost_none rest]

/-- The LOST entry that comes before every LOST one is the one replaced. -/
theorem oldestLost_eq {l : List Peer} {q : Peer} (ho : l.Pairwise fun a b => a.address < b.address) (hq : q ∈ l)
    (lost : q.state = .lost) (first : ∀ p ∈ l, p.state = .lost → q.before p) : oldestLost l = some q := by
  rcases oldestLost_cases ho with ⟨-, none⟩ | ⟨r, hr, e, hl, before⟩
  · exact absurd lost (none q hq)
  · have qr := first r hr hl
    have rq := before q hq lost
    have same : q.address = r.address := by
      unfold Peer.before at qr rq
      omega
    have distinct : (l.map Peer.address).Nodup := List.pairwise_map.mpr (ho.imp fun h => Nat.ne_of_lt h)
    rw [e, List.inj_on_of_nodup_map distinct hq hr same]

/-! ### A frame heard (O45) -/

theorem hear_eq (p : Peer) (now : Nat) (b : Option BeaconBody) : p.hear now b = { p with
    lastHeard := now, state := .heard, quietTimer := some 0, lostTimer := some 0
    interval := (b.map fun b => b.interval).getD p.interval, tanks := (b.map fun b => b.tanks).getD p.tanks } := by
  cases b <;> rfl

/-- Only reports of stations are offered to the peer table (R176). -/
theorem peerTable_kind {s : State} {k : FrameKind} {e : RxEntry} {rest : List RxEntry}
    (ho : s.offers k .peerTable e rest) : [FrameKind.beacon, .trip, .clear, .draw, .level].contains k = true := by
  obtain ⟨-, -, hk, hv, hm, -⟩ := ho
  have source := sourceOk_of_sound hk hv
  unfold ownersOf at hm
  split at hm
  · cases k <;> simp_all
  · have station : isStation e.frame.src = true := by
      by_contra h
      simp only [h, if_false, List.append_nil] at hm
      cases k <;> simp [mainOwners] at hm
    have office : isOffice e.frame.src = false := by
      simp only [isStation, within_eq_true] at station
      simp only [isOffice, within_eq_false]
      omega
    cases k <;> simp_all [sourceOk, familyOf]

theorem exec_peerTableUpdate {s : State} {k : FrameKind} {e : RxEntry} {rest : List RxEntry}
    (ho : s.offers k .peerTable e rest) :
    exec .peerTableUpdate s = .next (hearPeer e.frame (s.took k .peerTable e rest)) :=
  exec_offered ho rfl (peerTable_kind ho)

theorem beaconNews_eq {s : State} {k : FrameKind} {b : Block} {e : RxEntry} {rest : List RxEntry}
    {news : Option (Nat × List Nat)} (ho : s.offers k b e rest) (hn : k ≠ .beacon → news = none)
    (hb : k = .beacon → ∃ b, beaconBody e.frame.body = .sound b ∧ news = some (b.interval, b.tanks)) :
    (beaconNews e.frame).map (fun b => b.interval) = news.map Prod.fst
      ∧ (beaconNews e.frame).map (fun b => b.tanks) = news.map Prod.snd := by
  have kind : kindOfCode e.frame.kind = some k := ho.2.2.1
  unfold beaconNews
  rw [kind]
  by_cases h : k = .beacon
  · obtain ⟨b, body, rfl⟩ := hb h
    rw [if_pos (by rw [h]), body]
    exact ⟨rfl, rfl⟩
  · rw [hn h, if_neg fun he => h (Option.some.inj he)]
    exact ⟨rfl, rfl⟩

section
variable {f : Frame} {s : State}

theorem hearPeer_held (h : ∃ p ∈ s.peers, p.address = f.src) : hearPeer f s
    = s.setPeers (updatePeer f.src (fun p => p.hear s.unit.seconds (beaconNews f)) s.peers) := by
  obtain ⟨p, hp, ha⟩ := h
  exact if_pos (List.any_eq_true.mpr ⟨p, hp, by simp [ha]⟩)

theorem hearPeer_new (h : ∀ p ∈ s.peers, p.address ≠ f.src) (hl : s.peers.length < 32) : hearPeer f s
    = s.setPeers (insertPeer ((newPeer f.src s.cfg.beaconInterval).hear s.unit.seconds (beaconNews f)) s.peers) := by
  unfold hearPeer
  dsimp only
  rw [if_neg (by simpa using h)]
  exact if_pos hl

theorem hearPeer_full (h : ∀ p ∈ s.peers, p.address ≠ f.src) (hl : 32 ≤ s.peers.length) : hearPeer f s
    = match oldestLost s.peers with
      | some q => s.setPeers (insertPeer ((newPeer f.src s.cfg.beaconInterval).hear s.unit.seconds (beaconNews f))
          (removePeer q.address s.peers))
      | none => countPeerFull s := by
  unfold hearPeer
  dsimp only
  rw [if_neg (by simpa using h)]
  exact if_neg (not_lt.mpr hl)
end

/-- Settles O45: a peer held, a new one with room, one over the oldest LOST entry, and one that finds no place. -/
theorem soundFramesRefreshTheirPeer : Obligations.SoundFramesRefreshTheirPeer := by
  intro s k e rest news ho hn hb
  obtain ⟨interval, tanks⟩ := beaconNews_eq ho hn hb
  have taken := exec_peerTableUpdate ho
  refine ⟨fun held => ?_, fun absent fresh hf => ?_⟩
  · rw [taken, hearPeer_held (s := s.took k .peerTable e rest) held]
    refine congrArg (fun ps => Host.Outcome.next ((s.took k .peerTable e rest).setPeers ps)) (List.map_congr_left fun p _ => ?_)
    dsimp only
    rw [hear_eq, interval, tanks]
    rfl
  · have entry : (newPeer e.frame.src s.cfg.beaconInterval).hear s.unit.seconds (beaconNews e.frame) = fresh := by
      rw [hear_eq, interval, tanks, hf]
      rfl
    have other : ∀ q ∈ s.peers, q.address ≠ fresh.address := by rw [hf]; exact absent
    have address : fresh.address = e.frame.src := by rw [hf]
    refine ⟨fun hl => ?_, fun q hq hl hord lost first => ?_, fun hl none => ?_⟩
    · have room := hearPeer_new (s := s.took k .peerTable e rest) absent hl
      refine ⟨_, taken.trans (congrArg _ room), rfl, ?_, fun hord => ?_⟩ <;>
        rw [State.setPeers_peers, took_unit, took_cfg, took_peers, entry]
      · exact insertPeer_perm _ _
      · rw [insertPeer_place hord.2 other, address]
    · have full := hearPeer_full (s := s.took k .peerTable e rest) absent hl
      rw [took_peers, oldestLost_eq hord.2 hq lost first] at full
      refine ⟨_, taken.trans (congrArg _ full), rfl, ?_, ?_⟩ <;>
        rw [State.setPeers_peers, took_unit, took_cfg, entry]
      · exact insertPeer_perm _ _
      · unfold removePeer
        rw [insertPeer_place (hord.2.sublist List.filter_sublist) fun x hx => other x (List.mem_of_mem_filter hx),
          address, List.filter_filter, List.filter_filter]
        simp only [Bool.and_comm]
    · rw [taken, hearPeer_full (s := s.took k .peerTable e rest) absent hl, took_peers, oldestLost_none none]
      rfl

/-! ### The timers of peers and of the BEACON (O46) -/

theorem age_eq (b : Book) : b.age = if b.state = .current then { b with state := .aged, ageTimer := none } else b := rfl

theorem ageLostTanks_book (ts : List Nat) (s : State) (k : BookIx) : (ageLostTanks ts s).books.get k
    = if (s.cfg.books.get k).tank ∈ ts ∧ (s.cfg.books.get k).tank ≠ 0 ∧ s.probeOf (s.cfg.books.get k).tank = none
          ∧ (s.books.get k).state = .current
      then { s.books.get k with state := .aged, ageTimer := none } else s.books.get k := by
  refine (PerBook.get_ofIx _ _).trans ?_
  rw [age_eq]
  by_cases ht : (s.cfg.books.get k).tank ∈ ts ∧ (s.cfg.books.get k).tank ≠ 0
      ∧ s.probeOf (s.cfg.books.get k).tank = none
  · rw [if_pos (by simpa [and_assoc] using ht)]
    simp [ht]
  · rw [if_neg (by simpa [and_assoc] using ht), if_neg fun h => ht ⟨h.1, h.2.1, h.2.2.1⟩]

theorem takeFirst_eq_none {p : TxEntry → Bool} : ∀ {l : List TxEntry}, (∀ e ∈ l, p e = false) → takeFirst p l = none
  | [], _ => rfl
  | e :: l, h => by
    obtain ⟨head, rest⟩ := List.forall_mem_cons.mp h
    rw [takeFirst, if_neg (by simp [head]), takeFirst_eq_none rest]
    rfl

/-- A BEACON is taken in every join state; without one waiting it takes a free ordinary entry (R167, R173). -/
theorem handOver_beacon {s : State} {body : List Byte} (hn : ∀ e ∈ s.link.ordinary, e.kind ≠ .beacon)
    (hl : s.link.ordinary.length < 6) : handOver ⟨0, .beacon, body, .peerTable, .plain⟩ s
      = s.setLink { s.link with ordinary := s.link.ordinary ++ [s.entryOf ⟨0, .beacon, body, .peerTable, .plain⟩] } := by
  have none : takeFirst (fun e => e.kind == .beacon) s.link.ordinary = Option.none :=
    takeFirst_eq_none fun e he => by simpa using hn e he
  unfold handOver
  rw [if_neg (by simp [takenInConfigFault])]
  unfold handBeacon
  rw [none]
  exact if_pos hl

theorem sendBeacon_none {s : State} (h : s.beaconZone = none) : sendBeacon s = { s with beaconTimer := 0 } := by
  unfold sendBeacon
  rw [h]

theorem sendBeacon_some {s : State} {z : Nat} (h : s.beaconZone = some z) (hn : ∀ e ∈ s.link.ordinary, e.kind ≠ .beacon)
    (hl : s.link.ordinary.length < 6) : sendBeacon s = { s with
      beaconTimer := 0
      link := { s.link with ordinary := s.link.ordinary
        ++ [s.entryOf ⟨0, .beacon, s.beaconBytes z, .peerTable, .plain⟩] } } := by
  unfold sendBeacon
  rw [h]
  exact handOver_beacon (s := { s with beaconTimer := 0 }) hn hl

theorem beaconZone_none {s : State} (h : s.link.join = .listen ∨ s.link.join = .isolated
    ∨ s.link.join = .configFault ∧ (s.cfg.zone = none ∨ s.unit.strap = 0 ∨ 47 < s.unit.strap)) :
    s.beaconZone = none := by
  unfold State.beaconZone
  rcases h with h | h | ⟨h, hz⟩ <;> rw [h]
  dsimp only
  split
  · next valid =>
    simp only [strapValid, within_eq_true] at valid
    rcases hz with hz | hz | hz
    · exact hz
    · omega
    · omega
  · rfl

/-- Settles O46: the timers of a peer, then the station's own BEACON. -/
theorem peerAndBeaconTimersExpire : Obligations.PeerAndBeaconTimersExpire := by
  refine ⟨fun s a hp => ⟨?_, fun p n hpe hn => ⟨fun hlt => ?_, fun hle => ?_⟩, fun hpe => ?_⟩,
    fun s hp => ⟨fun hlt => ?_, fun hle => ⟨fun hj => ?_, fun z stamp hz hst hnone hl => ⟨fun hj => ?_, fun hj h1 h2 => ?_⟩⟩⟩⟩
  · refine exec_powered hp rfl (congrArg _ (List.map_congr_left fun p _ => ?_))
    unfold Peer.quiet quietComes ranOut secondsMs
    by_cases h : p.address = a <;> simp [h]
  · have early : ranOut p.lostTimer (secondsMs s.cfg.lostTimeout) = false := by
      rw [hn]; exact decide_eq_false (not_le.mpr hlt)
    refine exec_powered hp rfl ?_
    rw [hpe]
    exact if_neg (by simp [early])
  · have due : ranOut p.lostTimer (secondsMs s.cfg.lostTimeout) = true := ranOut_eq_true.mpr ⟨n, hn, hle⟩
    refine ⟨ageLostTanks p.tanks (s.setPeers (updatePeer a Peer.lose s.peers)), exec_powered hp rfl ?_, rfl, rfl,
      fun k => ageLostTanks_book _ _ k⟩
    rw [hpe]
    exact if_pos due
  · refine exec_powered hp rfl ?_
    rw [hpe]
  · exact exec_powered hp rfl (if_neg (Bool.eq_false_iff.mp (decide_eq_false (not_le.mpr hlt))))
  · exact exec_powered hp rfl ((if_pos (decide_eq_true hle)).trans (sendBeacon_none (beaconZone_none hj)))
  · have zone : s.beaconZone = some z := by simp [State.beaconZone, hj, hz]
    have fault : s.inConfigFault = false := by simp [State.inConfigFault, hj]
    refine exec_powered hp rfl ((if_pos (decide_eq_true hle)).trans
      ((sendBeacon_some zone hnone hl).trans ?_))
    have body : s.beaconBytes z = oneByte s.cfg.beaconInterval ++ oneByte z ++ oneByte 2
        ++ oneByte (2 * bitCode s.gauging.conflict + 4 * bitCode s.journal.full + 8 * bitCode s.accounts.rosterFull)
        ++ beBytes 2 (stamp.getD 0) ++ oneByte (if stamp.isSome then causeSetCode s.tripUnit.causes.zoneWide else 0)
        ++ oneByte s.liveHoses.length ++ beBytes 4 s.unit.seconds ++ oneByte s.tanksGauged.length
        ++ s.tanksGauged.flatMap oneByte := by
      subst hst
      unfold State.beaconBytes State.stationFlags
      rw [hj, fault]
      cases s.tripUnit.episode <;> simp [joinStateCode, bitCode]
    rw [body]
  · have zone : s.beaconZone = some z := by simp [State.beaconZone, hj, hz, strapValid, within_eq_true.mpr ⟨h1, h2⟩]
    have fault : s.inConfigFault = true := by simp [State.inConfigFault, hj]
    refine exec_powered hp rfl ((if_pos (decide_eq_true hle)).trans
      ((sendBeacon_some zone hnone hl).trans ?_))
    have body : s.beaconBytes z = oneByte s.cfg.beaconInterval ++ oneByte z ++ oneByte 4
        ++ oneByte (1 + 2 * bitCode s.gauging.conflict + 4 * bitCode s.journal.full
          + 8 * bitCode s.accounts.rosterFull)
        ++ beBytes 2 (stamp.getD 0) ++ oneByte (if stamp.isSome then causeSetCode s.tripUnit.causes.zoneWide else 0)
        ++ oneByte s.liveHoses.length ++ beBytes 4 s.unit.seconds ++ oneByte 0 := by
      subst hst
      unfold State.beaconBytes State.stationFlags State.tanksGauged
      rw [hj, fault]
      cases s.tripUnit.episode <;> simp [joinStateCode, bitCode]
    rw [body]

end Sys2Proof.Machine
end

section
/-! SUPPORT. Frames of offices (O47 to O50): the journal's, the start unit's, and what admission does with the rest. -/

namespace Sys2Proof.Machine

/-! ### COLLECT (O47) -/

theorem collect_none {j : Journal} {q : Nat} (h : ∀ r ∈ j.records, r.collected = true) : j.collect q = j := by
  unfold Journal.collect
  rw [List.find?_eq_none.mpr fun r hr => by simp [h r hr]]

section
variable {j : Journal} {q : Nat} {a b : List DeliveryRecord} {o n : DeliveryRecord}

/-- A COLLECT weighed against the oldest uncollected record and the newest one (R146). -/
theorem collect_some (hr : j.records = a ++ o :: b) (ha : ∀ r ∈ a, r.collected = true) (ho : o.collected = false)
    (hn : j.records.getLast? = some n) : j.collect q
      = if sequenceForward o.sequence q ≤ sequenceForward o.sequence n.sequence
          then { j with records := markThrough o.sequence q j.records, mark := q }
        else if 1 ≤ sequenceForward n.sequence q ∧ sequenceForward n.sequence q ≤ 2147483647
          then { j with records := markThrough o.sequence n.sequence j.records, mark := n.sequence }
        else j := by
  have oldest : j.records.find? (fun r => !r.collected) = some o := by
    rw [hr, List.find?_append, List.find?_eq_none.mpr fun r h => by simp [ha r h]]
    simp [ho]
  have newest : j.newest = n.sequence := by
    unfold Journal.newest
    rw [hn]
    rfl
  unfold Journal.collect
  rw [oldest]
  dsimp only
  rw [newest]
end

theorem markThrough_eq (o t : Nat) (rs : List DeliveryRecord) : markThrough o t rs = rs.map fun r =>
    if r.collected = false ∧ sequenceForward o r.sequence ≤ sequenceForward o t then { r with collected := true } else r := by
  unfold markThrough
  refine List.map_congr_left fun r _ => ?_
  simp

theorem exec_collect {s : State} {e : RxEntry} {rest : List RxEntry} {q : Nat} (ho : s.offers .collect .journal e rest)
    (hb : collectBody e.frame.body = .sound q) : exec .collect s
      = .next (reply e.frame.src .journalEnd (journalEndBody (s.journal.collect q)) .journal .plain
          ((s.took .collect .journal e rest).setJournal (s.journal.collect q))) := by
  refine (exec_offered ho rfl rfl).trans (congrArg _ ?_)
  unfold takeCollect
  rw [hb]
  rfl

/-- Settles O47: nothing uncollected, a sequence held, one ahead, and one behind. -/
theorem collectMarksUpToItsSequence : Obligations.CollectMarksUpToItsSequence := by
  intro s e rest q j ho hb hj
  have forward (a b : Nat) : (b + 4294967295 - a) % 4294967295 = sequenceForward a b := rfl
  simp only [forward] at hj
  have marked : s.journal.collect q = j := by
    rcases hj with ⟨h, rfl⟩ | ⟨a, o, b, n, hr, ha, hu, hn, hj⟩
    · exact collect_none h
    · rw [collect_some hr ha hu hn]
      rcases hj with ⟨h, rfl⟩ | ⟨h, h1, h2, rfl⟩ | ⟨h, h1, rfl⟩
      · rw [if_pos h, markThrough_eq]
      · rw [if_neg (not_le.mpr h), if_pos ⟨h1, h2⟩, markThrough_eq]
      · rw [if_neg (not_le.mpr h), if_neg fun k => absurd k.2 (not_le.mpr h1)]
  rw [exec_collect ho hb, marked]
  rfl

/-! ### Reads (O48) -/

section
variable {s : State} {r : ReadInProgress}

theorem readNext_record {d : DeliveryRecord} {i : Nat} (hr : s.journal.read = some r) (hi : i < r.left)
    (hd : s.journal.records.find? (fun x => x.sequence == nextSequence^[i] r.next) = some d)
    (hn : ∀ m, m < i → ∀ x ∈ s.journal.records, x.sequence ≠ nextSequence^[m] r.next) : readNext s
      = reply r.requester .journalRec (journalRecBody d) .journal .readFrame (s.setJournal { s.journal with
          read := some { r with next := nextSequence^[i + 1] r.next, left := r.left - (i + 1) } }) := by
  unfold readNext
  rw [hr]
  dsimp only
  rw [nextNamed_some s.journal.records d i r.next r.left hi hd hn]

theorem readNext_end (hr : s.journal.read = some r)
    (hn : ∀ m, m < r.left → ∀ x ∈ s.journal.records, x.sequence ≠ nextSequence^[m] r.next) : readNext s
      = reply r.requester .journalEnd (journalEndBody s.journal) .journal .readFrame (s.setJournal { s.journal with
          read := some { r with left := 0, endHanded := true } }) := by
  unfold readNext
  rw [hr]
  dsimp only
  rw [nextNamed_none s.journal.records r.next r.left hn]

theorem exec_journalRead {e : RxEntry} {rest : List RxEntry} {first count : Nat}
    (ho : s.offers .journalRead .journal e rest) (hb : journalReadBody e.frame.body = .sound (first, count)) :
    (s.journal.read.isSome → exec .journalRead s = .next (refuse e.frame.src e.frame.kind .full .journal
      (s.took .journalRead .journal e rest)))
    ∧ (s.journal.read = none → exec .journalRead s = .next (readNext ((s.took .journalRead .journal e rest).setJournal
      { s.journal with read := some ⟨e.frame.src, first, count, false⟩ }))) := by
  have taken := exec_offered (c := .journalRead) (ks := [.journalRead]) (f := takeJournalRead) ho rfl rfl
  unfold takeJournalRead at taken
  rw [hb] at taken
  dsimp only at taken
  rw [took_journal] at taken
  refine ⟨fun h => ?_, fun h => ?_⟩
  · obtain ⟨r, hr⟩ := Option.isSome_iff_exists.mp h
    rw [taken, hr]
  · rw [taken, h]

/-- The end of the tail: the frame leaves the queue and its owner is told (R161, R169). -/
theorem exec_frameSent {e : TxEntry} (hp : s.unit.powered = true) (hd : s.link.driver = .tail)
    (hc : s.link.current = some e) : exec .frameSent s
      = .next (tellSent e.purpose (s.setLink { s.link.dropCurrent with driver := .released, failures := 0 })) := by
  refine exec_powered hp rfl ?_
  rw [hd]
  dsimp only
  unfold finishFrame
  rw [hc]

theorem exec_readFrameSent {e : TxEntry} {sent : State} (hp : s.unit.powered = true) (hd : s.link.driver = .tail)
    (hc : s.link.current = some e) (hf : e.purpose = .readFrame) (hr : s.journal.read = some r)
    (hs : sent = s.setLink { s.link.dropCurrent with driver := .released, failures := 0 }) : exec .frameSent s
      = .next (if r.endHanded then sent.setJournal { s.journal with read := none } else readNext sent) := by
  have read : sent.journal.read = some r := by rw [hs]; exact hr
  have journal : sent.journal = s.journal := by rw [hs]; rfl
  rw [exec_frameSent hp hd hc, hf, ← hs, ← journal]
  unfold tellSent readSent
  rw [read]
end

/-- Settles O48: a read's first frame, then its later ones and its end. -/
theorem readsAnswerRecordByRecord : Obligations.ReadsAnswerRecordByRecord := by
  refine ⟨fun s e rest first count ho hb => ?_, fun s sent e r hp hd hc hf hr hs => ?_⟩
  · obtain ⟨full, starts⟩ := exec_journalRead ho hb
    refine ⟨full, fun hn => ⟨fun d i hi hd hk => ?_, fun hk => ?_⟩⟩
    · rw [starts hn]
      exact congrArg _ (readNext_record (r := ⟨e.frame.src, first, count, false⟩) (by rfl) hi hd hk)
    · rw [starts hn]
      exact congrArg _ (readNext_end (r := ⟨e.frame.src, first, count, false⟩) (by rfl) hk)
  · have taken := exec_readFrameSent hp hd hc hf hr hs
    have journal : sent.journal = s.journal := by rw [hs]; rfl
    have read : sent.journal.read = some r := by rw [journal]; exact hr
    refine ⟨fun h => ?_, fun d i h hi hd hk => ?_, fun h hk => ?_⟩
    · rw [taken, if_pos h]
    · rw [taken, if_neg (by simp [h]), readNext_record read hi (by rw [journal]; exact hd) (by rw [journal]; exact hk), journal]
    · rw [taken, if_neg (by simp [h]), readNext_end read (by rw [journal]; exact hk), journal]

/-! ### The start unit (O49) -/

/-- The offset gives the site time the value taken, modulo 2^32 (R184, R206). -/
theorem offsetFor_gives {v seconds : Nat} (h : v < 4294967296) : (seconds + offsetFor v seconds) % 4294967296 = v := by
  unfold offsetFor
  omega

theorem statusBody_took {s : State} {k : FrameKind} {b : Block} {e : RxEntry} {rest : List RxEntry} (part : Nat) :
    (s.took k b e rest).statusBody part = s.statusBody part := rfl

theorem beValue_lt (bs : List Byte) : beValue bs < 256 ^ bs.length := by
  induction bs using List.reverseRecOn with
  | nil => simp [beValue]
  | append_singleton bs b ih =>
    have := b.isLt
    rw [beValue_snoc, List.length_append, List.length_singleton, pow_succ]
    omega

theorem field_lt (bs : List Byte) (offset size : Nat) : field bs offset size < 256 ^ size :=
  (beValue_lt _).trans_le (Nat.pow_le_pow_right (by decide) (List.length_take_le _ _))

theorem timeBody_lt {b : List Byte} {v : Nat} (h : timeBody b = .sound v) : v < 4294967296 := by
  rw [← (fixedBody_sound h).2]
  exact field_lt b 0 4

/-- Settles O49. -/
theorem startUnitAnswersItsFrames : Obligations.StartUnitAnswersItsFrames := by
  refine fun s e rest => ⟨fun part clear ho hb => ?_, fun ho => (exec_offered ho rfl rfl).trans rfl,
    fun ho => (exec_offered ho rfl rfl).trans rfl,
    fun v ho hb => ?_⟩
  · refine (exec_offered ho rfl rfl).trans (congrArg _ ?_)
    unfold takeStatusReq
    rw [hb]
    dsimp only
    rw [statusBody_took]
    cases clear <;> rfl
  · have taken := exec_offered (c := .time) (ks := [.time]) (f := takeTime) ho rfl rfl
    unfold takeTime at taken
    rw [hb] at taken
    exact ⟨_, taken, congrArg some (offsetFor_gives (timeBody_lt hb)), rfl⟩

/-! ### Admission (O50) -/

theorem isOffice_iff {a : Nat} : isOffice a = true ↔ 48 ≤ a ∧ a ≤ 63 := within_eq_true

theorem isStation_iff {a : Nat} : isStation a = true ↔ 1 ≤ a ∧ a ≤ 47 := within_eq_true

section
variable {f : Frame} {k : FrameKind} (hk : kindOfCode f.kind = some k)
include hk

theorem verdict_of_kind : verdict f = if sourceOk k f.src && destOk k f.dest then
      match contentTest k f.body with
      | none => .sound
      | some c =>
        match familyOf k with
        | .report => .counted
        | .administrative => if f.dest = 0 then .counted else .refused c
        | .request => .refused c
        | .reply => .counted
    else .counted := by
  unfold verdict
  rw [hk]
  dsimp only
  cases sourceOk k f.src <;> cases destOk k f.dest <;> rfl

theorem verdict_report (hf : familyOf k = .report) : verdict f
    = if (1 ≤ f.src ∧ f.src ≤ 47 ∨ k = .level ∧ 48 ≤ f.src ∧ f.src ≤ 63) ∧ contentTest k f.body = none
      then .sound else .counted := by
  have source : (sourceOk k f.src && destOk k f.dest) = true
      ↔ 1 ≤ f.src ∧ f.src ≤ 47 ∨ k = .level ∧ 48 ≤ f.src ∧ f.src ≤ 63 := by
    unfold sourceOk destOk
    rw [hf]
    dsimp only
    split
    · next hl => simp [hl, isStation_iff, isOffice_iff]
    · next hl => simp [hl, isStation_iff]
  rw [verdict_of_kind hk, hf]
  by_cases h : 1 ≤ f.src ∧ f.src ≤ 47 ∨ k = .level ∧ 48 ≤ f.src ∧ f.src ≤ 63
  · rw [if_pos (source.mpr h)]
    cases contentTest k f.body <;> simp [h]
  · rw [if_neg fun e => h (source.mp e), if_neg fun e => h e.1]

theorem verdict_administrative (hf : familyOf k = .administrative) : verdict f
    = if 48 ≤ f.src ∧ f.src ≤ 63 then
        match contentTest k f.body with
        | none => .sound
        | some c => if f.dest = 0 then .counted else .refused c
      else .counted := by
  have source : (sourceOk k f.src && destOk k f.dest) = true ↔ 48 ≤ f.src ∧ f.src ≤ 63 := by
    unfold sourceOk destOk
    rw [hf]
    simp [isOffice_iff]
  rw [verdict_of_kind hk, hf]
  exact if_congr source rfl rfl

theorem verdict_request (hf : familyOf k = .request) : verdict f
    = if 48 ≤ f.src ∧ f.src ≤ 63 ∧ f.dest ≠ 0 then
        match contentTest k f.body with
        | none => .sound
        | some c => .refused c
      else .counted := by
  have source : (sourceOk k f.src && destOk k f.dest) = true ↔ 48 ≤ f.src ∧ f.src ≤ 63 ∧ f.dest ≠ 0 := by
    unfold sourceOk destOk
    rw [hf]
    simp [isOffice_iff, and_assoc]
  rw [verdict_of_kind hk, hf]
  exact if_congr source rfl rfl

theorem verdict_replyKind (hf : familyOf k = .reply) : verdict f = .counted := by
  rw [verdict_of_kind hk, if_neg (by simp [sourceOk, hf])]
end

theorem verdict_unknown {f : Frame} (hk : kindOfCode f.kind = none) :
    verdict f = if 48 ≤ f.src ∧ f.src ≤ 63 ∧ f.dest ≠ 0 then .refused .unknownKind else .counted := by
  unfold verdict
  rw [hk]
  refine if_congr ?_ rfl rfl
  simp [isOffice_iff, and_assoc]

/-- The command of each owner takes the frames of its kind (R175, R176). -/
theorem exec_takeCommand {k : FrameKind} {b : Block} (hb : b ∈ mainOwners k) : ∃ ks f, ks.contains k = true
    ∧ ∀ s, exec (takeCommand k b) s = .next (whenPowered (takeHead b ks f) s) := by
  cases k
  case statusRep | identRep | accountRep | journalRec | journalEnd | refused => cases hb
  case draw =>
    rcases List.mem_cons.mp hb with rfl | hb
    · exact ⟨_, _, rfl, fun _ => rfl⟩
    · obtain rfl := List.mem_singleton.mp hb
      exact ⟨_, _, rfl, fun _ => rfl⟩
  all_goals
    obtain rfl := List.mem_singleton.mp hb
    exact ⟨_, _, rfl, fun _ => rfl⟩

section
variable {s : State} {e : RxEntry} {rest : List RxEntry} {k : FrameKind} {b : Block} {ks : List FrameKind}
  {f : Frame → State → State}

theorem dropHead_left (hb : s.link.buffer = e :: rest) : dropHead s = s.setLink { s.link with buffer := rest } := by
  unfold dropHead
  rw [hb]
  rfl

theorem takeHead_tested (hb : s.link.buffer = e :: rest) (hk : kindOfCode e.frame.kind = some k)
    (hc : ks.contains k = true) : takeHead b ks f s = match verdict e.frame with
      | .counted => countMalformed (s.setLink { s.link with buffer := rest })
      | .refused c => refuse e.frame.src e.frame.kind c b (s.setLink { s.link with buffer := rest })
      | .sound =>
        let owners := ownersOf k e.frame.src s.inConfigFault
        if owners.isEmpty then s.setLink { s.link with buffer := rest }
        else if !owners.contains b || e.taken.contains b then s
        else f e.frame (if owners.all (fun o => (b :: e.taken).contains o)
          then s.setLink { s.link with buffer := rest } else markHead b s) := by
  have left := dropHead_left hb
  unfold takeHead
  rw [hb]
  dsimp only
  rw [hk]
  dsimp only
  rw [hc, left]
  rfl
end

/-- Settles O50: the verdicts by family, then what a frame that fails leaves. -/
theorem framesAreAdmittedOrDiscarded : Obligations.FramesAreAdmittedOrDiscarded := by
  refine ⟨fun f k hk => ⟨verdict_report hk, verdict_administrative hk, verdict_request hk, verdict_replyKind hk⟩,
    fun s e rest left hp hb hl => ⟨fun hk => exec_powered hp rfl ?_, fun k b hk hm => ?_⟩⟩
  · have head : takeUnowned s = match verdict e.frame with
        | .refused c => refuse e.frame.src e.frame.kind c .startUnit left
        | _ => countMalformed left := by
      unfold takeUnowned
      rw [dropHead_left hb, ← hl, hb]
      dsimp only
      rw [hk]
      rfl
    rw [head, verdict_unknown hk]
    by_cases admitted : 48 ≤ e.frame.src ∧ e.frame.src ≤ 63 ∧ e.frame.dest ≠ 0
    · rw [if_pos admitted, if_pos admitted]
    · rw [if_neg admitted, if_neg admitted, hl]
      rfl
  · obtain ⟨ks, f, hc, taken⟩ := exec_takeCommand hm
    have tested := takeHead_tested (b := b) (f := f) hb hk hc
    rw [← hl] at tested
    refine ⟨fun hv => exec_powered hp (taken s) ?_, fun c hv => exec_powered hp (taken s) ?_,
      fun hv hn => exec_powered hp (taken s) ?_⟩
    · rw [tested, hv, hl]
      rfl
    · rw [tested, hv]
    · rw [tested, hv]
      dsimp only
      rw [hn]
      rfl

end Sys2Proof.Machine
end

section
/-! SUPPORT. The bay line (O51 to O54): characters and frames received, attempts, failures, and the transmit queue. -/

namespace Sys2Proof.Machine

/-! ### Characters (O51) -/

/-- Outside its own transmission the station's receiver takes each character, the silence ended (R154, R158). -/
theorem exec_receives {s : State} {data : Byte} {marked good : Bool} (hp : s.unit.powered = true)
    (hd : ∀ n, s.link.driver ≠ .sending n) : exec (.characterReceived data marked good) s
      = .next (receive data marked good (s.setLink { s.link with silence := none })) := by
  refine exec_powered hp rfl ?_
  unfold hearCharacter
  cases e : s.link.driver with
  | sending n => exact absurd e (hd n)
  | released => rfl
  | lead => rfl
  | tail => rfl

section
variable {s : State} {data : Byte} {marked good : Bool}

theorem receive_muted (h : s.link.receiver = .muted) (hm : marked = true → good = false) :
    receive data marked good s = s := by
  unfold receive
  rw [h]
  exact if_neg fun k => by
    obtain ⟨m, g⟩ := Bool.and_eq_true_iff.mp k
    rw [hm m] at g
    cases g

theorem receive_seeking {counted : Bool} (h : s.link.receiver = .seeking counted) (hm : marked = true → good = false) :
    receive data marked good s = if counted then s else setReceiver (.seeking true) (countFraming s) := by
  unfold receive
  rw [h]
  exact if_neg fun k => by
    obtain ⟨m, g⟩ := Bool.and_eq_true_iff.mp k
    rw [hm m] at g
    cases g

/-- A head is weighed in every receiver state, a partial frame being discarded and counted before it (R154, R155). -/
theorem receive_head : receive data true true s = weighHead data (match s.link.receiver with
    | .assembling _ _ => discardPartial s
    | _ => s) := by
  unfold receive
  cases s.link.receiver <;> rfl

theorem receive_broken {dest : Nat} {cs : List Byte} (h : s.link.receiver = .assembling dest cs) :
    receive data marked false s = discardPartial s := by
  unfold receive
  rw [h]
  dsimp only
  rw [if_neg (by simp), if_pos (by simp)]

theorem receive_assembles {dest : Nat} {cs : List Byte} (h : s.link.receiver = .assembling dest cs) :
    receive data false true s = assemble dest (cs ++ [data]) s := by
  unfold receive
  rw [h]
  rfl
end

theorem weighHead_eq (data : Byte) (s : State) : weighHead data s
    = setReceiver (if data.toNat = 0 ∨ data.toNat = s.ownAddress then .assembling data.toNat [] else .muted) s := by
  unfold weighHead
  split <;> rfl

section
variable {dest : Nat} {cs : List Byte} {s : State}

theorem assemble_goes_on (h : cs.length < 3 ∨ field cs 2 1 ≤ 64 ∧ cs.length < 5 + field cs 2 1) :
    assemble dest cs s = setReceiver (.assembling dest cs) s := by
  unfold assemble
  rw [if_neg (by omega), if_neg (by omega)]

theorem assemble_tooLong (h : 3 ≤ cs.length) (hn : 64 < field cs 2 1) : assemble dest cs s = discardPartial s :=
  if_pos ⟨h, hn⟩

theorem assemble_completes (hn : field cs 2 1 ≤ 64) (h : cs.length = 5 + field cs 2 1) :
    assemble dest cs s = completeFrame dest cs s := by
  unfold assemble
  rw [if_neg (by omega), if_pos (by omega)]

/-- A complete frame by its check and its source (R156, R157). -/
theorem completeFrame_cases :
    (checkCode (cs.take (3 + field cs 2 1)) ≠ field cs (3 + field cs 2 1) 2 → completeFrame dest cs s
      = (setReceiver (.seeking false) s).setCounts { s.counts with check := min (s.counts.check + 1) 65535 })
    ∧ (checkCode (cs.take (3 + field cs 2 1)) = field cs (3 + field cs 2 1) 2 →
      (field cs 0 1 = 0 ∨ 63 < field cs 0 1 ∨ field cs 0 1 = s.ownAddress → completeFrame dest cs s
        = (setReceiver (.seeking false) s).setCounts { s.counts with malformed := min (s.counts.malformed + 1) 65535 })
      ∧ (1 ≤ field cs 0 1 → field cs 0 1 ≤ 63 → field cs 0 1 ≠ s.ownAddress → completeFrame dest cs s
        = storeFrame ⟨dest, field cs 0 1, field cs 1 1, (cs.drop 3).take (field cs 2 1)⟩
            (setReceiver (.seeking false) s))) := by
  unfold completeFrame
  dsimp only
  refine ⟨fun hc => if_pos hc, fun hc => ⟨fun hs => ?_, fun h1 h2 hs => ?_⟩⟩
  · rw [if_neg (not_not.mpr hc), if_pos]
    · rfl
    · rw [within_eq_false]
      have : (setReceiver (.seeking false) s).ownAddress = s.ownAddress := rfl
      omega
  · rw [if_neg (not_not.mpr hc), if_neg]
    rw [within_eq_false]
    have : (setReceiver (.seeking false) s).ownAddress = s.ownAddress := rfl
    omega
end

section
variable {s : State} {waited : Nat}

theorem loseFrame_not (h : ∀ dest cs, s.link.receiver ≠ .assembling dest cs) : loseFrame waited s = s := by
  unfold loseFrame
  cases e : s.link.receiver with
  | assembling dest cs => exact absurd e (h dest cs)
  | seeking c => rfl
  | muted => rfl

theorem loseFrame_assembling {dest : Nat} {cs : List Byte} (h : s.link.receiver = .assembling dest cs) :
    loseFrame waited s = if 3 ≤ s.link.silence.getD 0 + waited
      then discardPartial (s.setLink { s.link with silence := some (s.link.silence.getD 0 + waited) }) else s := by
  unfold loseFrame
  rw [h]
  rfl
end

/-- Settles O51: characters by the receiver's state, the timeout, and a complete frame. -/
theorem charactersAssembleFrames : Obligations.CharactersAssembleFrames := by
  intro s data quiet hp hd hq
  have heard (d : Byte) (m g : Bool) : exec (.characterReceived d m g) s = .next (receive d m g quiet) := by
    rw [hq]
    exact exec_receives hp hd
  have receiver : quiet.link.receiver = s.link.receiver := by rw [hq]; rfl
  have counts : quiet.counts = s.counts := by rw [hq]; rfl
  have address : quiet.ownAddress = s.ownAddress := by rw [hq]; rfl
  refine ⟨fun marked good hr hm => ?_, fun r framing hr hf => ?_, fun counted marked good hr hm => ?_,
    fun w hr => exec_powered hp rfl (loseFrame_not hr), fun dest cs hr => ⟨fun marked => ?_, fun w n hn => ?_,
    fun all n seek ha hn hs => ⟨fun h => ?_, fun h h64 => ?_, fun h64 h => ?_⟩⟩⟩
  · rw [heard, receive_muted (receiver.trans hr) hm]
  · rw [heard, receive_head, weighHead_eq, receiver, hr, hf]
    cases hrec : s.link.receiver with
    | assembling dest cs =>
      dsimp only
      rw [← address, ← counts]
      rfl
    | seeking c =>
      dsimp only
      rw [← address, ← counts]
      rfl
    | muted =>
      dsimp only
      rw [← address, ← counts]
      rfl
  · rw [heard, receive_seeking (receiver.trans hr) hm, ← counts]
    rfl
  · rw [heard, receive_broken (receiver.trans hr), ← counts]
    rfl
  · subst hn
    refine ⟨fun h => exec_powered hp rfl ((loseFrame_assembling hr).trans ((if_pos h).trans rfl)),
      fun h => exec_powered hp rfl ((loseFrame_assembling hr).trans (if_neg (not_le.mpr h)))⟩
  · rw [heard, receive_assembles (receiver.trans hr), ← ha, assemble_goes_on (hn ▸ h)]
    rfl
  · rw [heard, receive_assembles (receiver.trans hr), ← ha, assemble_tooLong h (hn ▸ h64), hs, ← counts]
    rfl
  · obtain ⟨check, sound⟩ := completeFrame_cases (dest := dest) (cs := all) (s := quiet)
    rw [heard, receive_assembles (receiver.trans hr), ← ha, assemble_completes (hn ▸ h64) (hn ▸ h)]
    rw [← hn] at check sound
    rw [address] at sound
    rw [counts] at check sound
    refine ⟨fun hc => by rw [check hc, hs]; rfl, fun hc => ⟨fun h => by rw [(sound hc).1 h, hs]; rfl, fun h1 h2 h3 => ?_⟩⟩
    rw [(sound hc).2 h1 h2 h3, hs, ← counts]
    have buffer : quiet.link.buffer = s.link.buffer := by rw [hq]; rfl
    rw [← buffer]
    rfl

/-! ### Attempts (O52) -/

theorem firstByClass_none {l : List TxEntry} (h : firstByClass l = none) : l = [] := by
  cases l with
  | nil => rfl
  | cons e l =>
    unfold firstByClass at h
    split at h
    · cases h
    · split at h <;> cases h

theorem firstByClass_mem : ∀ {l : List TxEntry} {e : TxEntry}, firstByClass l = some e → e ∈ l
  | q :: l, e, h => by
    unfold firstByClass at h
    split at h
    · obtain rfl := Option.some.inj h
      exact List.mem_cons_self ..
    · next x hx =>
      split at h
      · obtain rfl := Option.some.inj h
        exact List.mem_cons_self ..
      · obtain rfl := Option.some.inj h
        exact List.mem_cons_of_mem _ (firstByClass_mem hx)

/-- The oldest entry of the lowest class is sent first (R165). -/
theorem firstByClass_eq {e : TxEntry} {b : List TxEntry} (hb : ∀ q ∈ b, accessClass e.kind ≤ accessClass q.kind) :
    ∀ {a : List TxEntry}, (∀ q ∈ a, accessClass e.kind < accessClass q.kind) → firstByClass (a ++ e :: b) = some e
  | [], _ => by
    rw [List.nil_append, firstByClass]
    cases h : firstByClass b with
    | none => rfl
    | some q => exact if_pos (hb q (firstByClass_mem h))
  | q :: a, ha => by
    obtain ⟨hq, ha⟩ := List.forall_mem_cons.mp ha
    rw [List.cons_append, firstByClass, firstByClass_eq hb ha]
    exact if_neg (not_le.mpr hq)

theorem markFirst_eq {e : TxEntry} {b : List TxEntry} : ∀ {a : List TxEntry}, e ∉ a →
    markFirst e (a ++ e :: b) = a ++ { e with status := .inTransmission } :: b
  | [], _ => by rw [List.nil_append, markFirst, if_pos rfl]; rfl
  | q :: a, h => by
    obtain ⟨hq, ha⟩ := not_or.mp (mt List.mem_cons.mpr h)
    rw [List.cons_append, markFirst, if_neg fun k => hq k.symm, markFirst_eq ha]
    rfl

section
variable {s : State} {n : Nat}

theorem exec_accessGap (hp : s.unit.powered = true) (hs : s.link.silence = none) : exec (.accessGapReached n) s
    = .next (if s.attemptAt n
        then (s.setLink { s.link with silence := some n }).setLink ({ s.link with silence := some n } : Link).attempt
        else s.setLink { s.link with silence := some n }) := by
  refine exec_powered hp rfl ?_
  unfold reachGap
  rw [hs, Option.getD_none, Nat.max_eq_left (Nat.zero_le n)]
  rfl

theorem attemptAt_waiting (hj : s.link.join = .listen ∨ s.link.join = .isolated) : s.attemptAt n = false := by
  have drive : s.mayDrive = false := by
    unfold State.mayDrive
    rcases hj with hj | hj <;> rw [hj]
  unfold State.attemptAt
  split
  · rw [drive, Bool.false_and]
  · rfl

theorem attemptAt_joined {e : TxEntry} (hd : s.link.driver = .released) (hj : s.link.join = .joined)
    (hf : s.link.first = some e) : s.attemptAt n = decide (3 + 2 * accessClass e.kind
      + (if e.attempt ≤ 1 then 0 else (s.ownAddress * 5 + e.attempt * 3) % 16) ≤ n) := by
  unfold State.attemptAt State.mayDrive
  rw [hd, hf, hj]
  rfl
end

section
variable {l : Link} {e : TxEntry} {a b : List TxEntry} (ha : ∀ q ∈ a, accessClass e.kind < accessClass q.kind)
  (hb : ∀ q ∈ b, accessClass e.kind ≤ accessClass q.kind)
include ha hb

theorem first_reserved (hr : l.reserved = a ++ e :: b) : l.first = some e
    ∧ l.attempt = { l with driver := .lead, reserved := a ++ { e with status := .inTransmission } :: b } := by
  have absent : e ∉ a := fun h => absurd (ha e h) (lt_irrefl _)
  unfold Link.first Link.attempt
  rw [hr, firstByClass_eq hb ha]
  refine ⟨rfl, ?_⟩
  dsimp only
  rw [markFirst_eq absent]

theorem first_ordinary (hr : l.reserved = []) (ho : l.ordinary = a ++ e :: b) : l.first = some e
    ∧ l.attempt = { l with driver := .lead, ordinary := a ++ { e with status := .inTransmission } :: b } := by
  have absent : e ∉ a := fun h => absurd (ha e h) (lt_irrefl _)
  unfold Link.first Link.attempt
  rw [hr, ho, show firstByClass [] = none from rfl, firstByClass_eq hb ha]
  refine ⟨rfl, ?_⟩
  dsimp only
  rw [markFirst_eq absent]
end

/-- An echo of the station's own character that matches (R161, R162). -/
theorem exec_echo {s : State} {e : TxEntry} {m : Nat} {data : Byte} {marked : Bool} (hp : s.unit.powered = true)
    (hd : s.link.driver = .sending m) (hc : s.link.current = some e)
    (hm : (s.charactersOf e)[m]? = some (data, marked)) : exec (.characterReceived data marked true) s
      = .next (s.setLink { s.link with
          silence := none, driver := if m + 1 < (s.charactersOf e).length then .sending (m + 1) else .tail }) := by
  have current : (s.setLink { s.link with silence := none }).link.current = some e := hc
  refine exec_powered hp rfl ?_
  unfold hearCharacter
  rw [hd]
  dsimp only
  unfold compareEcho
  rw [current]
  refine (if_pos ⟨rfl, hm⟩).trans ?_
  have turn : (if (s.charactersOf e).length ≤ m + 1 then Driver.tail else .sending (m + 1))
      = if m + 1 < (s.charactersOf e).length then .sending (m + 1) else .tail := by
    split <;> split <;> first | rfl | omega
  rw [← turn]
  rfl

/-- Settles O52: the gap, the lead, the echoes and the end of the tail. -/
theorem attemptsSendTheFirstFrame : Obligations.AttemptsSendTheFirstFrame := by
  refine ⟨fun s n hp hd hs => ⟨fun hj => ?_, fun a e b gap hj hg ha hb => ⟨fun hn hr ho => ?_, fun hn hr ho => ?_,
    fun hn hr => ?_⟩⟩, fun s hp hd => exec_powered hp rfl (by rw [hd]), fun s e cs m hp hc hcs =>
    ⟨fun data marked hd hm => ?_, fun hd he => ?_, fun hd => exec_powered hp rfl ?_⟩⟩
  · rw [exec_accessGap hp hs, attemptAt_waiting hj]
    rfl
  · rw [exec_accessGap hp hs, attemptAt_joined hd hj (first_ordinary ha hb hr ho).1, ← hg,
      decide_eq_false (not_le.mpr hn)]
    rfl
  · rw [exec_accessGap hp hs, attemptAt_joined hd hj (first_ordinary ha hb hr ho).1, ← hg, decide_eq_true hn,
      (first_ordinary (l := { s.link with silence := some n }) ha hb hr ho).2]
    rfl
  · rw [exec_accessGap hp hs, attemptAt_joined hd hj (first_reserved ha hb hr).1, ← hg, decide_eq_true hn,
      (first_reserved (l := { s.link with silence := some n }) ha hb hr).2]
    rfl
  · subst hcs
    exact exec_echo hp hd hc hm
  · rw [exec_frameSent hp hd hc, he]
    rfl
  · cases h : s.link.driver with
    | tail => exact absurd h hd
    | released => rfl
    | lead => rfl
    | sending m => rfl

/-! ### Failures (O53) -/

theorem toldLost_eq (p : Purpose) (s : State) : reportLost p s = s.toldLost p := by cases p <;> rfl

theorem toldLost_link (p : Purpose) (s : State) : (s.toldLost p).link = s.link := by cases p <;> rfl

theorem toldLost_books (p : Purpose) (s : State) : (s.toldLost p).books = s.books := by cases p <;> rfl

/-- A mismatch, by its own command or by the character that shows it (R162; log 18). -/
theorem exec_mismatch {s failed : State} {c : Instr} {m : Nat} {e : TxEntry} (hp : s.unit.powered = true)
    (hd : s.link.driver = .sending m) (hc : s.link.current = some e)
    (hf : c = .echoMismatch ∧ failed = s ∨ ∃ data marked good, c = .characterReceived data marked good
      ∧ (good = false ∨ (s.charactersOf e)[m]? ≠ some (data, marked))
      ∧ failed = s.setLink { s.link with silence := none }) : exec c s = .next (failAttempt failed) := by
  rcases hf with ⟨rfl, rfl⟩ | ⟨data, marked, good, rfl, hw, rfl⟩
  · exact exec_powered hp rfl (by rw [hd])
  · have current : (s.setLink { s.link with silence := none }).link.current = some e := hc
    refine exec_powered hp rfl ?_
    unfold hearCharacter
    rw [hd]
    dsimp only
    unfold compareEcho
    rw [current]
    refine if_neg fun k => ?_
    rcases hw with hw | hw
    · rw [hw] at k
      cases k.1
    · exact hw k.2

theorem countFailure_below {s : State} (h : s.link.failures < 15) :
    countFailure s = s.setLink { s.link with failures := s.link.failures + 1 } :=
  if_pos (Nat.add_lt_add_right h 1)

theorem countFailure_clears {s : State} (h : 15 ≤ s.link.failures) (hj : s.link.join = .configFault) :
    countFailure s = s.setLink { s.link with failures := 0 } := by
  have reached : ¬s.link.failures + 1 < failureLimit := not_lt.mpr (Nat.add_le_add_right h 1)
  unfold countFailure
  rw [if_neg reached, hj]

theorem countFailure_isolates {s : State} (h : 15 ≤ s.link.failures) (hj : s.link.join = .joined) :
    countFailure s = enterIsolated s := by
  have reached : ¬s.link.failures + 1 < failureLimit := not_lt.mpr (Nat.add_le_add_right h 1)
  unfold countFailure
  rw [if_neg reached, hj]

theorem exhausted_iff {e : TxEntry} : e.exhausted = true ↔ 8 ≤ e.attempt ∧ e.kind ≠ .trip ∧ e.kind ≠ .clear := by
  simp [TxEntry.exhausted, and_assoc]

/-- The driver released and the collision counted (R162). -/
def State.collided (s : State) : State :=
  (s.setLink { s.link with driver := .released }).setCounts
    { s.counts with collision := min (s.counts.collision + 1) 65535 }

theorem failAttempt_eq (s : State) : failAttempt s = countFailure (failFrame s.collided) := rfl

theorem mapCurrent_eq (l : Link) : (l.mapCurrent fun e => { e with attempt := e.attempt + 1, status := .started })
    = { l with
        ordinary := l.ordinary.map fun q =>
          if q.status = .inTransmission then { q with attempt := q.attempt + 1, status := .started } else q
        reserved := l.reserved.map fun q =>
          if q.status = .inTransmission then { q with attempt := q.attempt + 1, status := .started } else q } := by
  have same (l : List TxEntry) : (l.map fun e =>
      if e.onLine then ({ e with attempt := e.attempt + 1, status := .started } : TxEntry) else e)
      = l.map fun q =>
        if q.status = .inTransmission then { q with attempt := q.attempt + 1, status := .started } else q :=
    List.map_congr_left fun q _ => if_congr beq_iff_eq rfl rfl
  unfold Link.mapCurrent
  rw [same, same]

/-- The frame of a failed attempt: kept for its next one, or discarded with its owner told (R162, R163, R169). -/
theorem failFrame_cases {s : State} {e : TxEntry} (hc : s.link.current = some e) :
    (e.attempt < 8 ∨ e.kind = .trip ∨ e.kind = .clear → failFrame s
      = s.setLink (s.link.mapCurrent fun e => { e with attempt := e.attempt + 1, status := .started }))
    ∧ (8 ≤ e.attempt → e.kind ≠ .trip → e.kind ≠ .clear → failFrame s = ((s.setLink s.link.dropCurrent).setCounts
      { s.counts with drop := min (s.counts.drop + 1) 65535 }).toldLost e.purpose) := by
  unfold failFrame
  rw [hc]
  dsimp only
  refine ⟨fun h => if_neg fun k => ?_, fun h1 h2 h3 => ?_⟩
  · obtain ⟨k1, k2, k3⟩ := exhausted_iff.mp k
    rcases h with h | h | h
    · omega
    · exact k2 h
    · exact k3 h
  · rw [if_pos (exhausted_iff.mpr ⟨h1, h2, h3⟩), toldLost_eq]
    rfl

/-- Settles O53: the frame's own outcome, the count of failures, and the two timers. -/
theorem failedAttemptsEndInIsolation : Obligations.FailedAttemptsEndInIsolation := by
  refine ⟨fun s failed kept gone c m e hp hd hc hf hk hg after ha => ?_, fun s n hp => ⟨fun hj ht hn => ?_,
    fun ht hn => ?_, fun hj ht hn => ?_, fun ht hn => ?_⟩⟩
  · have shape : failed.link = { s.link with silence := failed.link.silence } ∧ failed.counts = s.counts
        ∧ failed.books = s.books := by
      rcases hf with ⟨-, rfl⟩ | ⟨_, _, _, -, -, rfl⟩ <;> exact ⟨rfl, rfl, rfl⟩
    obtain ⟨link, counts, books⟩ := shape
    have current : failed.collided.link.current = some e := by
      show ({ failed.link with driver := .released } : Link).current = some e
      rw [link]
      exact hc
    obtain ⟨again, lost⟩ := failFrame_cases current
    have outcome : failFrame failed.collided = after ∧ after.link.failures = s.link.failures
        ∧ after.link.join = s.link.join ∧ after.books = s.books := by
      rcases ha with ⟨h, rfl⟩ | ⟨h1, h2, h3, rfl⟩
      · rw [again h, mapCurrent_eq, hk]
        refine ⟨?_, ?_, ?_, books⟩
        · rw [← counts]
          unfold State.collided
          rw [link]
          rfl
        · rw [link]; rfl
        · rw [link]; rfl
      · rw [lost h1 h2 h3, hg, toldLost_link, toldLost_books]
        refine ⟨?_, ?_, ?_, books⟩
        · rw [← counts]
          unfold State.collided
          rw [link]
          rfl
        · rw [link]; rfl
        · rw [link]; rfl
    obtain ⟨frame, failures, join, kept⟩ := outcome
    have taken : exec c s = .next (countFailure after) := by
      rw [exec_mismatch hp hd hc hf, failAttempt_eq, frame]
    refine ⟨fun h => ?_, fun h hj => ?_, fun h hj => ?_⟩
    · rw [taken, countFailure_below (by omega), failures]
    · rw [taken, countFailure_clears (by omega) (join.trans hj)]
    · rw [countFailure_isolates (by omega) (join.trans hj)] at taken
      exact ⟨_, taken, rfl, fun k => by rw [← kept]; exact PerBook.get_map _ _ _⟩
  · exact exec_powered hp rfl (if_pos ⟨hj, ranOut_eq_true.mpr ⟨n, ht, hn⟩⟩)
  · refine exec_powered hp rfl (if_neg fun k => ?_)
    obtain ⟨m, hm, due⟩ := ranOut_eq_true.mp k.2
    rw [ht] at hm
    obtain rfl := Option.some.inj hm
    exact absurd due (not_le.mpr hn)
  · exact exec_powered hp rfl (if_pos ⟨hj, ranOut_eq_true.mpr ⟨n, ht, hn⟩⟩)
  · refine exec_powered hp rfl (if_neg fun k => ?_)
    obtain ⟨m, hm, due⟩ := ranOut_eq_true.mp k.2
    rw [ht] at hm
    obtain rfl := Option.some.inj hm
    exact absurd due (not_le.mpr hn)

/-! ### The transmit queue (O54) -/

theorem takeFirst_eq_some {p : TxEntry → Bool} {e : TxEntry} {b : List TxEntry} (he : p e = true) :
    ∀ {a : List TxEntry}, (∀ q ∈ a, p q = false) → takeFirst p (a ++ e :: b) = some (e, a ++ b)
  | [], _ => by rw [List.nil_append, takeFirst, if_pos he]; rfl
  | q :: a, h => by
    obtain ⟨hq, ha⟩ := List.forall_mem_cons.mp h
    rw [List.cons_append, takeFirst, if_neg (by simp [hq]), takeFirst_eq_some he ha]
    rfl

theorem displaceable_iff {k : FrameKind} {e : TxEntry} :
    e.displaceable k = true ↔ e.kind = k ∧ e.status ≠ .inTransmission := by
  simp [TxEntry.displaceable]

theorem displaceable_false {k : FrameKind} {e : TxEntry} :
    e.displaceable k = false ↔ (e.kind = k → e.status = .inTransmission) := by
  simp [TxEntry.displaceable]

section
variable {f : NewFrame} {s : State}

theorem handOver_asBeacon (hk : f.kind = .beacon) : handOver f s = handBeacon f s := by
  unfold handOver
  rw [if_neg (by simp [takenInConfigFault, hk]), hk]

theorem handOver_asReserved (hk : f.kind = .trip ∨ f.kind = .clear) (hf : s.inConfigFault = false) :
    handOver f s = handReserved f s := by
  unfold handOver
  rw [if_neg (by simp [hf])]
  rcases hk with hk | hk <;> rw [hk]

theorem handOver_asOrdinary (hb : f.kind ≠ .beacon) (ht : f.kind ≠ .trip) (hc : f.kind ≠ .clear)
    (hf : s.inConfigFault = false) : handOver f s = handOrdinary f s := by
  unfold handOver
  rw [if_neg (by simp [hf])]
  split
  · next k => exact absurd k ht
  · next k => exact absurd k hc
  · next k => exact absurd k hb
  · rfl

theorem handOver_discarded (hk : f.kind = .draw ∨ f.kind = .level ∨ f.kind = .trip ∨ f.kind = .clear)
    (hf : s.inConfigFault = true) : handOver f s = s := by
  have untaken : takenInConfigFault f = false := by
    unfold takenInConfigFault
    rcases hk with hk | hk | hk | hk <;> rw [hk]
  exact if_pos (by simp [hf, untaken])

/-- A BEACON in the place of a waiting one, or discarded while one is in transmission (R167). -/
theorem handBeacon_replaces {a b : List TxEntry} {e : TxEntry} (ho : s.link.ordinary = a ++ e :: b) (he : e.kind = .beacon)
    (ha : ∀ q ∈ a, q.kind ≠ .beacon) : handBeacon f s = if e.status = .inTransmission then s
      else s.setLink { s.link with ordinary := a ++ b ++ [s.entryOf f] } := by
  unfold handBeacon
  rw [ho, takeFirst_eq_some (by simp [he]) fun q hq => by simpa using ha q hq]
  exact if_congr beq_iff_eq rfl rfl

theorem handBeacon_joins (h : ∀ q ∈ s.link.ordinary, q.kind ≠ .beacon) : handBeacon f s
    = if s.link.ordinary.length < 6 then s.setLink { s.link with ordinary := s.link.ordinary ++ [s.entryOf f] }
      else (s.setCounts { s.counts with drop := min (s.counts.drop + 1) 65535 }).toldLost f.purpose := by
  unfold handBeacon
  rw [takeFirst_eq_none fun q hq => by simpa using h q hq, ← toldLost_eq]
  rfl

/-- A TRIP or CLEAR in the place of a fresh one, else in a free reserved entry (R166). -/
theorem handReserved_replaces {a b : List TxEntry} {e : TxEntry} (hr : s.link.reserved = a ++ e :: b)
    (he : e.status = .fresh) (ha : ∀ q ∈ a, q.status ≠ .fresh) :
    handReserved f s = s.setLink { s.link with reserved := a ++ b ++ [s.entryOf f] } := by
  unfold handReserved
  rw [hr, takeFirst_eq_some (by simp [he]) fun q hq => by simpa using ha q hq]

theorem handReserved_joins (h : ∀ q ∈ s.link.reserved, q.status ≠ .fresh) (hl : s.link.reserved.length < 2) :
    handReserved f s = s.setLink { s.link with reserved := s.link.reserved ++ [s.entryOf f] } := by
  unfold handReserved
  rw [takeFirst_eq_none fun q hq => by simpa using h q hq]
  exact if_pos hl

/-- With no entry to displace a full queue drops the frame, its owner told (R168, R169). -/
theorem handOrdinary_drops (hl : 6 ≤ s.link.ordinary.length) (h : f.kind ≠ .draw ∧ f.kind ≠ .level
    ∨ ∀ q ∈ s.link.ordinary, q.kind = .beacon ∨ q.kind = .level → q.status = .inTransmission) : handOrdinary f s
      = (s.setCounts { s.counts with drop := min (s.counts.drop + 1) 65535 }).toldLost f.purpose := by
  have full : ¬s.link.ordinary.length < Config.ordinaryCapacity := not_lt.mpr hl
  have dropped : dropNew f s = (s.setCounts { s.counts with drop := min (s.counts.drop + 1) 65535 }).toldLost f.purpose := by
    rw [← toldLost_eq]
    rfl
  unfold handOrdinary
  rw [if_neg full, ← dropped]
  rcases h with ⟨hd, hv⟩ | h
  · exact if_neg (by simp [hd, hv])
  · have none : displace f s = dropNew f s := by
      unfold displace
      rw [takeFirst_eq_none fun q hq => displaceable_false.mpr fun k => h q hq (.inl k),
        takeFirst_eq_none fun q hq => displaceable_false.mpr fun k => h q hq (.inr k)]
    rw [none, ite_self]

/-- A DRAW or LEVEL displaces the waiting BEACON, else the oldest waiting LEVEL (R168). -/
theorem handOrdinary_displaces {a b : List TxEntry} {e : TxEntry} (hl : 6 ≤ s.link.ordinary.length)
    (hk : f.kind = .draw ∨ f.kind = .level) (ho : s.link.ordinary = a ++ e :: b) (hs : e.status ≠ .inTransmission)
    (he : e.kind = .beacon ∧ (∀ q ∈ a, q.kind = .beacon → q.status = .inTransmission)
      ∨ e.kind = .level ∧ (∀ q ∈ s.link.ordinary, q.kind = .beacon → q.status = .inTransmission)
        ∧ ∀ q ∈ a, q.kind = .level → q.status = .inTransmission) : handOrdinary f s
      = ((s.setLink { s.link with ordinary := a ++ b ++ [s.entryOf f] }).setCounts
          { s.counts with drop := min (s.counts.drop + 1) 65535 }).toldLost e.purpose := by
  have full : ¬s.link.ordinary.length < Config.ordinaryCapacity := not_lt.mpr hl
  unfold handOrdinary
  rw [if_neg full, if_pos (by simpa using hk), ← toldLost_eq]
  unfold displace
  rcases he with ⟨he, ha⟩ | ⟨he, hn, ha⟩
  · rw [ho, takeFirst_eq_some (displaceable_iff.mpr ⟨he, hs⟩) fun q hq => displaceable_false.mpr (ha q hq)]
    rfl
  · rw [takeFirst_eq_none fun q hq => displaceable_false.mpr (hn q hq), ho,
      takeFirst_eq_some (displaceable_iff.mpr ⟨he, hs⟩) fun q hq => displaceable_false.mpr (ha q hq)]
    rfl
end

/-- Settles O54, by the kind of the frame. -/
theorem handedFramesJoinTheQueue : Obligations.HandedFramesJoinTheQueue := by
  refine fun f s => ⟨⟨rfl, rfl, rfl⟩, fun hk => ⟨fun a e b ho he ha => ?_, fun h => ?_⟩, fun hk hf =>
    ⟨fun a e b hr he ha => ?_, fun h hl => ?_⟩, fun hb ht hc hf => ⟨fun hl => ?_, fun hl h => ?_,
    fun a e b hl hk ho hs he => ?_⟩, handOver_discarded⟩
  · rw [handOver_asBeacon hk, handBeacon_replaces ho he ha]
  · rw [handOver_asBeacon hk, handBeacon_joins h]
  · rw [handOver_asReserved hk hf, handReserved_replaces hr he ha]
  · rw [handOver_asReserved hk hf, handReserved_joins h hl]
  · rw [handOver_asOrdinary hb ht hc hf]
    exact if_pos hl
  · rw [handOver_asOrdinary hb ht hc hf, handOrdinary_drops hl h]
  · rw [handOver_asOrdinary hb ht hc hf, handOrdinary_displaces hl hk ho hs he]

end Sys2Proof.Machine
end

section
/-! SUPPORT. Starts and power (O55 to O59): what a loss of power keeps, the values each start gives, and the closes of the
deliveries that were in flight. -/

namespace Sys2Proof.Machine

/-! ### Loss of power (O58) -/

theorem whenPowered_off {s : State} (f : State → State) (h : s.unit.powered = false) : whenPowered f s = s :=
  if_neg fun e => by rw [h] at e; cases e

theorem losePower_off {s : State} (h : s.unit.powered = false) : losePower s = s :=
  if_neg fun e => by rw [h] at e; cases e

/-- What the retention domain keeps at a loss of power, whether or not the station has it (R203). -/
structure Retains (s t : State) : Prop where
  recordedCheck : t.unit.recordedCheck = s.unit.recordedCheck
  roster : t.accounts.roster = s.accounts.roster
  records : t.journal.records = s.journal.records
  counter : t.journal.counter = s.journal.counter
  mark : t.journal.mark = s.journal.mark
  overrun : ∀ h, (t.hoses.get h).overrun = (s.hoses.get h).overrun
  value : ∀ k, (t.books.get k).value = (s.books.get k).value
  causes : t.tripUnit.causes = s.tripUnit.causes
  stampCounter : t.tripUnit.stampCounter = s.tripUnit.stampCounter

theorem Retains.trans {s t u : State} (f : Retains s t) (g : Retains t u) : Retains s u :=
  ⟨g.1.trans f.1, g.2.trans f.2, g.3.trans f.3, g.4.trans f.4, g.5.trans f.5, fun h => (g.6 h).trans (f.6 h),
    fun k => (g.7 k).trans (f.7 k), g.8.trans f.8, g.9.trans f.9⟩

theorem losePower_retains (s : State) : Retains s (losePower s) := by
  unfold losePower
  split
  · constructor
    case overrun => exact fun h => by rw [PerHose.get_map]; rfl
    case value => exact fun k => by rw [PerBook.get_map]; rfl
    all_goals rfl
  · exact ⟨rfl, rfl, rfl, rfl, rfl, fun _ => rfl, fun _ => rfl, rfl, rfl⟩

theorem losePower_net (s : State) (h : HoseIx) : ((losePower s).meters.get h).net = (s.meters.get h).net := by
  unfold losePower
  split
  · rw [PerHose.get_map]
    rfl
  · rfl

/-- Settles O58: of the domain `losePower_retains` says the rest; a station without power has no command that acts but
POWER_ON, a loss of power included. -/
theorem powerLossKeepsTheRetentionDomain : Obligations.PowerLossKeepsTheRetentionDomain := by
  unfold Obligations.PowerLossKeepsTheRetentionDomain
  refine ⟨fun s hp => ⟨losePower s, rfl, ?_⟩, fun c s hp hc => ?_⟩
  · have kept := losePower_retains s
    refine ⟨?_, kept.recordedCheck, ?_, ?_, ?_, ?_, losePower_net s, ?_⟩
    all_goals unfold losePower; rw [if_pos hp]
    · rfl
    · exact fun h => by cases h <;> exact ⟨rfl, rfl⟩
    · exact fun p => by cases p <;> rfl
    · exact fun h => by rw [PerHose.get_map]; exact ⟨rfl, rfl, rfl⟩
    · intro h l hl
      rw [PerHose.get_ofIx]
      unfold State.retainedAt
      rw [hl]
    · exact ⟨rfl, rfl, fun k => by rw [PerBook.get_map]; exact ⟨rfl, rfl, rfl, rfl⟩, rfl, rfl, rfl, rfl, rfl, rfl⟩
  · cases c
    case powerOn strap image held lost => exact absurd rfl (hc strap image held lost)
    case mainPowerLoss => exact congrArg Host.Outcome.next (losePower_off hp)
    all_goals exact congrArg Host.Outcome.next (whenPowered_off _ hp)

/-! ### What a power-on goes through (O55 to O57) -/

/-- The station with its power back and the straps and the image read (R199 to R202). -/
def State.configured (strap : Nat) (image : List Byte) (s : State) : State := readConfiguration strap image (losePower s)

theorem powerOn_eq (strap : Nat) (image : List Byte) (held : Bool) (s : State) : powerOn strap image held none s
    = startHoses (startTrip (startCloses 6
        (startFirstSteps (startKind held (s.configured strap image).unit) (s.configured strap image)))) := rfl

theorem configured_unit (strap : Nat) (image : List Byte) (s : State) : (s.configured strap image).unit
    = ⟨true, strap, imageKept image, settingsOf (imageKept image), faultReason strap (imageKept image), none, 0, 0, none,
        s.unit.recordedCheck⟩ := by
  rw [← (losePower_retains s).recordedCheck]
  rfl

theorem configured_retains (strap : Nat) (image : List Byte) (s : State) : Retains s (s.configured strap image) := by
  obtain ⟨check, roster, records, counter, mark, overrun, value, causes, stamps⟩ := losePower_retains s
  exact ⟨check, roster, records, counter, mark, overrun, value, causes, stamps⟩

section
variable {s : State}

/-- The trip unit's record at a power-on, before a retained zone-wide cause begins its episode (R134). -/
def State.poweredUp (s : State) : TripUnit :=
  ⟨s.tripUnit.causes.put .powerUp true, s.tripUnit.stampCounter, none, false, [], .fill .unsettled, .unsettled,
    .unqualified, none⟩

theorem startTrip_calm (h : s.tripUnit.causes.zoneWide.any = false) : startTrip s = s.setTripUnit s.poweredUp :=
  if_neg (by rw [h]; exact Bool.false_ne_true)

theorem startTrip_begins (h : s.tripUnit.causes.zoneWide.any = true) :
    startTrip s = announce (s.setTripUnit s.poweredUp.beginEpisode) := if_pos h

/-- In CONFIG_FAULT the record alone is made, and nothing is announced (R134, R173). -/
theorem startTrip_fault (h : s.inConfigFault = true) : startTrip s
    = s.setTripUnit (if s.tripUnit.causes.zoneWide.any then s.poweredUp.beginEpisode else s.poweredUp) := by
  cases hz : s.tripUnit.causes.zoneWide.any with
  | false => exact startTrip_calm hz
  | true => exact (startTrip_begins hz).trans (announce_fault h)

theorem startCloses_fault (n : Nat) (h : s.unit.fault ≠ .none) : startCloses n s = s := if_neg h

theorem closeRetainedFirst_idle : ∀ (hs : List HoseIx) (n : Nat) (s : State), (∀ h ∈ hs, s.retained.get h = none) →
    closeRetainedFirst s hs n = s
  | [], _, _, _ => rfl
  | h :: hs, n, s, idle => by
    unfold closeRetainedFirst
    rw [idle h (by simp)]
    exact closeRetainedFirst_idle hs n s fun g hg => idle g (List.mem_cons_of_mem h hg)

theorem startCloses_idle (n : Nat) (idle : ∀ h, s.retained.get h = none) : startCloses n s = s := by
  unfold startCloses
  split
  · exact closeRetainedFirst_idle _ n s fun h _ => idle h
  · rfl

/-- With one delivery retained, its close is all there is. -/
theorem closeRetainedFirst_one {h : HoseIx} (n : Nat) : ∀ hs : List HoseIx, h ∈ hs →
    (∀ g, g ≠ h → s.retained.get g = none) → closeRetainedFirst s hs (n + 1) = closeRetained h s
  | g :: hs, hm, only => by
    unfold closeRetainedFirst
    by_cases e : g = h
    · subst e
      cases hr : s.retained.get g with
      | none =>
        have idle (k : HoseIx) : s.retained.get k = none := by
          by_cases e : k = g
          · rw [e]; exact hr
          · exact only k e
        have same : closeRetained g s = s := by
          unfold closeRetained
          rw [hr]
        rw [same]
        exact closeRetainedFirst_idle hs _ s fun k _ => idle k
      | some r =>
        refine closeRetainedFirst_idle hs n _ fun k _ => ?_
        rw [closeRetained_retained]
        by_cases e : k = g
        · exact if_pos e
        · exact (if_neg e).trans (only k e)
    · rw [only g e]
      exact closeRetainedFirst_one n hs ((List.mem_cons.mp hm).resolve_left (Ne.symm e)) only

/-- The image's check value read, the start is COLD where the domain was not held, or was another image's (R203). -/
theorem startKind_cold {held : Bool} {u : StartUnit} (hf : u.fault = .none)
    (h : held = true → u.recordedCheck ≠ some (imageCheck u.image)) : startKind held u = .cold :=
  (if_pos hf).trans (if_neg fun ⟨h1, h2⟩ => h h1 h2)

theorem startKind_warm {u : StartUnit} (hf : u.fault = .none) (h : u.recordedCheck = some (imageCheck u.image)) :
    startKind true u = .warm := (if_pos hf).trans (if_pos ⟨rfl, h⟩)

theorem startKind_fault {held : Bool} {u : StartUnit} (hf : u.fault ≠ .none) :
    startKind held u = if held then .warm else .cold := if_neg hf

end

/-! ### The COLD start (O55) -/

section
variable {s : State}

theorem cold_retained (h : HoseIx) : (startFirstSteps .cold s).retained.get h = none := PerHose.get_fill _ h

theorem started_reserved (k : StartKind) : (startFirstSteps k s).journal.reserved
    = if s.unit.fault = .none then (startFirstSteps k s).retainedCount else 0 := by
  have reserved : (startFirstSteps k s).journal.reserved
      = if (s.unit.fault != .none) = true then 0 else (startFirstSteps k s).retainedCount := by cases k <;> rfl
  rw [reserved]
  cases s.unit.fault <;> rfl

theorem cold_journal : (startFirstSteps .cold s).journal = ⟨[], 1, 0, 0, none⟩ := by
  show Journal.mk [] 1 0 (startFirstSteps .cold s).journal.reserved none = _
  rw [started_reserved, retainedCount_none cold_retained, ite_self]

/-- After the COLD values nothing is left to close or to announce. -/
theorem cold_started : startHoses (startTrip (startCloses 6 (startFirstSteps .cold s)))
    = startHoses ((startFirstSteps .cold s).setTripUnit (startFirstSteps .cold s).poweredUp) := by
  rw [startCloses_idle 6 cold_retained]
  exact congrArg startHoses (startTrip_calm rfl)

theorem startHoses_get {h : HoseIx} : (startHoses s).hoses.get h
    = (s.hoses.get h).enter (startState s.inConfigFault (s.hoses.get h).hook) := PerHose.get_map _ _ h

theorem startHoses_enter (s : State) (h : HoseIx) : ∃ st, (startHoses s).hoses.get h = (s.hoses.get h).enter st :=
  ⟨_, startHoses_get⟩

theorem startHoses_valves : (startHoses s).valves = s.valves := rfl

theorem probeUsed_eq (s : State) (c : ProbeIx) : s.probeUsed c = decide ((s.cfg.probes.get c).tank ≠ 0) := by
  rw [Bool.eq_iff_iff, decide_eq_true_iff]
  exact bne_iff_ne

theorem cold_hose (h : HoseIx) : (startFirstSteps .cold s).hoses.get h = unpoweredHose (s.hoseCfg h).initialOverrun := by
  show (((PerHose.ofIx fun h => unpoweredHose (s.hoseCfg h).initialOverrun)).map (startHose .cold)).get h = _
  rw [PerHose.get_map, PerHose.get_ofIx]
  rfl

theorem cold_meter (h : HoseIx) : (startFirstSteps .cold s).meters.get h = startMeter 0 := PerHose.get_ofIx _ h

theorem cold_book (k : BookIx) : (startFirstSteps .cold s).books.get k = ⟨none, .unknown, 0, 0, [], none⟩ := by
  show ((PerBook.fill _).map Book.atStart).get k = _
  rw [PerBook.get_map, PerBook.get_fill]
  rfl

/-- The link unit of a station that is not in CONFIG_FAULT starts in LISTEN, its queue empty (R158, R174). -/
theorem started_link {k : StartKind} (h : s.unit.fault = .none) : (startFirstSteps k s).link
    = ⟨.listen, some 0, none, [], [], .released, none, .muted, [], 0⟩ := by
  cases k <;> exact (congrArg (fun b => Link.mk (if b then .configFault else .listen) (if b then none else some 0) none
    [] [] .released none .muted [] 0) (by rw [h]; rfl : (s.unit.fault != .none) = false))

theorem started_valve (k : StartKind) (h : HoseIx) :
    (startFirstSteps k s).valves.get h = startValve k (s.valves.get h) := by
  rw [startFirstSteps_valves, PerHose.get_map]

theorem started_pump (k : StartKind) (p : PumpIx) :
    (startFirstSteps k s).pumps.get p = startPumpValue k (s.pumps.get p) := by
  rw [startFirstSteps_pumps, PerPump.get_map]

end

/-- Settles O55: the values are those of the first steps, as nothing is retained and no cause is latched. -/
theorem coldStartGivesTheColdValues : Obligations.ColdStartGivesTheColdValues := by
  intro s strap image img held himg hf hk
  obtain rfl : img = imageKept image := himg
  have unit := configured_unit strap image s
  have kind : startKind held (s.configured strap image).unit = .cold := by
    rw [unit]
    exact startKind_cold hf hk
  refine ⟨_, congrArg Host.Outcome.next (powerOn_eq strap image held s), ?_⟩
  rw [kind, cold_started]
  generalize s.configured strap image = c at *
  have calm : (startFirstSteps .cold c).inConfigFault = false := by
    rw [(startFirstSteps_fault .cold c).1, unit, hf]
    rfl
  have settings : c.cfg = settingsOf (imageKept image) := congrArg StartUnit.settings unit
  refine ⟨?_, ?_, rfl, rfl, ?_, rfl, rfl, rfl, rfl, rfl, fun h => cold_retained (s := c) h, fun k => cold_book (s := c) k, ?_, ?_, ?_, ?_, ?_⟩
  · show StartUnit.mk c.unit.powered c.unit.strap c.unit.image c.unit.settings c.unit.fault (some .cold) 0 0 none
      (if c.unit.fault = .none then some (imageCheck c.unit.image) else none) = _
    rw [unit]
    dsimp only
    rw [if_pos hf, hf]
  · exact started_link (k := .cold) (by rw [unit]; exact hf)
  · exact cold_journal (s := c)
  · intro h
    rw [startHoses_get]
    show ((startFirstSteps .cold c).hoses.get h).enter (startState (startFirstSteps .cold c).inConfigFault
      ((startFirstSteps .cold c).hoses.get h).hook) = _
    rw [cold_hose, calm, State.hoseCfg, settings]
    rfl
  · exact fun h => cold_meter (s := c) h
  · intro h
    rw [startHoses_valves, State.setTripUnit_valves, started_valve]
    exact ⟨rfl, rfl, rfl, rfl, rfl⟩
  · exact fun p => started_pump (s := c) .cold p
  · intro p
    show (PerProbe.ofIx fun p => startProbe _).get p = _
    rw [PerProbe.get_ofIx, ← settings]
    exact congrArg (fun b => Probe.mk .acquiring [] b none) (probeUsed_eq c p)

/-! ### CONFIG_FAULT (O56) -/

section
variable {s : State}

theorem warm_retains : Retains s (startFirstSteps .warm s) :=
  ⟨rfl, rfl, rfl, rfl, rfl, fun h => (congrArg Hose.overrun (PerHose.get_map (startHose .warm) s.hoses h)).trans rfl,
    fun k => (congrArg Book.value (PerBook.get_map Book.atStart s.books k)).trans rfl, rfl, rfl⟩

theorem CauseSet.has_put_other {x : CauseSet} {c d : Cause} {b : Bool} (h : d ≠ c) : (x.put c b).has d = x.has d := by
  cases c <;> cases d <;> first | rfl | exact absurd rfl h

theorem started_settings (k : StartKind) : (startFirstSteps k s).unit.settings = s.unit.settings := by cases k <;> rfl

theorem started_faultLink {k : StartKind} (h : s.unit.fault ≠ .none) : (startFirstSteps k s).link
    = ⟨.configFault, none, none, [], [], .released, none, .muted, [], 0⟩ := by
  cases k <;> exact (congrArg (fun b => Link.mk (if b then .configFault else .listen) (if b then none else some 0) none
    [] [] .released none .muted [] 0) (by simpa using h : (s.unit.fault != .none) = true))

/-- The record a power-on makes in CONFIG_FAULT: POWER_UP among the causes, nothing announced. -/
theorem faultRecord {b : Bool} : (if b then s.poweredUp.beginEpisode else s.poweredUp).causes
      = s.tripUnit.causes.put .powerUp true
    ∧ (if b then s.poweredUp.beginEpisode else s.poweredUp).announced = false := by
  cases b <;> exact ⟨rfl, rfl⟩

end

/-- Settles O56: in CONFIG_FAULT nothing closes and nothing is announced after the first steps. -/
theorem faultyConfigurationHoldsTheStation : Obligations.FaultyConfigurationHoldsTheStation := by
  intro s strap image img held himg hf
  obtain rfl : img = imageKept image := himg
  have unit := configured_unit strap image s
  have kept := configured_retains strap image s
  have fault : (s.configured strap image).unit.fault ≠ .none := by rw [unit]; exact hf
  refine ⟨_, congrArg Host.Outcome.next (powerOn_eq strap image held s), ?_⟩
  rw [startKind_fault fault]
  generalize s.configured strap image = c at *
  obtain ⟨k, hk⟩ : ∃ k, k = if held then StartKind.warm else .cold := ⟨_, rfl⟩
  rw [← hk]
  obtain ⟨inFault, same, -, -⟩ := startFirstSteps_fault k c
  have inFault : (startFirstSteps k c).inConfigFault = true := by rw [inFault]; simpa using fault
  rw [startCloses_fault 6 (by rw [same]; exact fault), startTrip_fault inFault]
  obtain ⟨causes, quiet⟩ := faultRecord (s := startFirstSteps k c) (b := (startFirstSteps k c).tripUnit.causes.zoneWide.any)
  have live := startFirstSteps_live k c
  have link := started_faultLink (k := k) fault
  have powered := startFirstSteps_powered k c
  have valve := started_valve (s := c) k
  have pump := started_pump (s := c) k
  generalize (if (startFirstSteps k c).tripUnit.causes.zoneWide.any then (startFirstSteps k c).poweredUp.beginEpisode
    else (startFirstSteps k c).poweredUp) = u at *
  have hose (h : HoseIx) : (startHoses ((startFirstSteps k c).setTripUnit u)).hoses.get h
      = ((startFirstSteps k c).hoses.get h).enter (.refused .config) := by
    rw [startHoses_get]
    exact congrArg _ (if_pos inFault)
  refine ⟨?_, ?_, ?_, ?_, ?_, ?_, ?_, ?_, ?_, quiet, fun h => ?_, fun h => ?_, fun p => ?_, fun e => ?_, fun e => ?_⟩
  · exact powered.trans (by rw [unit])
  · exact same.trans (by rw [unit])
  · exact (started_settings k).trans (by rw [unit])
  · exact congrArg Link.join link
  · exact congrArg Link.joinTimer link
  · exact congrArg Link.ordinary link
  · exact congrArg Link.reserved link
  · exact tripped_of_has (c := .powerUp) (by
      show u.causes.has .powerUp = true
      rw [causes, CauseSet.has_put])
  · show u.causes.has .powerUp = true
    rw [causes, CauseSet.has_put]
  · rw [hose]
    exact ⟨rfl, live h, rfl⟩
  · rw [startHoses_valves, State.setTripUnit_valves, valve]
    exact ⟨rfl, rfl⟩
  · show ((startFirstSteps k c).pumps.get p).state = _
    rw [pump]
    rfl
  · obtain rfl : k = .warm := by rw [hk, e]; rfl
    obtain ⟨check, roster, records, counter, mark, overrun, value, latched, -⟩ := kept.trans warm_retains
    refine ⟨roster, records, counter, mark, check, fun h => ?_, value, fun x hx => ?_⟩
    · rw [hose]
      exact overrun h
    · show u.causes.has x = _
      rw [causes, CauseSet.has_put_other hx, latched]
  · obtain rfl : k = .cold := by rw [hk, e]; rfl
    exact ⟨rfl, rfl, if_neg fault, fun h => cold_retained (s := c) h⟩

/-! ### The WARM start (O57) -/

section
variable {s : State}

theorem handReserved_alone {f : NewFrame} (h : s.link.reserved = []) :
    handReserved f s = s.setLink { s.link with reserved := [s.entryOf f] } := by
  unfold handReserved
  rw [h]
  rfl

/-- Outside CONFIG_FAULT, on an empty queue, the trip unit's start leaves a record of its own and one reserved entry at
most (R134, R136). -/
theorem startTrip_record (calm : s.inConfigFault = false) (empty : s.link.reserved = []) : ∃ u r,
    startTrip s = (s.setTripUnit u).setLink { s.link with reserved := r }
      ∧ u.causes = s.tripUnit.causes.put .powerUp true ∧ u.origins = []
      ∧ (s.tripUnit.causes.zoneWide.any = false → u.episode = none ∧ r = [])
      ∧ (s.tripUnit.causes.zoneWide.any = true → u.announced = true
        ∧ u.stampCounter = nextStamp s.tripUnit.stampCounter ∧ u.episode = some u.stampCounter
        ∧ ∀ z, s.cfg.zone = some z → r = [s.entryOf ⟨0, .trip, oneByte z ++ beBytes 2 u.stampCounter
            ++ oneByte (causeSetCode u.causes.zoneWide), .tripUnit, .plain⟩]) := by
  cases hz : s.tripUnit.causes.zoneWide.any with
  | false =>
    refine ⟨s.poweredUp, [], ?_, rfl, rfl, fun _ => ⟨rfl, rfl⟩, fun c => by cases c⟩
    rw [startTrip_calm hz, ← empty]
    rfl
  | true =>
    refine ⟨{ s.poweredUp.beginEpisode with announced := true },
      [s.entryOf (s.setTripUnit s.poweredUp.beginEpisode).tripFrame], ?_, rfl, rfl, (fun c => by cases c),
      fun _ => ⟨rfl, rfl, rfl, fun z zone => ?_⟩⟩
    · rw [startTrip_begins hz, announce_handed (s := s.setTripUnit s.poweredUp.beginEpisode) calm]
      exact (handReserved_alone (by exact empty)).trans rfl
    · simp only [State.tripFrame, State.zoneByte, show (s.setTripUnit s.poweredUp.beginEpisode).cfg.zone = some z from zone]
      rfl

theorem warm_hose (h : HoseIx) :
    (startFirstSteps .warm s).hoses.get h = unpoweredHose (s.hoses.get h).overrun :=
  (PerHose.get_map (startHose .warm) s.hoses h).trans rfl

theorem warm_book (k : BookIx) : (startFirstSteps .warm s).books.get k = (s.books.get k).atStart :=
  (PerBook.get_map Book.atStart s.books k).trans rfl

theorem warm_meter (h : HoseIx) : (startFirstSteps .warm s).meters.get h = startMeter (startNet .warm s h) :=
  (PerHose.get_ofIx _ h).trans rfl

end

theorem startNet_idle {h : HoseIx} (hr : s.retained.get h = none) : startNet .warm s h = (s.meters.get h).net := by
  simp [startNet, hr]

theorem startNet_retained {h : HoseIx} {r : Retained} (hr : s.retained.get h = some r) : startNet .warm s h = r.net := by
  simp [startNet, hr]

/-- A retained delivery of quantity above 0 is handed on as one closed, with POWER_LOSS or its first reason (R57). -/
theorem closeRetained_handedOn {h : HoseIx} {r : Retained} (hr : s.retained.get h = some r)
    (quantity : 0 < volume (s.hoseCfg h).meterK r.net) :
    HandedOn (closedOf h r.live r.net (r.live.endReason.getD .powerLoss) s) (s.setRetained h none)
      (closeRetained h s) := by
  have handed := handOff_handedOn (c := closedOf h r.live r.net (r.live.endReason.getD .powerLoss) s)
    (s.setRetained h none) (Nat.ne_of_gt quantity)
  unfold closeRetained
  rw [hr]
  exact handed

/-- Settles O57: the first steps keep the domain, the retained delivery is handed off as one closed, and the record is
made anew. -/
theorem warmStartKeepsTheRetentionDomain : Obligations.WarmStartKeepsTheRetentionDomain := by
  intro s strap image img off himg hf recorded gone
  obtain rfl : img = imageKept image := himg
  obtain ⟨v, hv, unit⟩ : ∃ v, s.configured strap image = s.setUnit v ∧ v = ⟨true, strap, imageKept image,
      settingsOf (imageKept image), faultReason strap (imageKept image), none, 0, 0, none, s.unit.recordedCheck⟩ := by
    refine ⟨_, ?_, rfl⟩
    unfold State.configured
    rw [losePower_off off]
    rfl
  have start := powerOn_eq strap image true s
  rw [hv, startKind_warm (u := (s.setUnit v).unit) (by rw [unit]; exact hf) (by rw [unit]; exact recorded)] at start
  have fault : v.fault = .none := by rw [unit]; exact hf
  have settings : v.settings = settingsOf (imageKept image) := by rw [unit]
  clear unit hv
  obtain ⟨inFault, same, -, -⟩ := startFirstSteps_fault .warm (s.setUnit v)
  have calm : (startFirstSteps .warm (s.setUnit v)).inConfigFault = false := by
    rw [inFault]
    simpa using fault
  have link := started_link (s := s.setUnit v) (k := .warm) fault
  refine ⟨fun idle => ⟨_, congrArg Host.Outcome.next start, ?_⟩,
    fun h r hr only quantity => ⟨_, congrArg Host.Outcome.next start, ?_⟩⟩
  · rw [startCloses_idle 6 (by exact idle)]
    obtain ⟨u, r, et, causes, origins, quiet, begun⟩ := startTrip_record calm (congrArg Link.reserved link)
    rw [et]
    refine ⟨rfl, rfl, rfl, congrArg Link.join link, congrArg Link.ordinary link, rfl, ?_, rfl, causes, origins,
      fun h => ?_, fun k => warm_book k, quiet, fun wide => ?_⟩
    · show Journal.mk _ _ _ (startFirstSteps .warm (s.setUnit v)).journal.reserved none = _
      rw [started_reserved, retainedCount_none (s := startFirstSteps .warm (s.setUnit v)) idle, ite_self]
      rfl
    · have hose : ((startHoses (((startFirstSteps .warm (s.setUnit v)).setTripUnit u).setLink
          { (startFirstSteps .warm (s.setUnit v)).link with reserved := r })).hoses.get h)
          = (unpoweredHose (s.hoses.get h).overrun).enter .idle := by
        rw [startHoses_get]
        show ((startFirstSteps .warm (s.setUnit v)).hoses.get h).enter (startState
          (startFirstSteps .warm (s.setUnit v)).inConfigFault ((startFirstSteps .warm (s.setUnit v)).hoses.get h).hook) = _
        rw [calm, warm_hose]
        rfl
      rw [hose]
      refine ⟨rfl, rfl, rfl, ?_⟩
      exact (congrArg Meter.net (warm_meter (s := s.setUnit v) h)).trans (startNet_idle (idle h))
    · obtain ⟨announced, stamp, episode, frame⟩ := begun wide
      exact ⟨announced, stamp.trans (nextStamp_eq _), episode, fun z hz => frame z ((congrArg Settings.zone settings).trans hz)⟩
  · have closes : startCloses 6 (startFirstSteps .warm (s.setUnit v))
        = closeRetained h (startFirstSteps .warm (s.setUnit v)) :=
      (if_pos (same.trans fault)).trans (closeRetainedFirst_one 5 _ (HoseIx.mem_all h) only)
    have ft := startTrip_frame (closeRetained h (startFirstSteps .warm (s.setUnit v)))
    obtain ⟨-, records, -, reserved, -, -, -⟩ := closeRetained_handedOn (s := startFirstSteps .warm (s.setUnit v)) hr
      (by
        show 0 < volume (v.settings.hoses.get h).meterK r.net
        rw [settings]
        exact quantity)
    have fr := (closeRetained_frame h (startFirstSteps .warm (s.setUnit v))).then ft
      (rs := .retained :: .tripUnit :: handOffParts) rfl rfl
    rw [closes]
    obtain ⟨st, hose⟩ := startHoses_enter (startTrip (closeRetained h (startFirstSteps .warm (s.setUnit v)))) h
    rw [show (startTrip _).hoses = _ from fr .hoses (by decide), warm_hose] at hose
    refine ⟨⟨_, (ft.records (by decide)).trans records, rfl, rfl, rfl, rfl, rfl, rfl, rfl, ?_, rfl, rfl, rfl, rfl, rfl⟩,
      ?_, fun g => ?_, ?_, ?_, ?_⟩
    · show volume (v.settings.hoses.get h).meterK r.net = _
      rw [settings]
    · refine (ft.reservations (by decide)).trans (reserved.trans ?_)
      rw [State.setRetained_journal, started_reserved, if_pos (by exact fault),
        retained_set_none (s := startFirstSteps .warm (s.setUnit v)) (h := h) (by exact Option.isSome_of_eq_some hr),
        retainedCount_none fun g => ?_]
      show (s.retained.set h none).get g = none
      by_cases e : g = h
      · rw [e, PerHose.get_set_self]
      · rw [PerHose.get_set_ne _ _ e, only g e]
    · rw [show (startHoses _).retained = _ from ft .retained (by decide), closeRetained_retained]
      by_cases e : g = h
      · exact if_pos e
      · exact (if_neg e).trans (only g e)
    · rw [hose]
      rfl
    · rw [hose]
      rfl
    · rw [show (startHoses _).meters = _ from fr .meters (by decide), warm_meter]
      exact startNet_retained (s := s.setUnit v) hr

end Sys2Proof.Machine
end

section
/-! SUPPORT. The RESTART made at its reply (O59): what its closes leave as it was, the one close of a single live delivery,
and the trip unit's record. -/

namespace Sys2Proof.Machine

/-! ### What a close without teaching keeps (R49) -/

/-- What of hoses and pumps a close that does not teach leaves as it was: learned overruns, hooks and pump proofs. -/
def State.lasting (s : State) : (HoseIx → Nat) × (HoseIx → Option Hook) × (PumpIx → Bool) :=
  (fun h => (s.hoses.get h).overrun, fun h => (s.hoses.get h).hook, fun p => (s.pumps.get p).proof)

theorem lasting_of {s t : State} (overrun : ∀ h, (t.hoses.get h).overrun = (s.hoses.get h).overrun)
    (hook : ∀ h, (t.hoses.get h).hook = (s.hoses.get h).hook)
    (proof : ∀ p, (t.pumps.get p).proof = (s.pumps.get p).proof) : t.lasting = s.lasting :=
  Prod.ext (funext overrun) (Prod.ext (funext hook) (funext proof))

theorem lasting_of_parts {s t : State} (hoses : t.hoses = s.hoses) (pumps : t.pumps = s.pumps) : t.lasting = s.lasting :=
  lasting_of (fun _ => by rw [hoses]) (fun _ => by rw [hoses]) fun _ => by rw [pumps]

theorem moveHose_lasting (h : HoseIx) (st : HoseState) (s : State) : (moveHose h st s).lasting = s.lasting := by
  refine lasting_of (fun g => ?_) (fun g => ?_) fun p => ?_
  · rw [moveHose_hose]
    split
    · next e => rw [e]; rfl
    · rfl
  · rw [moveHose_hose]
    split
    · next e => rw [e]; rfl
    · rfl
  · obtain e | ⟨-, -, -, -, e⟩ | ⟨-, -, e⟩ := moveHose_pump h st s p <;> rw [e]

theorem setHose_lasting {s : State} {h : HoseIx} {x : Hose} (overrun : x.overrun = (s.hoses.get h).overrun)
    (hook : x.hook = (s.hoses.get h).hook) : (s.setHose h x).lasting = s.lasting := by
  refine lasting_of (fun g => ?_) (fun g => ?_) fun _ => rfl
  all_goals rw [State.setHose_hoses, PerHose.get_set]; split
  · next e => rw [e, overrun]
  · rfl
  · next e => rw [e, hook]
  · rfl

theorem endRaw_lasting (h : HoseIx) (r : EndReason) (s : State) : (endRaw h r s).lasting = s.lasting := by
  have enters : (enterEnding h r s).lasting = s.lasting := (moveHose_lasting h .ending _).trans (setHose_lasting rfl rfl)
  unfold endRaw
  split <;> first | exact enters | rfl

theorem endAll_lasting (r : EndReason) : ∀ (hs : List HoseIx) (s : State), (endAll hs r s).lasting = s.lasting
  | [], _ => rfl
  | h :: hs, s => (endAll_lasting r hs (endRaw h r s)).trans (endRaw_lasting h r s)

theorem closeRaw_lasting (h : HoseIx) (f : Option HoseFault) (r : EndReason) (s : State) :
    (closeRaw h false f r s).lasting = s.lasting := by
  have handed (c : Closed) (t : State) : (handOff c t).lasting = t.lasting :=
    lasting_of_parts (handOff_frame c t .hoses (by decide)) (handOff_frame c t .pumps (by decide))
  have watched (tank : Nat) (t : State) : (watchRaw tank t).lasting = t.lasting := by
    unfold watchRaw
    split
    · exact endAll_lasting _ _ t
    · rfl
  unfold closeRaw
  simp only [Bool.false_eq_true, false_and, if_false]
  split
  · rfl
  · split
    · rw [handed, moveHose_lasting]
      exact setHose_lasting rfl rfl
    · rw [watched, handed, moveHose_lasting]
      exact setHose_lasting rfl rfl

/-! ### The closes of a RESTART (R56, R205) -/

theorem restartCloses_foldl {α : Type} {f : State → α} (hf : ∀ h s, f (closeForRestart h s) = f s) :
    ∀ (hs : List HoseIx) (s : State), f (hs.foldl (fun s h => closeForRestart h s) s) = f s
  | [], _ => rfl
  | h :: hs, s => (restartCloses_foldl hf hs (closeForRestart h s)).trans (hf h s)

theorem restartCloses_frame (s : State) :
    sameOutside closing (startBooks (startTime .restart s)) (restartCloses s) :=
  .foldl (fun h s => closeRaw_frame h _ _ _ s) _ _

theorem restartCloses_lasting (s : State) : (restartCloses s).lasting = s.lasting :=
  (restartCloses_foldl (f := State.lasting) (fun h s => closeRaw_lasting h _ _ s) _ _).trans rfl

theorem restartCloses_net (s : State) (h : HoseIx) : ((restartCloses s).meters.get h).net = (s.meters.get h).net :=
  (net_of_steady (restartCloses_foldl (f := State.steady) (fun h s => closeRaw_steady h _ _ _ s) _ _) h).trans rfl

section
variable {s : State} {h : HoseIx}

theorem closeForRestart_idle (hl : (s.hoses.get h).live = none) : closeForRestart h s = s := by
  unfold closeForRestart closeRaw
  simp only [hl]

theorem closes_idle : ∀ (hs : List HoseIx) (s : State), (∀ g ∈ hs, (s.hoses.get g).live = none) →
    hs.foldl (fun s h => closeForRestart h s) s = s
  | [], _, _ => rfl
  | h :: hs, s, idle => by
    rw [List.foldl_cons, closeForRestart_idle (idle h (by simp))]
    exact closes_idle hs s fun g hg => idle g (List.mem_cons_of_mem h hg)

theorem watchRaw_noneLive (tank : Nat) (none : ∀ g, (s.hoses.get g).live = none) : watchRaw tank s = s := by
  have tanks (g : HoseIx) : s.liveTank g = Option.none := by
    unfold State.liveTank
    rw [none, Option.map_none, ite_self]
  have empty : s.liveOn tank = [] := List.filter_eq_nil_iff.mpr fun g _ => by simp [tanks]
  unfold watchRaw
  rw [empty]
  exact ite_self _

/-- The close of the station's one live delivery leaves the dead-level watch no other to end. -/
theorem closeForRestart_alone {l : Live} (hl : (s.hoses.get h).live = some l)
    (only : ∀ g, g ≠ h → (s.hoses.get g).live = none) : ∃ st, closeForRestart h s
      = handOff (closedOf h l (s.meters.get h).net (l.endReason.getD .restart) s)
          (moveHose h st (s.setHose h { s.hoses.get h with live := none, meterMark := false })) := by
  refine ⟨afterClose (s.hoses.get h) none (l.endReason.getD .restart), ?_⟩
  unfold closeForRestart reasonOr closeRaw
  simp only [hl, Bool.false_eq_true, false_and, if_false]
  split
  · rfl
  · refine watchRaw_noneLive _ fun g => ?_
    rw [show (handOff _ _).hoses = _ from handOff_frame _ _ .hoses (by decide)]
    by_cases e : g = h
    · rw [e, (setHose_moves _).1]
      rfl
    · rw [(setHose_moves _).2.1 g e]
      exact only g e

/-- With one delivery live, its close is all there is. -/
theorem closes_one (only : ∀ g, g ≠ h → (s.hoses.get g).live = none)
    (after : ∀ g, ((closeForRestart h s).hoses.get g).live = none) : ∀ hs : List HoseIx, h ∈ hs →
    hs.foldl (fun s h => closeForRestart h s) s = closeForRestart h s
  | g :: hs, hm => by
    rw [List.foldl_cons]
    by_cases e : g = h
    · rw [e]
      exact closes_idle hs _ fun k _ => after k
    · rw [closeForRestart_idle (only g e)]
      exact closes_one only after hs ((List.mem_cons.mp hm).resolve_left (Ne.symm e))

/-- The delivery's record is written by that close (R50, R142). -/
theorem closes_alone {l : Live} (hl : (s.hoses.get h).live = some l) (only : ∀ g, g ≠ h → (s.hoses.get g).live = none)
    (quantity : 0 < volume (s.hoseCfg h).meterK (s.meters.get h).net) :
    HandedOn (closedOf h l (s.meters.get h).net (l.endReason.getD .restart) s) s
      (HoseIx.all.foldl (fun s h => closeForRestart h s) s) := by
  obtain ⟨st, closes⟩ := closeForRestart_alone hl only
  obtain ⟨own, others, moved⟩ := setHose_moves (s := s) (h := h)
    (x := { s.hoses.get h with live := none, meterMark := false }) st
  have after (g : HoseIx) : ((closeForRestart h s).hoses.get g).live = none := by
    rw [closes, show (handOff _ _).hoses = _ from handOff_frame _ _ .hoses (by decide)]
    by_cases e : g = h
    · rw [e, own]
      rfl
    · rw [others g e]
      exact only g e
  rw [closes_one only after HoseIx.all (HoseIx.mem_all h), closes]
  exact (handOff_handedOn _ (Nat.ne_of_gt quantity)).of_moved moved

theorem tripFrame_eq {z stamp : Nat} (zone : s.cfg.zone = some z) (episode : s.tripUnit.episode = some stamp) :
    s.tripFrame = ⟨0, .trip, oneByte z ++ beBytes 2 stamp ++ oneByte (causeSetCode s.tripUnit.causes.zoneWide),
      .tripUnit, .plain⟩ := by
  unfold State.tripFrame State.zoneByte
  rw [zone, episode]
  rfl

/-- Outside CONFIG_FAULT, on an empty queue, the trip unit's RESTART empties the origins and hands over the TRIP of a
current episode alone (R135). -/
theorem restartTrip_record (calm : s.inConfigFault = false) (empty : s.link.reserved = []) : ∃ r,
    restartTrip s = (s.setTripUnit { s.tripUnit with
        origins := [], announced := s.tripUnit.announced || s.tripUnit.causes.zoneWide.any }).setLink
        { s.link with reserved := r }
      ∧ (s.tripUnit.causes.zoneWide.any = false → r = [])
      ∧ ∀ z stamp, s.tripUnit.causes.zoneWide.any = true → s.cfg.zone = some z → s.tripUnit.episode = some stamp →
        r = [s.entryOf ⟨0, .trip, oneByte z ++ beBytes 2 stamp ++ oneByte (causeSetCode s.tripUnit.causes.zoneWide),
          .tripUnit, .plain⟩] := by
  cases hz : s.tripUnit.causes.zoneWide.any with
  | false =>
    refine ⟨[], ?_, fun _ => rfl, fun _ _ c => by cases c⟩
    rw [Bool.or_false, ← empty]
    exact if_neg (by rw [hz]; exact Bool.false_ne_true)
  | true =>
    refine ⟨[s.entryOf (s.setTripUnit { s.tripUnit with origins := [] }).tripFrame], ?_, (fun c => by cases c),
      fun z stamp _ zone episode => ?_⟩
    · rw [Bool.or_true]
      refine (if_pos hz).trans ?_
      rw [announce_handed (s := s.setTripUnit { s.tripUnit with origins := [] }) calm]
      exact (handReserved_alone (by exact empty)).trans rfl
    · exact congrArg (fun f => [s.entryOf f])
        (tripFrame_eq (s := s.setTripUnit { s.tripUnit with origins := [] }) zone episode)

end

/-! ### The blocks after the closes (R10, R21, R25, R28, R205) -/

section
variable {s : State}

theorem restarted_hose (h : HoseIx) : (restartBlocks s).hoses.get h
    = { unpoweredHose (s.hoses.get h).overrun with hook := (s.hoses.get h).hook } :=
  (PerHose.get_map (startHose .restart) s.hoses h).trans rfl

theorem startHoses_pumps : (startHoses s).pumps = s.pumps := rfl

theorem restarted_meter (h : HoseIx) : (restartBlocks s).meters.get h = startMeter (s.meters.get h).net :=
  (PerHose.get_ofIx _ h).trans rfl

theorem restarted_pump (p : PumpIx) : (restartBlocks s).pumps.get p = ⟨.cooldown, some 0, (s.pumps.get p).proof⟩ :=
  (PerPump.get_map (startPumpValue .restart) s.pumps p).trans rfl

theorem startState_restart (hook : Option Hook) :
    startState false hook = if hook = some .offHook then .refused .notHung else .idle := by
  rcases hook with _ | _ | _ <;> rfl

end

/-- Settles O59: through the closes only the deliveries, journal, books and accounts have moved, and the blocks' values and
the trip unit's record are set on that. -/
theorem restartIsMadeAtItsReply : Obligations.RestartIsMadeAtItsReply := by
  intro s e hp hd hc purpose
  have sent := exec_frameSent hp hd hc
  rw [purpose] at sent
  obtain ⟨s0, hs0⟩ : ∃ s0, s0 = s.setLink { s.link.dropCurrent with driver := .released, failures := 0 } := ⟨_, rfl⟩
  rw [← hs0, show tellSent .restartReply s0 = _ from makeRestart_eq s0] at sent
  refine ⟨_, sent, ?_⟩
  have closes := restartCloses_frame s0
  have unit : (restartCloses s0).unit = { s.unit with kind := some .restart, seconds := 0, millis := 0, siteOffset := none } :=
    Eq.trans (closes .unit (by decide)) (by rw [hs0]; rfl)
  have trip : (restartCloses s0).tripUnit = s.tripUnit := Eq.trans (closes .tripUnit (by decide)) (by rw [hs0]; rfl)
  have lasting : (restartCloses s0).lasting = s.lasting := (restartCloses_lasting s0).trans (by rw [hs0]; rfl)
  have net (h : HoseIx) : ((restartCloses s0).meters.get h).net = (s.meters.get h).net :=
    (restartCloses_net s0 h).trans (by rw [hs0]; rfl)
  have idle (none : ∀ h, (s.hoses.get h).live = none) : restartCloses s0 = startBooks (startTime .restart s0) :=
    closes_idle _ _ fun h _ => by rw [hs0]; exact none h
  have alone (h : HoseIx) (l : Live) (hl : (s.hoses.get h).live = some l) (only : ∀ g, g ≠ h → (s.hoses.get g).live = none)
      (quantity : 0 < volume (s.hoseCfg h).meterK (s.meters.get h).net) :
      HandedOn (closedOf h l ((startBooks (startTime .restart s0)).meters.get h).net (l.endReason.getD .restart)
        (startBooks (startTime .restart s0))) (startBooks (startTime .restart s0)) (restartCloses s0) :=
    closes_alone (s := startBooks (startTime .restart s0)) (h := h) (l := l) (by rw [hs0]; exact hl) (by rw [hs0]; exact only)
      (by rw [hs0]; exact quantity)
  generalize restartCloses s0 = c at *
  obtain ⟨r, et, quiet, again⟩ := restartTrip_record (s := startHoses (restartBlocks c)) rfl rfl
  rw [et]
  have overrun (h : HoseIx) : (c.hoses.get h).overrun = (s.hoses.get h).overrun :=
    congrFun (congrArg Prod.fst lasting) h
  have hook (h : HoseIx) : (c.hoses.get h).hook = (s.hoses.get h).hook :=
    congrFun (congrArg (·.2.1) lasting) h
  have proof (p : PumpIx) : (c.pumps.get p).proof = (s.pumps.get p).proof :=
    congrFun (congrArg (·.2.2) lasting) p
  refine ⟨unit, rfl, rfl, rfl, rfl, fun h => ?_, fun p => ?_, rfl, rfl, ?_, ?_, ?_, fun none => ?_,
    fun h l hl only quantity => ?_⟩
  · have hose := (startHoses_get (s := restartBlocks c) (h := h)).trans
      (congrArg (fun x : Hose => x.enter (startState false x.hook)) (restarted_hose h))
    rw [State.setLink_hoses, State.setTripUnit_hoses, hose]
    refine ⟨rfl, hook h, overrun h, ?_, Eq.trans (congrArg Meter.net (restarted_meter h)) (net h)⟩
    exact (congrArg (startState false) (hook h)).trans (startState_restart _)
  · rw [State.setLink_pumps, State.setTripUnit_pumps, startHoses_pumps, restarted_pump, proof]
  · rw [← trip]
    rfl
  · rw [← trip]
    exact quiet
  · intro z stamp wide zone episode
    rw [← trip] at wide episode ⊢
    exact again z stamp wide (by
      show c.unit.settings.zone = some z
      rw [unit]
      exact zone) episode
  · rw [idle none, hs0]
    exact ⟨rfl, rfl⟩
  · obtain ⟨-, records, -⟩ := alone h l hl only quantity
    rw [hs0] at records
    exact ⟨_, records, rfl, rfl, rfl, rfl, rfl, rfl⟩

end Sys2Proof.Machine
end

section
/-! SUPPORT. Layouts (O60): a body as the list of its fields, where each stands, and the bodies of the station's replies in
that form. -/

namespace Sys2Proof.Machine

/-! ### A body as the list of its fields -/

/-- The characters of fields laid out one after another, each a number of characters and a value. -/
def laidOut (fs : List (Nat × Nat)) : List Byte := fs.flatMap fun f => beBytes f.1 f.2

/-- The field that begins at an offset. -/
def fieldAt : List (Nat × Nat) → Nat → Option (Nat × Nat)
  | [], _ => none
  | (n, v) :: fs, off => if off = 0 then some (n, v) else if n ≤ off then fieldAt fs (off - n) else none

theorem holds_laidOut : ∀ {fs : List (Nat × Nat)} {off n v : Nat}, fieldAt fs off = some (n, v) →
    Holds (laidOut fs) off n v
  | [], _, _, _, h => by cases h
  | (m, w) :: fs, off, n, v, h => by
    unfold fieldAt at h
    unfold laidOut
    rw [List.flatMap_cons]
    by_cases h0 : off = 0
    · rw [if_pos h0] at h
      obtain ⟨rfl, rfl⟩ := Prod.mk.inj (Option.some.inj h)
      rw [h0]
      exact holds_head m w _
    · rw [if_neg h0] at h
      by_cases hm : m ≤ off
      · rw [if_pos hm] at h
        rw [holds_append_right _ _ _ _ _ (by rw [length_beBytes]; exact hm), length_beBytes]
        exact holds_laidOut h
      · rw [if_neg hm] at h
        cases h

theorem fieldAt_fits : ∀ {fs : List (Nat × Nat)} {off n v : Nat}, fieldAt fs off = some (n, v) →
    off + n ≤ (laidOut fs).length
  | [], _, _, _, h => by cases h
  | (m, w) :: fs, off, n, v, h => by
    unfold fieldAt at h
    unfold laidOut
    rw [List.flatMap_cons, List.length_append, length_beBytes]
    by_cases h0 : off = 0
    · rw [if_pos h0] at h
      obtain ⟨rfl, rfl⟩ := Prod.mk.inj (Option.some.inj h)
      omega
    · rw [if_neg h0] at h
      by_cases hm : m ≤ off
      · rw [if_pos hm] at h
        have := fieldAt_fits h
        unfold laidOut at this
        omega
      · rw [if_neg hm] at h
        cases h

theorem holds_append_left {a : List Byte} (b : List Byte) {off n v : Nat} (h : off + n ≤ a.length) :
    Holds (a ++ b) off n v ↔ Holds a off n v := by
  unfold Holds field
  rw [List.drop_append_of_le_length (by omega), List.take_append_of_le_length (by rw [List.length_drop]; omega)]

/-- A field of one piece among pieces of one length stands in the body past what comes before that piece. -/
theorem holds_piece {α : Type} {f : α → List Byte} {m : Nat} (hm : ∀ a, (f a).length = m) {a : α} (tail : List Byte)
    {off n v : Nat} (h : Holds (f a) off n v) (fits : off + n ≤ m) : ∀ {xs : List α} {i : Nat}, xs[i]? = some a →
    Holds (xs.flatMap f ++ tail) (m * i + off) n v
  | [], _, e => by simp at e
  | x :: xs, 0, e => by
    obtain rfl : x = a := by simpa using e
    rw [List.flatMap_cons, List.append_assoc, Nat.mul_zero, Nat.zero_add]
    exact (holds_append_left _ (by rw [hm]; exact fits)).mpr h
  | x :: xs, i + 1, e => by
    rw [List.flatMap_cons, List.append_assoc, holds_append_right _ _ _ _ _ (by rw [hm, Nat.mul_succ]; omega), hm,
      show m * (i + 1) + off - m = m * i + off by rw [Nat.mul_succ]; omega]
    exact holds_piece hm tail h fits (by simpa using e)

/-- The same in a body with a head before the pieces, the piece given by its fields. -/
theorem holds_block {α : Type} {f : α → List Byte} {m : Nat} (hm : ∀ a, (f a).length = m) {b head tail : List Byte}
    {xs : List α} (hb : b = head ++ (xs.flatMap f ++ tail)) {i : Nat} {a : α} (hi : xs[i]? = some a)
    {fs : List (Nat × Nat)} (laid : f a = laidOut fs) (off : Nat) {place n v : Nat} (h : fieldAt fs off = some (n, v))
    (e : place = head.length + (m * i + off)) : Holds b place n v := by
  rw [hb, e, holds_append_right _ _ _ _ _ (by omega), Nat.add_sub_cancel_left]
  refine holds_piece hm tail ?_ ?_ hi
  · rw [laid]
    exact holds_laidOut h
  · rw [← hm a, laid]
    exact fieldAt_fits h

theorem length_flatMap_of {α : Type} {f : α → List Byte} {m : Nat} (hm : ∀ a, (f a).length = m) (xs : List α) :
    (xs.flatMap f).length = m * xs.length := by
  simp [List.length_flatMap, hm, Nat.mul_comm]

/-- Any characters are the layout of their value. -/
theorem beBytes_beValue (bs : List Byte) : beBytes bs.length (beValue bs) = bs := by
  induction bs using List.reverseRecOn with
  | nil => rfl
  | append_singleton bs b ih =>
    have hb := b.isLt
    rw [List.length_append, List.length_singleton, beValue_snoc, beBytes,
      show (beValue bs * 256 + b.toNat) / 256 = beValue bs by omega, ih]
    congr 2
    exact BitVec.eq_of_toNat_eq (by rw [BitVec.toNat_ofNat]; omega)

theorem unstated_laid (part offset n : Nat) : unstated part offset n = beBytes n (beValue (unstated part offset n)) := by
  have len : (unstated part offset n).length = n := by simp [unstated]
  have laid := beBytes_beValue (unstated part offset n)
  rw [len] at laid
  exact laid.symm

/-! ### The parts of ACCOUNT_REP and the journal record (R86, R144) -/

/-- The fields of an ACCOUNT_REP, HEAD. -/
def headFields (r : MachineRecord) (size : Nat) : List (Nat × Nat) :=
  [(1, 1), (3, r.id), (1, standingCode r.cls r.suspended), (3, hoursField r.lastHours),
    (3, hoursField (r.lastFill.map fun f => f.hours)), (4, (r.lastFill.map fun f => f.quantity).getD 0),
    (2, r.burnCeiling), (3, r.perFillMax), (3, r.slack), (1, r.anomalies.highBurn), (1, r.anomalies.hourJump),
    (1, r.anomalies.hoursBack), (1, r.anomalies.early), (1, r.anomalies.overdue),
    (1, (r.lastDraw.map fun k => k.origin).getD 0), (4, (r.lastDraw.map fun k => k.number).getD 0),
    (1, r.windows.length), (2, size)]

theorem accountHead_laid (r : MachineRecord) (size : Nat) : accountHead r size = laidOut (headFields r size) := by
  simp [accountHead, headFields, laidOut, oneByte]

theorem accountHead_holds (r : MachineRecord) (n : Nat) (b : List Byte) (hb : b = accountHead r n) :
    b.length = 36 ∧ Holds b 0 1 1 ∧ Holds b 1 3 r.id ∧ Holds b 4 1 (standingCode r.cls r.suspended)
      ∧ Holds b 5 3 (r.lastHours.getD 16777215) ∧ (r.lastFill = none → Holds b 8 3 16777215 ∧ Holds b 11 4 0)
      ∧ (∀ f, r.lastFill = some f → Holds b 8 3 f.hours ∧ Holds b 11 4 f.quantity)
      ∧ Holds b 15 2 r.burnCeiling ∧ Holds b 17 3 r.perFillMax ∧ Holds b 20 3 r.slack
      ∧ Holds b 23 1 r.anomalies.highBurn ∧ Holds b 24 1 r.anomalies.hourJump ∧ Holds b 25 1 r.anomalies.hoursBack
      ∧ Holds b 26 1 r.anomalies.early ∧ Holds b 27 1 r.anomalies.overdue
      ∧ (r.lastDraw = none → Holds b 28 1 0 ∧ Holds b 29 4 0)
      ∧ (∀ q, r.lastDraw = some q → Holds b 28 1 q.origin ∧ Holds b 29 4 q.number)
      ∧ Holds b 33 1 r.windows.length ∧ Holds b 34 2 n := by
  rw [hb, accountHead_laid]
  refine ⟨by simp [laidOut, headFields], holds_laidOut rfl, holds_laidOut rfl, holds_laidOut rfl, holds_laidOut rfl, fun e => ?_,
    fun f e => ?_, holds_laidOut rfl, holds_laidOut rfl, holds_laidOut rfl, holds_laidOut rfl, holds_laidOut rfl,
    holds_laidOut rfl, holds_laidOut rfl, holds_laidOut rfl, fun e => ?_, fun q e => ?_, holds_laidOut rfl,
    holds_laidOut rfl⟩
  all_goals unfold headFields; rw [e]; exact ⟨holds_laidOut rfl, holds_laidOut rfl⟩

/-- The fields of a service window of an ACCOUNT_REP. -/
def windowFields (w : ServiceWindow) : List (Nat × Nat) :=
  [(1, productCode w.product), (3, w.interval), (2, w.tolerance), (3, w.dueFrom), (3, w.dueUntil), (3, w.quantity)]

theorem window_laid (w : ServiceWindow) : w.bytes = laidOut (windowFields w) := by
  simp [ServiceWindow.bytes, windowFields, laidOut, oneByte]

theorem length_window (w : ServiceWindow) : w.bytes.length = 15 := by simp [window_laid, windowFields, laidOut]

theorem accountWindows_holds (r : MachineRecord) (b : List Byte) (hb : b = accountWindows r) :
    b.length = 4 + 15 * r.windows.length ∧ Holds b 0 1 2 ∧ Holds b 1 3 r.id
      ∧ ∀ k w, r.windows[k]? = some w → Holds b (4 + 15 * k) 1 (productCode w.product)
        ∧ Holds b (5 + 15 * k) 3 w.interval ∧ Holds b (8 + 15 * k) 2 w.tolerance ∧ Holds b (10 + 15 * k) 3 w.dueFrom
        ∧ Holds b (13 + 15 * k) 3 w.dueUntil ∧ Holds b (16 + 15 * k) 3 w.quantity := by
  have head : oneByte 2 ++ beBytes 3 r.id = laidOut [(1, 2), (3, r.id)] := by simp [laidOut, oneByte]
  have len : (oneByte 2 ++ beBytes 3 r.id).length = 4 := by simp
  refine ⟨?_, ?_, ?_, fun k w hw => ?_⟩
  · rw [hb, accountWindows, List.length_append, len, length_flatMap_of length_window]
  · rw [hb, accountWindows, holds_append_left _ (by simp), head]
    exact holds_laidOut rfl
  · rw [hb, accountWindows, holds_append_left _ (by simp), head]
    exact holds_laidOut rfl
  · have body : b = (oneByte 2 ++ beBytes 3 r.id) ++ (r.windows.flatMap ServiceWindow.bytes ++ []) := by
      rw [hb, accountWindows, List.append_nil]
    have at' := holds_block length_window body hw (window_laid w)
    rw [len] at at'
    exact ⟨at' 0 rfl (by omega), at' 1 rfl (by omega), at' 4 rfl (by omega), at' 6 rfl (by omega), at' 9 rfl (by omega),
      at' 12 rfl (by omega)⟩

/-- The fields of a delivery record. -/
def recordFields (r : DeliveryRecord) : List (Nat × Nat) :=
  [(4, r.sequence), (1, r.hose.number), (1, productCode r.product), (1, r.tank), (3, r.machine),
    (3, hoursField r.hours), (3, r.limit), (4, volumeAt .journalRec r.quantity), (1, endReasonCode r.reason),
    (2, recordFlagsCode r.flags), (4, r.startTime), (4, r.endTime), (4, r.siteTime.getD 0),
    (1, bitCode r.collected + 2 * bitCode r.siteTime.isSome)]

theorem journalRec_laid (r : DeliveryRecord) : journalRecBody r = laidOut (recordFields r) := by
  simp [journalRecBody, recordFields, laidOut, oneByte]

theorem field_of_holds {b : List Byte} {off n v : Nat} (h : Holds b off n v) (hv : v < 256 ^ n) : field b off n = v :=
  Eq.trans h (Nat.mod_eq_of_lt hv)

theorem volumeAt_lt (p : Config.VolumePlace) (q : Nat) : volumeAt p q < 256 ^ 4 := Nat.lt_succ_of_le (volumeAt_le p q)

theorem journalRec_holds (r : DeliveryRecord) (b : List Byte) (hb : b = journalRecBody r) :
    b.length = 36 ∧ Holds b 0 4 r.sequence ∧ Holds b 4 1 r.hose.number ∧ Holds b 5 1 (productCode r.product)
      ∧ Holds b 6 1 r.tank ∧ Holds b 7 3 r.machine ∧ Holds b 10 3 (r.hours.getD 16777215) ∧ Holds b 13 3 r.limit
      ∧ (r.quantity ≤ 4294967295 → Holds b 16 4 r.quantity) ∧ (0 < r.quantity → 0 < field b 16 4)
      ∧ Holds b 20 1 (endReasonCode r.reason) ∧ Holds b 21 2 (recordFlagsCode r.flags)
      ∧ Holds b 23 4 r.startTime ∧ Holds b 27 4 r.endTime ∧ Holds b 31 4 (r.siteTime.getD 0)
      ∧ Holds b 35 1 ((if r.collected then 1 else 0) + 2 * (if r.siteTime.isSome then 1 else 0)) := by
  rw [hb, journalRec_laid]
  have quantity : Holds (laidOut (recordFields r)) 16 4 (volumeAt .journalRec r.quantity) := holds_laidOut rfl
  refine ⟨by simp [laidOut, recordFields], holds_laidOut rfl, holds_laidOut rfl, holds_laidOut rfl, holds_laidOut rfl,
    holds_laidOut rfl, holds_laidOut rfl, holds_laidOut rfl, fun hq => ?_, fun hq => ?_, holds_laidOut rfl,
    holds_laidOut rfl, holds_laidOut rfl, holds_laidOut rfl, holds_laidOut rfl, holds_laidOut rfl⟩
  · rw [volumeAt_of_le _ hq] at quantity
    exact quantity
  · rw [field_of_holds quantity (volumeAt_lt _ _)]
    exact least_le_volumeAt (p := .journalRec) hq

/-! ### The parts of STATUS_REP (R180) -/

section
variable {s : State}

/-- The fields of part 1, STATION, with the value its zone character has. -/
def State.stationFields (s : State) (zone : Nat) : List (Nat × Nat) :=
  [(1, 1), (1, joinStateCode s.link.join), (1, zone), (1, bitCode s.tripped), (1, causeSetCode s.tripUnit.causes),
    (2, s.tripUnit.episode.getD 0), (1, bitCode s.tripUnit.announced), (1, s.tripUnit.origins.length),
    (1, s.stationFlags), (1, spillCode (s.cfg.spill.get .i1).function (s.tripUnit.inputs.get .i1)),
    (1, spillCode (s.cfg.spill.get .i2).function (s.tripUnit.inputs.get .i2)),
    (1, spillCode (s.cfg.spill.get .i3).function (s.tripUnit.inputs.get .i3)),
    (1, spillCode (s.cfg.spill.get .i4).function (s.tripUnit.inputs.get .i4)), (1, buttonCode s.tripUnit.button),
    (1, s.journal.uncollected), (1, s.journal.reserved), (2, s.accounts.roster.length), (1, s.accounts.permits.length),
    (4, s.unit.seconds), (1, bitCode s.siteTime.isSome), (4, s.siteTime.getD 0), (2, s.counts.framing),
    (2, s.counts.check), (2, s.counts.overrun), (2, s.counts.collision), (2, s.counts.drop), (2, s.counts.malformed),
    (2, s.counts.peerFull), (2, s.counts.rosterFull)]

theorem station_laid {zone : Nat} (h : s.statusZone = beBytes 1 zone) :
    s.statusBody 1 = laidOut (s.stationFields zone) := by
  simp [State.statusBody, State.statusStation, State.stationFields, Counts.bytes, InputIx.all, laidOut, oneByte, h]

theorem statusZone_laid : ∃ zone, s.statusZone = beBytes 1 zone ∧ ∀ z, s.cfg.zone = some z → zone = z := by
  unfold State.statusZone
  cases s.cfg.zone with
  | none => exact ⟨_, unstated_laid 1 2 1, fun _ c => by cases c⟩
  | some z => exact ⟨z, rfl, fun _ e => Option.some.inj e⟩

theorem statusStation_holds (s : State) (b : List Byte) (hb : b = s.statusBody 1) :
    b.length = 45 ∧ Holds b 0 1 1 ∧ Holds b 1 1 (joinStateCode s.link.join) ∧ (∀ z, s.cfg.zone = some z → Holds b 2 1 z)
      ∧ Holds b 3 1 (if s.tripped then 1 else 0) ∧ Holds b 4 1 (causeSetCode s.tripUnit.causes)
      ∧ Holds b 5 2 (s.tripUnit.episode.getD 0) ∧ Holds b 7 1 (if s.tripUnit.announced then 1 else 0)
      ∧ Holds b 8 1 s.tripUnit.origins.length
      ∧ Holds b 9 1 (bitCode s.inConfigFault + 2 * bitCode s.gauging.conflict + 4 * bitCode s.journal.full
        + 8 * bitCode s.accounts.rosterFull)
      ∧ (∀ i, Holds b (10 + i.index) 1 (spillCode (s.cfg.spill.get i).function (s.tripUnit.inputs.get i)))
      ∧ Holds b 14 1 (buttonCode s.tripUnit.button)
      ∧ Holds b 15 1 (s.journal.records.filter fun r => !r.collected).length ∧ Holds b 16 1 s.journal.reserved
      ∧ Holds b 17 2 s.accounts.roster.length ∧ Holds b 19 1 s.accounts.permits.length ∧ Holds b 20 4 s.unit.seconds
      ∧ Holds b 24 1 (if s.siteTime.isSome then 1 else 0) ∧ Holds b 25 4 (s.siteTime.getD 0)
      ∧ Holds b 29 2 s.counts.framing ∧ Holds b 31 2 s.counts.check ∧ Holds b 33 2 s.counts.overrun
      ∧ Holds b 35 2 s.counts.collision ∧ Holds b 37 2 s.counts.drop ∧ Holds b 39 2 s.counts.malformed
      ∧ Holds b 41 2 s.counts.peerFull ∧ Holds b 43 2 s.counts.rosterFull := by
  obtain ⟨zone, laid, taken⟩ := statusZone_laid (s := s)
  rw [hb, station_laid laid]
  refine ⟨by simp [laidOut, State.stationFields], holds_laidOut rfl, holds_laidOut rfl, fun z hz => ?_, holds_laidOut rfl,
    holds_laidOut rfl, holds_laidOut rfl, holds_laidOut rfl, holds_laidOut rfl, holds_laidOut rfl, fun i => ?_,
    holds_laidOut rfl, holds_laidOut rfl, holds_laidOut rfl, holds_laidOut rfl, holds_laidOut rfl, holds_laidOut rfl,
    holds_laidOut rfl, holds_laidOut rfl, holds_laidOut rfl, holds_laidOut rfl, holds_laidOut rfl, holds_laidOut rfl,
    holds_laidOut rfl, holds_laidOut rfl, holds_laidOut rfl, holds_laidOut rfl⟩
  · rw [taken z hz]
    exact holds_laidOut rfl
  · cases i <;> exact holds_laidOut rfl

/-- The fields of a hose in part 2, HOSES. -/
def State.hoseFields (s : State) (h : HoseIx) : List (Nat × Nat) :=
  [(1, hookCode (s.hoses.get h).hook), (1, hoseStateCode (s.hoses.get h).state), (1, reasonCode (s.hoses.get h)),
    (4, volumeAt .liveVolume ((s.liveVolume h).getD 0)), (1, (s.valves.get h).duty), (1, bitCode (s.valves.get h).closed)]

theorem statusHose_laid (s : State) (h : HoseIx) : s.statusHose h = laidOut (s.hoseFields h) := by
  simp [State.statusHose, State.hoseFields, laidOut, oneByte]

theorem length_statusHose (s : State) (h : HoseIx) : (s.statusHose h).length = 9 := by
  simp [statusHose_laid, State.hoseFields, laidOut]

theorem hoseIx_get (h : HoseIx) : HoseIx.all[h.index]? = some h := by cases h <;> rfl

theorem statusHoses_holds (s : State) (b : List Byte) (hb : b = s.statusBody 2) :
    b.length = 55 ∧ Holds b 0 1 2 ∧ ∀ (h : HoseIx) (k : Nat), k = 9 * h.index →
    Holds b (1 + k) 1 (hookCode (s.hoses.get h).hook) ∧ Holds b (2 + k) 1 (hoseStateCode (s.hoses.get h).state)
      ∧ (∀ l r, (s.hoses.get h).state = .ending → (s.hoses.get h).live = some l → l.endReason = some r →
        Holds b (3 + k) 1 (endReasonCode r))
      ∧ (∀ r, (s.hoses.get h).state = .done r → Holds b (3 + k) 1 (endReasonCode r))
      ∧ (∀ r, (s.hoses.get h).state = .refused r → Holds b (3 + k) 1 (refusalReasonCode r))
      ∧ (∀ f, (s.hoses.get h).state = .outOfService f → Holds b (3 + k) 1 (hoseFaultCode f))
      ∧ ((s.hoses.get h).state = .idle ∨ (s.hoses.get h).state = .waiting ∨ (s.hoses.get h).state = .priming
        ∨ (s.hoses.get h).state = .flowing ∨ (s.hoses.get h).state = .trimming → Holds b (3 + k) 1 0)
      ∧ (liveState (s.hoses.get h).state = false → Holds b (4 + k) 4 0)
      ∧ (liveState (s.hoses.get h).state = true → volume (s.hoseCfg h).meterK (s.meters.get h).net ≤ 4294967295 →
        Holds b (4 + k) 4 (volume (s.hoseCfg h).meterK (s.meters.get h).net))
      ∧ Holds b (8 + k) 1 (s.valves.get h).duty ∧ Holds b (9 + k) 1 (if (s.valves.get h).closed then 1 else 0) := by
  have body : b = oneByte 2 ++ (HoseIx.all.flatMap s.statusHose ++ []) := by rw [hb, List.append_nil]; rfl
  refine ⟨?_, ?_, fun h k hk => ?_⟩
  · rw [body, List.append_nil, List.length_append, length_flatMap_of (length_statusHose s)]
    rfl
  · rw [body]
    exact holds_head_one 2 _
  have at' := holds_block (length_statusHose s) body (hoseIx_get h) (statusHose_laid s h)
  rw [length_oneByte] at at'
  have reason {n : Nat} (e : reasonCode (s.hoses.get h) = n) : Holds b (3 + k) 1 n := by
    rw [← e]
    exact at' 2 rfl (by omega)
  have live {n : Nat} (e : volumeAt .liveVolume ((s.liveVolume h).getD 0) = n) : Holds b (4 + k) 4 n := by
    rw [← e]
    exact at' 3 rfl (by omega)
  refine ⟨at' 0 rfl (by omega), at' 1 rfl (by omega), fun l r e el er => reason ?_, fun r e => reason ?_,
    fun r e => reason ?_, fun f e => reason ?_, fun e => reason ?_, fun e => live ?_, fun e le => live ?_,
    at' 7 rfl (by omega), at' 8 rfl (by omega)⟩
  · simp [reasonCode, e, el, er]
  · simp [reasonCode, e]
  · simp [reasonCode, e]
  · simp [reasonCode, e]
  · rcases e with e | e | e | e | e <;> simp [reasonCode, e]
  · simp [State.liveVolume, e]
  · simp [State.liveVolume, e, le]

/-- The book positions of a part of STATUS_REP, TANKS, in their order. -/
def booksOfPart (part : Nat) : List (Nat × BookIx) :=
  if part = 3 then [(0, .b1), (1, .b2), (2, .b3), (3, .b4)] else [(0, .b5), (1, .b6), (2, .b7), (3, .b8)]

theorem bookIx_get (i : BookIx) : (booksOfPart (3 + i.index / 4))[i.index % 4]? = some (i.index % 4, i) := by
  cases i <;> rfl

theorem statusBody_books (s : State) (i : BookIx) : s.statusBody (3 + i.index / 4) = oneByte (3 + i.index / 4)
    ++ ((booksOfPart (3 + i.index / 4)).flatMap (fun j => s.statusBook (3 + i.index / 4) j.1 j.2) ++ []) := by
  have parts (part : Nat) (h : part = 3 ∨ part = 4) : s.statusBody part
      = oneByte part ++ ((booksOfPart part).flatMap (fun j => s.statusBook part j.1 j.2) ++ []) := by
    rcases h with rfl | rfl <;> simp [State.statusBody, booksOfPart]
  exact parts _ (by cases i <;> decide)

/-- The fields of a book position in parts 3 and 4, TANKS. -/
def State.bookFields (s : State) (part k : Nat) (i : BookIx) : List (Nat × Nat) :=
  if (s.cfg.books.get i).tank = 0 then
    [(1, 0), (1, beValue (unstated part (2 + 13 * k) 1)), (4, 0), (7, beValue (unstated part (7 + 13 * k) 7))]
  else
    [(1, (s.cfg.books.get i).tank), (1, bookStateCode (s.books.get i).state), (4, (s.books.get i).value.getD 0),
      (1, bitCode (decide ((s.books.get i).variance < 0))), (4, (s.books.get i).variance.natAbs),
      (2, (s.books.get i).varianceCount)]

theorem statusBook_laid (s : State) (part k : Nat) (i : BookIx) :
    s.statusBook part k i = laidOut (s.bookFields part k i) := by
  unfold State.statusBook State.bookFields
  dsimp only
  split
  · simp [laidOut, oneByte, ← unstated_laid]
  · simp [laidOut, oneByte]

theorem length_statusBook (s : State) (part k : Nat) (i : BookIx) : (s.statusBook part k i).length = 13 := by
  rw [statusBook_laid]
  unfold State.bookFields
  split <;> simp [laidOut]

theorem statusBooks_holds (s : State) (i : BookIx) (b : List Byte) (k : Nat) (hb : b = s.statusBody (3 + i.index / 4))
    (hk : k = 13 * (i.index % 4)) :
    b.length = 53 ∧ Holds b 0 1 (3 + i.index / 4) ∧ Holds b (1 + k) 1 (s.cfg.books.get i).tank
      ∧ ((s.cfg.books.get i).tank = 0 → Holds b (3 + k) 4 0)
      ∧ ((s.cfg.books.get i).tank ≠ 0 → Holds b (2 + k) 1 (bookStateCode (s.books.get i).state)
        ∧ Holds b (3 + k) 4 ((s.books.get i).value.getD 0)
        ∧ Holds b (7 + k) 1 (if (s.books.get i).variance < 0 then 1 else 0)
        ∧ Holds b (8 + k) 4 (s.books.get i).variance.natAbs ∧ Holds b (12 + k) 2 (s.books.get i).varianceCount) := by
  have body := hb.trans (statusBody_books s i)
  have len (j : Nat × BookIx) : (s.statusBook (3 + i.index / 4) j.1 j.2).length = 13 := length_statusBook s _ _ _
  have at' {fs : List (Nat × Nat)} (laid : s.bookFields (3 + i.index / 4) (i.index % 4) i = fs) :=
    holds_block len body (bookIx_get i) ((statusBook_laid s _ _ _).trans (congrArg laidOut laid))
  rw [length_oneByte] at at'
  refine ⟨?_, ?_, ?_, fun unused => ?_, fun used => ?_⟩
  · rw [body, List.append_nil, List.length_append, length_oneByte, length_flatMap_of len]
    unfold booksOfPart
    split <;> rfl
  · rw [body]
    exact holds_head_one _ _
  · by_cases e : (s.cfg.books.get i).tank = 0
    · rw [e]
      exact at' (if_pos e) 0 rfl (by omega)
    · exact at' (if_neg e) 0 rfl (by omega)
  · exact at' (if_pos unused) 2 rfl (by omega)
  · have sign : bitCode (decide ((s.books.get i).variance < 0)) = if (s.books.get i).variance < 0 then 1 else 0 := by
      simp [bitCode]
    rw [← sign]
    exact ⟨at' (if_neg used) 1 rfl (by omega), at' (if_neg used) 2 rfl (by omega), at' (if_neg used) 6 rfl (by omega),
      at' (if_neg used) 7 rfl (by omega), at' (if_neg used) 11 rfl (by omega)⟩

/-- The fields of a pump position in part 5, PLANT. -/
def State.pumpFields (s : State) (p : PumpIx) : List (Nat × Nat) :=
  if s.cfg.pumpTanks.get p = 0 then [(1, 0), (4, beValue (unstated 5 (2 + 5 * p.index) 4))]
  else
    [(1, s.cfg.pumpTanks.get p), (1, pumpStateCode (s.pumps.get p).state), (1, bitCode (s.pumps.get p).state.contactor),
      (1, bitCode (s.pumps.get p).proof), (1, s.runCount (s.cfg.pumpTanks.get p))]

theorem statusPump_laid (s : State) (p : PumpIx) : s.statusPump p = laidOut (s.pumpFields p) := by
  unfold State.statusPump State.pumpFields
  dsimp only
  split
  · simp [laidOut, oneByte, ← unstated_laid]
  · simp [laidOut, oneByte]

theorem length_statusPump (s : State) (p : PumpIx) : (s.statusPump p).length = 5 := by
  rw [statusPump_laid]
  unfold State.pumpFields
  split <;> simp [laidOut]

/-- The fields of a probe position in part 5, PLANT. -/
def State.probeFields (s : State) (c : ProbeIx) : List (Nat × Nat) :=
  if s.probeUsed c = false then
    [(1, 0), (1, beValue (unstated 5 (22 + 5 * c.index) 1)), (2, 65535), (1, beValue (unstated 5 (25 + 5 * c.index) 1))]
  else
    [(1, (s.cfg.probes.get c).tank), (1, probeStateCode (s.probes.get c).state),
      (2, (s.probes.get c).reported.getD 65535), (1, bitCode (s.probes.get c).overfill)]

theorem statusProbe_laid (s : State) (c : ProbeIx) : s.statusProbe c = laidOut (s.probeFields c) := by
  unfold State.statusProbe State.probeFields
  dsimp only
  split
  · simp [laidOut, oneByte, ← unstated_laid]
  · simp [laidOut, oneByte]

theorem length_statusProbe (s : State) (c : ProbeIx) : (s.statusProbe c).length = 5 := by
  rw [statusProbe_laid]
  unfold State.probeFields
  split <;> simp [laidOut]

theorem pumpIx_get (p : PumpIx) : PumpIx.all[p.index]? = some p := by cases p <;> rfl

theorem probeIx_get (c : ProbeIx) : ProbeIx.all[c.index]? = some c := by cases c <;> rfl

theorem probeUsed_eq_false {c : ProbeIx} : s.probeUsed c = false ↔ (s.cfg.probes.get c).tank = 0 := by
  simp [State.probeUsed]

theorem statusPlant_holds (s : State) (b : List Byte) (hb : b = s.statusBody 5) : b.length = 41 ∧ Holds b 0 1 5
    ∧ (∀ (p : PumpIx) (k : Nat), k = 5 * p.index → Holds b (1 + k) 1 (s.cfg.pumpTanks.get p)
      ∧ (s.cfg.pumpTanks.get p ≠ 0 → Holds b (2 + k) 1 (pumpStateCode (s.pumps.get p).state)
        ∧ Holds b (3 + k) 1 (if (s.pumps.get p).state.contactor then 1 else 0)
        ∧ Holds b (4 + k) 1 (if (s.pumps.get p).proof then 1 else 0)
        ∧ Holds b (5 + k) 1 (s.runCount (s.cfg.pumpTanks.get p))))
    ∧ (∀ (c : ProbeIx) (k : Nat), k = 5 * c.index → Holds b (21 + k) 1 (s.cfg.probes.get c).tank
      ∧ ((s.cfg.probes.get c).tank = 0 → Holds b (23 + k) 2 65535)
      ∧ ((s.cfg.probes.get c).tank ≠ 0 → Holds b (22 + k) 1 (probeStateCode (s.probes.get c).state)
        ∧ ((s.probes.get c).history = [] → Holds b (23 + k) 2 65535)
        ∧ ((s.probes.get c).history ≠ [] →
          Holds b (23 + k) 2 ((s.probes.get c).history.sum / (s.probes.get c).history.length))
        ∧ Holds b (25 + k) 1 (if (s.probes.get c).overfill then 1 else 0))) := by
  have pumps : b = oneByte 5 ++ (PumpIx.all.flatMap s.statusPump ++ ProbeIx.all.flatMap s.statusProbe) :=
    hb.trans (List.append_assoc ..)
  have probes : b = (oneByte 5 ++ PumpIx.all.flatMap s.statusPump) ++ (ProbeIx.all.flatMap s.statusProbe ++ []) := by
    rw [hb, List.append_nil]
    rfl
  have before : (oneByte 5 ++ PumpIx.all.flatMap s.statusPump).length = 21 := by
    rw [List.length_append, length_flatMap_of (length_statusPump s)]
    rfl
  refine ⟨?_, ?_, fun p k hk => ?_, fun c k hk => ?_⟩
  · rw [probes, List.append_nil, List.length_append, before, length_flatMap_of (length_statusProbe s)]
    rfl
  · rw [pumps]
    exact holds_head_one 5 _
  · have at' {fs : List (Nat × Nat)} (laid : s.pumpFields p = fs) :=
      holds_block (length_statusPump s) pumps (pumpIx_get p) ((statusPump_laid s p).trans (congrArg laidOut laid))
    rw [length_oneByte] at at'
    refine ⟨?_, fun used => ⟨at' (if_neg used) 1 rfl (by omega), at' (if_neg used) 2 rfl (by omega),
      at' (if_neg used) 3 rfl (by omega), at' (if_neg used) 4 rfl (by omega)⟩⟩
    by_cases e : s.cfg.pumpTanks.get p = 0
    · rw [e]
      exact at' (if_pos e) 0 rfl (by omega)
    · exact at' (if_neg e) 0 rfl (by omega)
  · have at' {fs : List (Nat × Nat)} (laid : s.probeFields c = fs) :=
      holds_block (length_statusProbe s) probes (probeIx_get c) ((statusProbe_laid s c).trans (congrArg laidOut laid))
    rw [before] at at'
    have runs (used : (s.cfg.probes.get c).tank ≠ 0) : ¬s.probeUsed c = false := fun e => used (probeUsed_eq_false.mp e)
    have height (used : (s.cfg.probes.get c).tank ≠ 0) {n : Nat} (e : (s.probes.get c).reported.getD 65535 = n) :
        Holds b (23 + k) 2 n := by
      rw [← e]
      exact at' (if_neg (runs used)) 2 rfl (by omega)
    refine ⟨?_, fun unused => at' (if_pos (probeUsed_eq_false.mpr unused)) 2 rfl (by omega),
      fun used => ⟨at' (if_neg (runs used)) 1 rfl (by omega), fun e => height used ?_, fun e => height used ?_,
        at' (if_neg (runs used)) 4 rfl (by omega)⟩⟩
    · by_cases e : (s.cfg.probes.get c).tank = 0
      · rw [e]
        exact at' (if_pos (probeUsed_eq_false.mpr e)) 0 rfl (by omega)
      · exact at' (if_neg (runs e)) 0 rfl (by omega)
    · simp [Probe.reported, e]
    · simp [Probe.reported, e]

/-- The fields of an entry in parts 6 and 7, ORIGINS. -/
def Origin.fields (o : Origin) : List (Nat × Nat) := [(1, o.address), (2, o.stamp), (1, causeSetCode o.causes)]

theorem origin_laid (o : Origin) : o.bytes = laidOut o.fields := by simp [Origin.bytes, Origin.fields, laidOut, oneByte]

theorem length_origin (o : Origin) : o.bytes.length = 4 := by simp [origin_laid, Origin.fields, laidOut]

theorem origins_holds {os : List Origin} {part : Nat} {b : List Byte} (hb : b = oneByte part ++ os.flatMap Origin.bytes) :
    b.length = 1 + 4 * os.length ∧ Holds b 0 1 part ∧ ∀ k o, os[k]? = some o → Holds b (1 + 4 * k) 1 o.address
      ∧ Holds b (2 + 4 * k) 2 o.stamp ∧ Holds b (4 + 4 * k) 1 (causeSetCode o.causes) := by
  refine ⟨?_, ?_, fun k o ho => ?_⟩
  · rw [hb, List.length_append, length_oneByte, length_flatMap_of length_origin]
  · rw [hb]
    exact holds_head_one part _
  · have body : b = oneByte part ++ (os.flatMap Origin.bytes ++ []) := by rw [hb, List.append_nil]
    have at' := holds_block length_origin body ho (origin_laid o)
    rw [length_oneByte] at at'
    exact ⟨at' 0 rfl (by omega), at' 1 rfl (by omega), at' 3 rfl (by omega)⟩

theorem statusOrigins_holds (s : State) (a b : List Byte) (ha : a = s.statusBody 6) (hb : b = s.statusBody 7) :
    a.length = 1 + 4 * min 8 s.tripUnit.origins.length ∧ b.length = 1 + 4 * min 8 (s.tripUnit.origins.length - 8)
      ∧ Holds a 0 1 6 ∧ Holds b 0 1 7
      ∧ (∀ k o, k < 8 → s.tripUnit.origins[k]? = some o → Holds a (1 + 4 * k) 1 o.address
        ∧ Holds a (2 + 4 * k) 2 o.stamp ∧ Holds a (4 + 4 * k) 1 (causeSetCode o.causes))
      ∧ (∀ k o, k < 8 → s.tripUnit.origins[8 + k]? = some o → Holds b (1 + 4 * k) 1 o.address
        ∧ Holds b (2 + 4 * k) 2 o.stamp ∧ Holds b (4 + 4 * k) 1 (causeSetCode o.causes)) := by
  obtain ⟨lenA, partA, entryA⟩ := origins_holds (os := s.tripUnit.origins.take 8) (part := 6) ha
  obtain ⟨lenB, partB, entryB⟩ := origins_holds (os := (s.tripUnit.origins.drop 8).take 8) (part := 7) hb
  refine ⟨by rw [lenA, List.length_take], by rw [lenB, List.length_take, List.length_drop], partA, partB,
    fun k o hk ho => entryA k o ?_, fun k o hk ho => entryB k o ?_⟩
  · rw [List.getElem?_take_of_lt hk, ho]
  · rw [List.getElem?_take_of_lt hk, List.getElem?_drop, ho]

end

/-! ### The DRAW of a close (R186) -/

/-- The fields of a DRAW. -/
def drawFields (n : Nat) (c : Closed) : List (Nat × Nat) :=
  [(4, n), (1, c.tank), (1, productCode c.product), (3, c.machine), (3, hoursField c.hours),
    (4, volumeAt .draw c.quantity)]

theorem drawBytes_laid (n : Nat) (c : Closed) : drawBytes n c = laidOut (drawFields n c) := by
  simp [drawBytes, drawFields, laidOut, oneByte]

theorem productOfCode_code (p : Product) : productOfCode (productCode p) = p := by cases p <;> rfl

theorem productCode_within (p : Product) : 1 ≤ productCode p ∧ productCode p ≤ 6 := by cases p <;> decide

theorem hoursOfField_field {hours : Option Nat} (h : ∀ x, hours = some x → x ≤ 999999) :
    hoursOfField (hoursField hours) = hours ∧ hoursInRange (hoursField hours) = true ∧ hoursField hours < 256 ^ 3 := by
  cases hours with
  | none => exact ⟨rfl, rfl, by decide⟩
  | some x =>
    have hx := h x rfl
    refine ⟨if_neg (by show x ≠ _; omega), ?_, ?_⟩
    · show (x == _ || decide (x ≤ 999999)) = true
      simp [hx]
    · show x < 16777216
      omega

/-- A DRAW is read back as the close's (R177, R186). -/
theorem drawBody_drawBytes {c : Closed} {n : Nat} (hn : 1 ≤ n ∧ n ≤ 4294967295) (ht : 1 ≤ c.tank ∧ c.tank ≤ 64)
    (hm : 1 ≤ c.machine ∧ c.machine ≤ 16777214) (hh : ∀ x, c.hours = some x → x ≤ 999999) (hq : 0 < c.quantity) :
    drawBody (drawBytes n c) = .sound
      ⟨n, c.tank, c.product, c.machine, c.hours, volumeAt .draw c.quantity⟩ := by
  obtain ⟨back, inRange, fits⟩ := hoursOfField_field hh
  have code := productCode_within c.product
  have least := least_le_volumeAt (p := .draw) hq
  have most := volumeAt_le .draw c.quantity
  rw [drawBytes_laid]
  have len : (laidOut (drawFields n c)).length = 16 := by simp [laidOut, drawFields]
  have f0 : field (laidOut (drawFields n c)) 0 4 = n := field_of_holds (holds_laidOut rfl) (by omega)
  have f4 : field (laidOut (drawFields n c)) 4 1 = c.tank := field_of_holds (holds_laidOut rfl) (by omega)
  have f5 : field (laidOut (drawFields n c)) 5 1 = productCode c.product := field_of_holds (holds_laidOut rfl) (by omega)
  have f6 : field (laidOut (drawFields n c)) 6 3 = c.machine := field_of_holds (holds_laidOut rfl) (by omega)
  have f9 : field (laidOut (drawFields n c)) 9 3 = hoursField c.hours := field_of_holds (holds_laidOut rfl) fits
  have f12 : field (laidOut (drawFields n c)) 12 4 = volumeAt .draw c.quantity :=
    field_of_holds (holds_laidOut rfl) (volumeAt_lt _ _)
  unfold drawBody fixedBody
  rw [if_neg (not_not.mpr len), f0, f4, f5, f6, f9, f12, back, inRange, productOfCode_code, if_pos]
  simp only [Bool.and_eq_true, within_eq_true]
  exact ⟨⟨⟨⟨⟨hn, ht⟩, code⟩, hm⟩, trivial⟩, least, most⟩

/-! ### Replies and REFUSEDs (R173, R178, R179) -/

section
variable {s : State} {f : NewFrame}

theorem handOver_reply (hk : familyOf f.kind = .reply) (h : s.inConfigFault = false ∨ takenInConfigFault f = true) :
    handOver f s = handOrdinary f s := by
  unfold handOver
  rw [if_neg (by rcases h with h | h <;> simp [h])]
  split
  · next k => rw [k] at hk; cases hk
  · next k => rw [k] at hk; cases hk
  · next k => rw [k] at hk; cases hk
  · rfl

theorem handOrdinary_joins (hl : s.link.ordinary.length < 6) :
    handOrdinary f s = s.setLink { s.link with ordinary := s.link.ordinary ++ [s.entryOf f] } := if_pos hl

theorem refused_body {kind : Nat} {c : RefusalCode} (hk : kind < 256) {b : List Byte}
    (hb : b = oneByte kind ++ oneByte (refusalCodeCode c)) :
    b.length = 2 ∧ field b 0 1 = kind ∧ field b 1 1 = refusalCodeCode c := by
  have laid : b = laidOut [(1, kind), (1, refusalCodeCode c)] := by simp [hb, laidOut, oneByte]
  rw [laid]
  exact ⟨by simp [laidOut], field_of_holds (holds_laidOut rfl) (by omega),
    field_of_holds (holds_laidOut rfl) (by cases c <;> decide)⟩

/-- In CONFIG_FAULT a REFUSED is taken where it answers a STATUS_REQ or IDENT_REQ (R173). -/
theorem refused_taken {dest kind : Nat} {c : RefusalCode} {owner : Block} (hk : kind < 256) :
    takenInConfigFault ⟨dest, .refused, oneByte kind ++ oneByte (refusalCodeCode c), owner, .plain⟩ = true
      ↔ kind = 32 ∨ kind = 33 := by
  have same (n : Nat) (hn : n < 256) : (some (BitVec.ofNat 8 kind) == some (BitVec.ofNat 8 n)) = true ↔ kind = n := by
    rw [beq_iff_eq, Option.some_inj]
    refine ⟨fun e => ?_, fun e => by rw [e]⟩
    have := congrArg BitVec.toNat e
    rw [BitVec.toNat_ofNat, BitVec.toNat_ofNat] at this
    omega
  exact Bool.or_eq_true_iff.trans (or_congr (same 32 (by decide)) (same 33 (by decide)))

end

/-- Settles O60, item by item. -/
theorem repliesCarryTheirLayouts : Obligations.RepliesCarryTheirLayouts := by
  refine ⟨fun s dest k body owner p hk hf => ⟨fun hl => ?_, fun hl => ?_⟩, fun s dest kind c owner hk => ⟨fun hf h1 h2 => ?_,
    fun hf hl => ?_⟩, statusStation_holds, statusHoses_holds, statusBooks_holds, statusPlant_holds, statusOrigins_holds,
    accountHead_holds, accountWindows_holds, journalRec_holds, fun c n hn ht hm hh hq => ?_⟩
  · exact (handOver_reply hk (.inl hf)).trans (handOrdinary_joins hl)
  · refine (handOver_reply hk (.inl hf)).trans (handOrdinary_drops hl (.inl ⟨?_, ?_⟩))
    · rintro rfl; cases hk
    · rintro rfl; cases hk
  · refine if_pos ?_
    rw [hf, Bool.true_and, Bool.not_eq_true']
    exact Bool.eq_false_iff.mpr fun e => ((refused_taken hk).mp e).elim h1 h2
  · refine ⟨_, (handOver_reply rfl ?_).trans (handOrdinary_joins hl), rfl, rfl, rfl, ?_⟩
    · exact hf.imp_right (refused_taken hk).mpr
    · obtain ⟨len, answered, code⟩ := refused_body (c := c) hk rfl
      exact ⟨len, answered, code.trans (by cases c <;> rfl)⟩
  · exact ⟨_, drawBody_drawBytes hn ht hm hh hq, least_le_volumeAt (p := .draw) hq, volumeAt_le _ _, volumeAt_of_le _⟩

end Sys2Proof.Machine
end
